-- ==== Sys2Proof/Word.lean ====
section
/-!
DEFINITION. The word types of Zurax and the codeword that carries a grain (R10, R321).
-/
namespace Sys2Proof

/-- A byte. -/
abbrev Byte := BitVec 8

/-- An eight-byte word: a register, an atomic operand, a tally. -/
abbrev Word := BitVec 64

/-- The 32 data bytes of a grain, byte 0 in bits [7:0] (R10). -/
abbrev Grain := BitVec 256

/-- The bits of an F32 value (R132). -/
abbrev F32 := BitVec 32

/-- A transported or stored codeword (R321): data symbols 0-31 and check symbols 32-35, symbol 32 lowest. -/
structure Codeword where
  data : Grain
  check : BitVec 32
  deriving DecidableEq, Repr, Inhabited

/-- The two parts that share the harbour die (R1). -/
inductive Part where
  | z16
  | z8
  deriving DecidableEq, Repr, Inhabited

/-- Virtual channels of a host port (R44). -/
inductive Channel where
  | pilot
  | control
  | read
  | write
  deriving DecidableEq, Repr, Inhabited

end Sys2Proof
end

