-- ==== Sys2Proof/Syntax.lean ====
section
/-!
DEFINITION. The commands of Zurax: one constructor for each row of spec/opcode_table.json, with its operands.

No row of the table gives bits; the operands are what the rule of the row needs from outside the block.
-/
namespace Sys2Proof

/-- Where a roadstead packet reaches the landing engine from: one of the eight landing ports (R165), or the
loopback of packets that this harbour sends to itself (R434). With `loop i` the packet is the i-th one waiting there,
and the row's header and payload are not read. -/
inductive LandSrc where
  | port (n : Nat)
  | loop (i : Nat)
  deriving DecidableEq, Repr

/-- A link that can replay a frame (R62). -/
inductive LinkId where
  | hostPort (p : Nat)
  | quay (q : Nat)
  deriving DecidableEq, Repr

/-- A silent error of the arithmetic: byte `off` of the result is XORed with `mask`.
A list of them is the difference between what a unit wrote and what the rule gives; healthy hardware has none. -/
structure Flip where
  off : Nat
  mask : Byte
  deriving DecidableEq, Repr

/-- What a quay measured over a 400 wt interval (R309, R20): the power other than berth power, all its power, and the
highest top-core-die reading. -/
structure QuayMeas where
  otherMw : Nat
  quayMw : Nat
  tempC : Nat
  deriving DecidableEq, Repr

/-- What a berth unit has done by a gap between its row bursts (R313): how many result grains it has written, and which older
values it has read for them (R317). -/
structure GapWork where
  written : Nat
  older : List Nat
  deriving DecidableEq, Repr

/-- A quay that wakes, with the lanes of its link that failed their training (R388, R347). -/
structure QuayUp where
  quay : Nat
  failed : List Nat
  deriving DecidableEq, Repr

/-- What the hardware gives in a round of a field test (R344): the seal of unit `unit` of quay `quay` is XORed with `err`. Healthy
hardware has none. -/
structure TestError where
  round : Nat
  quay : Nat
  unit : Nat
  err : BitVec 16
  deriving DecidableEq, Repr

/-- What the Idle state applies to (R385): an engine of Table 6-7, or the berth unit of a bank. -/
inductive IdleUnit where
  | engine (e : Nat)
  | berth (b : Nat)
  deriving DecidableEq, Repr

/-- What a further instruction of the test port asks for (R415, R416, R425, R432). -/
inductive DebugOp where
  | wrapper (unit : Nat)
  | regRead (off : Nat)
  | regWrite (off : Nat) (v : Word)
  | sramRead (off : Nat)
  | sramWrite (off : Nat) (v : Word)
  | halt
  | resume
  | keyHash (off : Nat)              -- at the port's own offsets (R425)
  | blowDbgKill
  | blowKeyRevoked (k : Nat)
  | blowSvnMin (bits : BitVec 8)
  deriving DecidableEq, Repr

/-- The commands. Operands: `p` a host port, `hdr` a request header (Table 3-1) or a packet header (Table 9-1), `v` an
eight-byte register value, `cx` the context number of a started command, `b` a bank, `q` a quay, `n` a parameter set. -/
inductive Instr where
  -- host requests (03, 05)
  | rd (p : Nat) (hdr : BitVec 128)
  | rda (p : Nat) (hdr : BitVec 128)
  | wr (p : Nat) (hdr : BitVec 128) (data : List Codeword)
  | wrr (p : Nat) (hdr : BitVec 128) (data : List Codeword)
  | finalWrite (p : Nat) (hdr : BitVec 128) (data : List Codeword)
  | atm (p : Nat) (hdr : BitVec 128) (operands : List Word)
  | fnl (p : Nat) (hdr : BitVec 128)
  | plt (p : Nat) (hdr : BitVec 128) (msg : BitVec 128) (latency : Nat)
  | flitWithoutCredit (p : Nat)
  | responseCredit (p : Nat) (ch : Channel)
  | linkReplay (link : LinkId) (pilot : Bool)
  | heldRead (p : Nat) (tag : Nat)
  -- commands (04)
  | commandStart (w : Nat)
  | heldReplyPost (w : Nat)
  | psetCreate (cx : Nat)
  | psetDestroy (cx : Nat)
  | psetConst (cx : Nat)
  | tdCreate (cx : Nat)
  | tdDestroy (cx : Nat)
  | psetQuery (cx : Nat)
  | manOpen (cx : Nat)
  | manCancel (cx : Nat)
  | manQuery (cx : Nat)
  | watchSet (cx : Nat)
  | watchClear (cx : Nat)
  | routeLoad (cx : Nat)
  | tokenSend (cx : Nat)
  | tokenReturn (cx : Nat)
  | gradDispatch (cx : Nat)
  | bufRelease (cx : Nat)
  | bufReleaseTimeout (cx : Nat)
  | sweep (cx : Nat)
  | sweepResume (cx : Nat)
  | sweepLandTimeout (cx : Nat)
  | sweepNormTimeout (cx : Nat)
  | lossScale (cx : Nat)
  | exportSub (cx : Nat)
  | exportUnsub (cx : Nat)
  | exportPush (cx : Nat)
  | berthBatch (cx : Nat)
  | berthCancel (cx : Nat)
  | gateOpen (cx : Nat)
  | gateArrive (cx : Nat)
  | gateAbort (cx : Nat)
  | beaconWait (cx : Nat)
  | beaconWaitTimeout (cx : Nat)
  | taskClose (cx : Nat)
  | checkFraction (cx : Nat)
  | fieldTest (cx : Nat) (errors : List TestError)
  | patternLoad (cx : Nat)
  | rowRepair (cx : Nat)
  | scrubRange (cx : Nat)
  | checkpoint (cx : Nat)
  | restore (cx : Nat)
  | replay (cx : Nat) (flips : List Flip)
  | digest (cx : Nat)
  | snapArm (cx : Nat)
  | shardCopy (cx : Nat)
  | quayState (cx : Nat)
  | harbourMoor (cx : Nat)
  | configSave (cx : Nat)
  | logbookRead (cx : Nat)
  -- gates and attention lines (06)
  | gateExpiry (g : Nat)
  | engineGateArrival (engine : Nat) (g : Nat)
  | attnLineEdge (die : Nat) (line : Nat)
  -- landing (09, 10)
  | landingWrite (src : LandSrc) (hdr : BitVec 256) (payload : List Codeword)
  | tokenPacket (src : LandSrc) (hdr : BitVec 256) (payload : List Codeword)
  | contribPacket (src : LandSrc) (hdr : BitVec 256) (payload : List Codeword)
  | ackPacket (src : LandSrc) (hdr : BitVec 256) (payload : List Codeword)
  | gateArrivalMsg (src : LandSrc) (hdr : BitVec 256) (payload : List Codeword)
  | gateReleaseMsg (src : LandSrc) (hdr : BitVec 256) (payload : List Codeword)
  | gateAbortMsg (src : LandSrc) (hdr : BitVec 256) (payload : List Codeword)
  | pilotPacket (src : LandSrc) (hdr : BitVec 256) (payload : List Codeword)
  | normPacket (src : LandSrc) (hdr : BitVec 256) (payload : List Codeword)
  | refusePacket (src : LandSrc) (hdr : BitVec 256) (payload : List Codeword)
  | manifestFinalise (m : Nat) (gen : Nat)
  | manifestExpiry (m : Nat)
  | parkTtlExpiry (entry : Nat)
  | ackTimeout (source : Nat) (final : Bool)
  | anchorageHoldRelease (port : Nat)
  -- the round (11, 16, 17)
  | normExchangeStart (n : Nat)
  | craneSwitch
  | consignmentSweep (n : Nat) (k : Nat) (residue : Option Nat) (flips : List Flip)
  | duplicateCheck (n : Nat) (k : Nat) (partner : List Flip) (third : List Flip)
  | commit (n : Nat)
  | digestExchangeTimeout (n : Nat)
  | recallHoldTimeout (n : Nat)
  -- berth units (14, 15, 16)
  | modeWordWrite (p : Nat) (hdr : BitVec 128) (b : Nat) (v : Word)
  | modeChange (b : Nat)
  | goWrite (p : Nat) (hdr : BitVec 128) (b : Nat) (go : Codeword)
  | permitGrant (q : Nat)
  | matvec (b : Nat) (older : List Nat) (flips : List Flip)
  | dot (b : Nat) (older : List Nat) (flips : List Flip)
  | scale (b : Nat) (older : List Nat) (flips : List Flip)
  | add (b : Nat) (older : List Nat) (flips : List Flip)
  | mul (b : Nat) (older : List Nat) (flips : List Flip)
  | act (b : Nat) (older : List Nat) (flips : List Flip)
  | reduce (b : Nat) (older : List Nat) (flips : List Flip)
  | normStat (b : Nat) (older : List Nat) (flips : List Flip)
  | normApply (b : Nat) (older : List Nat) (flips : List Flip)
  | smaxStat (b : Nat) (older : List Nat) (flips : List Flip)
  | smaxApply (b : Nat) (older : List Nat) (flips : List Flip)
  | attn (b : Nat) (older : List Nat) (flips : List Flip)
  | berthMerge (cx : Nat)
  | berthDuplicate (b : Nat) (first : List Flip) (second : List Flip)
  | busyBankAccess (b : Nat) (work : GapWork)
  | permitPoolSizing (meas : List QuayMeas)
  | permitPoolFallback (q : Nat) (tempC : Nat)
  -- power (18)
  | harbourThrottle (mw : Nat) (tempC : Nat) (quayC : List Nat)
  | temperatureTrip (reading : Nat)
  | scrubRowVisit (q : Nat)
  | watchWrap
  | refLoss
  | refReturn
  | quayWake (q : QuayUp)
  | mooring
  | hostWakeLine (die : Nat)
  | fabricWake (port : Nat)
  | wakeAfterExpiry
  | harbourWake
  | powerOn (ref : Bool)
  | coldRstN (ref : Bool)
  | warmRstN (ref : Bool)
  | snapIn
  | engineReset (e : Nat)
  | portReset (p : Nat)
  | quayReset (q : Nat)
  | warmReset (ref : Bool)
  | warmResetKeep (ref : Bool)
  | lockstepMismatch
  -- boot and registers (19, 20)
  | bootGo (p : Nat) (hdr : BitVec 128) (v : Word)
  | lock (p : Nat) (hdr : BitVec 128) (v : Word)
  | hbProtRgnWrite (p : Nat) (hdr : BitVec 128) (r : Nat) (v : Word)
  | hbRoadsteadWrite (p : Nat) (hdr : BitVec 128) (v : Word)
  | hbArenaWrite (p : Nat) (hdr : BitVec 128) (v : Word)
  | hbCmdwWrite (p : Nat) (hdr : BitVec 128) (w : Nat) (v : Word)
  | hbCmdrWrite (p : Nat) (hdr : BitVec 128) (w : Nat) (v : Word)
  | hbCmdcWrite (p : Nat) (hdr : BitVec 128) (w : Nat) (v : Word)
  | hbSigCfgWrite (p : Nat) (hdr : BitVec 128) (v : Word)
  | hbTdTurnWrite (p : Nat) (hdr : BitVec 128) (v : Word)
  | hbKwSeed0Write (p : Nat) (hdr : BitVec 128) (v : Word)
  | hbKwSeed1Write (p : Nat) (hdr : BitVec 128) (v : Word)
  | inKwCseed0Write (p : Nat) (hdr : BitVec 128) (v : Word)
  | inKwCseed1Write (p : Nat) (hdr : BitVec 128) (v : Word)
  | hbEtaValWrite (p : Nat) (hdr : BitVec 128) (n : Nat) (v : Word)
  | hbEtaStepWrite (p : Nat) (hdr : BitVec 128) (n : Nat) (v : Word)
  | hbPsetLsWrite (p : Nat) (hdr : BitVec 128) (n : Nat) (v : Word)
  | hbPsetReplWrite (p : Nat) (hdr : BitVec 128) (n : Nat) (v : Word)
  | ldAnchWrite (p : Nat) (hdr : BitVec 128) (v : Word)
  | dsPoolWrite (p : Nat) (hdr : BitVec 128) (cfg : Bool) (v : Word)
  | btPermitCfgWrite (p : Nat) (hdr : BitVec 128) (q : Nat) (v : Word)
  | inRecallCtlWrite (p : Nat) (hdr : BitVec 128) (v : Word)
  | inRetireCfgWrite (p : Nat) (hdr : BitVec 128) (v : Word)
  | pwCapWrite (p : Nat) (hdr : BitVec 128) (v : Word)
  | registerWrite (p : Nat) (hdr : BitVec 128) (off : Nat) (v : Word)
  -- sideband and test port (19)
  | regRead (off : Nat)
  | regWrite (off : Nat) (v : Word)
  | alertCause
  | wake
  | warm (keep : Bool) (ref : Bool)
  | cold (ref : Bool)
  | bypass
  | idcode
  | samplePreload
  | extest
  | debugAccess (op : DebugOp)
  -- supply, idle, trim (18)
  | supplyRemoval
  | idleEntry (u : IdleUnit)
  | watchTrimConverged (offset : BitVec 16)
  deriving DecidableEq, Repr

end Sys2Proof
end

