-- ==== Sys2Proof/Config.lean ====
section
/-!
DEFINITION. What the spec leaves open or leaves to an implementation, as constants without a body: nothing can evaluate
them, so a claim about them holds for every value. Each is named in a log entry (notes/assumptions).
-/
namespace Sys2Proof.Config

/-- A byte of a result grain's padding, which the spec gives no value (log entry 15). Applied to the model's counter of drawn
values. -/
opaque freeByte : Nat → Byte

/-- A byte of the anchorage, or of the rest of a set's arena range, whose layout is not given (R17, R186; log entry 9). Applied
to its address. -/
opaque placeByte : Nat → Byte

/-- FW_KEY_HASHk, fixed by fuses (R425; log entry 6). -/
opaque fwKeyHash : Nat → BitVec 384

/-- The package key hash in fuses (R345; log entry 6). -/
opaque packageKeyHash : BitVec 384

/-- SHA-384 of a byte string, a 384-bit little-endian integer (R404, R425; log entry 6). -/
opaque sha384 : List Byte → BitVec 384

/-- ECDSA P-384 verification of a signature over a byte string under a public key (R345, R404; log entry 6). -/
opaque ecdsaOk : (pub : List Byte) → (sig : List Byte) → (msg : List Byte) → Bool

/-- The 16-bit CRC of a lane's results (R335): its polynomial is not given (log entry 10). -/
opaque laneSeal : List Byte → BitVec 16

/-- Bytes of a parameter set's arena range beyond those the spec counts, for headers and alignment (R263; log entry 11).
Bounded by 1 MiB. -/
opaque arenaOverhead : (rule consignments groups tensors : Nat) → Fin 1048577

/-- Which of the free places of the anchorage an entry takes (R186), and which free number a new descriptor or parameter
set gets (R143, R263; log entry 12): reduced modulo how many are free. Applied to the model's counter of drawn values. -/
opaque pick : Nat → Nat

/-- The order of the pieces of 256 bytes of a set's arena range on one quay, which fixes what each holds (R15, R17, R109; log
entry 9): applied to the set number, the quay and the piece, it gives the key that the pieces are ranked by. -/
opaque arenaKey : Nat → Nat → Nat → Nat

/-- What accumulator `i` of a berth unit's lanes holds after an operation (R288; log entry 104): no read shows it. Applied to
the model's counter of drawn values. -/
opaque laneLeft : Nat → Nat → BitVec 32

/-- A bit of the boundary scan path (R415; log entry 8). -/
opaque boundaryCell : Nat → Bool

/-- A word of harbourmaster SRAM that nothing known has written (R415; log entry 8). Applied to its offset. -/
opaque sramWord : Nat → Word

/-- Where harbourmaster SRAM holds the image, in units of 8 bytes (R403, R415; log entry 8). -/
opaque imageBase : Nat

/-- Words the test wrappers return (R415; log entry 8). -/
opaque wrapperWord : Nat → Word

/-- The seal that a healthy unit of a KIND gives of a field test's operands (R344; log entry 13): the operations of a test are
not given. -/
opaque testSeal : Nat → List Byte → BitVec 16

/-- The expected seal that a field-test package carries (R344; log entry 13): the layout of its body is not given. -/
opaque packageSeal : List Byte → BitVec 16

/-- The quay-link lanes, by quay and lane, that fail a training of the links at a cold boot or at a wake of the harbour (R347; log
entry 122). Applied to the model's counter of drawn values. -/
opaque linkFails : Nat → List (Nat × Nat)

/-- Bytes of the logbook areas whose size is not given: commit journal, repair map and counter mirrors (R408; log entry 9).
Applied to the AREA; the logbook has 512 KiB. -/
opaque logbookArea : Nat → Fin 524289

/-- A byte of a logbook area, whose layout is not given (R346, R408; log entry 9). Applied to the AREA, the byte's offset (in
its record, for detection records) and what the logbook holds for it. -/
opaque logbookByte : (area off : Nat) → (held : List Byte) → Byte

/-- Whether the body of a field-test package holds operands of the KIND that its header names (R345; log entry 13): the
layout of a body is not given. -/
opaque packageKindOk : List Byte → Bool

end Sys2Proof.Config
end

