-- ==== Sys2Proof/Machine/Map.lean ====
section
/-!
DEFINITION. Sparse tables with rising keys, little-endian byte strings and bit fields: the helpers that every other file
uses.
-/
namespace Sys2Proof.Machine

/-- A sparse table: keys strictly rising. A missing key means the default of its use. -/
abbrev Table (α : Type) := List (Nat × α)

/-- The entry at a key. -/
def tget? {α : Type} : Table α → Nat → Option α
  | [], _ => none
  | (k', v) :: t, k => if k' = k then some v else tget? t k

/-- The entry at a key, or the default. -/
def tget {α : Type} (t : Table α) (k : Nat) (d : α) : α := (tget? t k).getD d

/-- Sets an entry, keeping the keys rising. -/
def tset {α : Type} : Table α → Nat → α → Table α
  | [], k, v => [(k, v)]
  | (k', v') :: t, k, v =>
    if k < k' then (k, v) :: (k', v') :: t
    else if k = k' then (k, v) :: t
    else (k', v') :: tset t k v

/-- Removes an entry. -/
def terase {α : Type} (t : Table α) (k : Nat) : Table α := t.filter fun e => e.1 != k

/-- Sets an entry, or removes it when the value is the default, so that equal contents are equal tables. -/
def tput {α : Type} [DecidableEq α] (t : Table α) (k : Nat) (v d : α) : Table α :=
  if v = d then terase t k else tset t k v

/-- Changes an entry in place of its default. -/
def tmod {α : Type} (t : Table α) (k : Nat) (d : α) (f : α → α) : Table α := tset t k (f (tget t k d))

/-- The bits [hi:lo] of a number. -/
def bits (v hi lo : Nat) : Nat := (v >>> lo) % 2 ^ (hi + 1 - lo)

/-- One bit of a number. -/
def bit (v i : Nat) : Bool := (v >>> i) % 2 = 1

/-- A Bool as 0 or 1. -/
def b2n (b : Bool) : Nat := if b then 1 else 0

/-- Puts `x` into the bits [hi:lo] of `v`. -/
def putBits (v hi lo x : Nat) : Nat :=
  let w := 2 ^ (hi + 1 - lo)
  v - (bits v hi lo) * 2 ^ lo + (x % w) * 2 ^ lo

/-- `n` little-endian bytes of a number (R10). -/
def leBytes : Nat → Nat → List Byte
  | 0, _ => []
  | n + 1, v => BitVec.ofNat 8 v :: leBytes n (v / 256)

/-- The number that little-endian bytes spell (R10). -/
def leNat : List Byte → Nat
  | [] => 0
  | b :: t => b.toNat + 256 * leNat t

/-- `n` bytes of a byte string at an offset, as a number; bytes past its end read as zero. -/
def fieldAt (bs : List Byte) (off n : Nat) : Nat := leNat ((bs.drop off).take n)

/-- Saturating increment of a counter by `n` at the limit `m`. -/
def satAdd (v n m : Nat) : Nat := min (v + n) m

/-- `2^48`, the modulus of the watch counter (R379). -/
def tickMod : Nat := 281474976710656

/-- Ticks from `t0` to `t` modulo 2^48 (R380). -/
def ticksSince (t0 t : Nat) : Nat := (t + tickMod - t0 % tickMod) % tickMod

/-- Generations and rounds: `g` is newer than `l` modulo 2^16 within a window of 32,768 (R122, R175). -/
def newer16 (g l : Nat) : Bool :=
  let d := (g + 65536 - l % 65536) % 65536
  decide (1 ≤ d ∧ d ≤ 32767)

/-- Rounds up to whole units. -/
def ceilDiv (a b : Nat) : Nat := (a + b - 1) / b

/-- The byte `i` of a grain (R10). -/
def grainByte (g : Grain) (i : Nat) : Byte := BitVec.ofNat 8 (g.toNat >>> (8 * i))

/-- A grain's 32 bytes. -/
def grainBytes (g : Grain) : List Byte := leBytes 32 g.toNat

/-- The grain of (at most) 32 bytes. -/
def bytesGrain (bs : List Byte) : Grain := BitVec.ofNat 256 (leNat (bs.take 32))

/-- Cuts a byte string into grains, the last padded with zeros. `fuel` bounds the number of grains. -/
def toGrains : Nat → List Byte → List Grain
  | 0, _ => []
  | fuel + 1, bs => if bs.isEmpty then [] else bytesGrain bs :: toGrains fuel (bs.drop 32)

/-- The numbers `a`, `a + 1`, … , `n` of them. -/
def upFrom (a n : Nat) : List Nat := (List.range n).map (a + ·)

/-- The list with the element at an index replaced. -/
def setAt {α : Type} : List α → Nat → α → List α
  | [], _, _ => []
  | _ :: t, 0, v => v :: t
  | x :: t, n + 1, v => x :: setAt t n v

/-- The set bits of a mask below `n`. -/
def maskBits (mask n : Nat) : List Nat := (List.range n).filter (bit mask)

/-- The mask of a list of bit numbers. -/
def maskOf (l : List Nat) : Nat := l.foldl (fun m i => m ||| 2 ^ i) 0

/-- Inserts into a set kept as a list without repeats. -/
def insertNew {α : Type} [DecidableEq α] (l : List α) (x : α) : List α := if x ∈ l then l else l ++ [x]

end Sys2Proof.Machine
end

