-- ==== Sys2Proof/Machine/RegMap.lean ====
section
/-!
DEFINITION. The registers of Zurax: their offsets (Tables 20-2 to 20-11), their field maps (the chapters' register
tables), the codes of access and loss (Table 0-8, R13) and the initial logbook values (Table 20-15).
-/
namespace Sys2Proof.Machine

/-- Access codes (Table 0-8). -/
inductive Acc where
  | ro | rw | wo | w1c | w1s | rwl
  deriving DecidableEq, Repr

/-- The narrowest event at which a field is lost (R13). -/
inductive Lost where
  | never | engine | moored | warm | cold
  deriving DecidableEq, Repr

/-- A field of a register. `lb`: its Reset column reads LB (R12); every literal Reset value of the manual is 0. -/
structure Fld where
  hi : Nat
  lo : Nat
  acc : Acc
  lost : Lost
  lb : Bool
  deriving DecidableEq, Repr

/-- The registers (R418). -/
inductive RegName where
  | hbId
  | hbProtLock
  | hbRoadstead
  | hbArena
  | hbWatch
  | hbClk
  | hbHmStat
  | hbAlert
  | hbBoot
  | hbBootStat
  | hbSigCfg
  | hbFtz
  | hbFlushed
  | hbTdTurn
  | hbKwSeed0
  | hbKwSeed1
  | hbPortVcw
  | hbPortStat
  | hbCmdw
  | hbCmdr
  | hbCmdc
  | hbEtaVal
  | hbEtaStep
  | hbPsetLs
  | hbSweepStat
  | hbPsetNorm
  | hbPsetRepl
  | hbPsetDigest
  | hbPsetDstat
  | hbPsetAgreed
  | hbReplPeer
  | hbProtRgn
  | hbProtPort
  | qyScrubCfg
  | crStat
  | ldCfg
  | ldAnch
  | ldStat
  | ldStat2
  | ldTok
  | dsPoolBase
  | dsPoolCfg
  | dsStat
  | exCfg
  | exRecallFwd0
  | exRecallFwd1
  | exStat
  | btStat
  | btPermitCfg
  | btPermitStat
  | plStat
  | plSnapCtl
  | plSnapArmed
  | plSnapRec
  | gtStat
  | inCheckCfg
  | inKwCseed0
  | inKwCseed1
  | inRetireCfg
  | inRecallCtl
  | inRecallStat
  | inStat
  | inEccStat
  | inUnitStat
  | pwState
  | pwCap
  | pwHbStat
  | pwReset
  | pwQuayStat
  deriving DecidableEq, Repr

/-- A row of the index: name, offset from 0xF00_0000_0000, stride, instances, fields (reserved fields are left out: they
read zero and ignore writes, R11). -/
structure RegRow where
  name : RegName
  base : Nat
  stride : Nat
  count : Nat
  fields : List Fld
  deriving DecidableEq, Repr

/-- The HB_ registers (part 0). -/
def rowsHb0 : List RegRow := [
  ⟨.hbId, 0x0, 0x8, 1, [⟨3, 0, .ro, .never, false⟩, ⟨7, 4, .ro, .never, false⟩, ⟨8, 8, .ro, .never, false⟩, ⟨10, 9, .ro, .never, false⟩, ⟨23, 16, .ro, .never, false⟩, ⟨63, 32, .ro, .never, false⟩]⟩,
  ⟨.hbProtLock, 0x8, 0x8, 1, [⟨0, 0, .w1s, .cold, false⟩]⟩,
  ⟨.hbRoadstead, 0x10, 0x8, 1, [⟨17, 0, .rwl, .cold, false⟩, ⟨49, 32, .rw, .warm, true⟩]⟩,
  ⟨.hbArena, 0x18, 0x8, 1, [⟨10, 0, .rw, .warm, true⟩]⟩,
  ⟨.hbWatch, 0x20, 0x8, 1, [⟨47, 0, .ro, .cold, false⟩, ⟨63, 48, .ro, .warm, true⟩]⟩,
  ⟨.hbClk, 0x28, 0x8, 1, [⟨0, 0, .ro, .warm, false⟩, ⟨1, 1, .ro, .warm, false⟩, ⟨2, 2, .ro, .cold, false⟩, ⟨3, 3, .rw, .warm, true⟩, ⟨20, 8, .rw, .warm, true⟩, ⟨39, 24, .ro, .cold, false⟩, ⟨47, 40, .w1c, .warm, false⟩]⟩,
  ⟨.hbHmStat, 0x40, 0x8, 1, [⟨0, 0, .ro, .warm, false⟩, ⟨1, 1, .w1c, .warm, false⟩, ⟨2, 2, .ro, .warm, false⟩, ⟨26, 16, .ro, .warm, false⟩, ⟨31, 27, .ro, .warm, false⟩, ⟨47, 32, .ro, .warm, true⟩]⟩,
  ⟨.hbAlert, 0x48, 0x8, 1, [⟨0, 0, .ro, .cold, false⟩, ⟨1, 1, .ro, .cold, false⟩, ⟨2, 2, .ro, .cold, false⟩, ⟨3, 3, .ro, .cold, false⟩, ⟨4, 4, .ro, .cold, false⟩, ⟨5, 5, .ro, .cold, false⟩, ⟨6, 6, .ro, .cold, false⟩, ⟨7, 7, .rw, .warm, true⟩]⟩,
  ⟨.hbBoot, 0x50, 0x8, 1, [⟨43, 5, .rw, .warm, false⟩, ⟨60, 44, .rw, .warm, false⟩, ⟨63, 63, .wo, .warm, false⟩]⟩,
  ⟨.hbBootStat, 0x58, 0x8, 1, [⟨2, 0, .ro, .warm, false⟩, ⟨5, 3, .ro, .warm, false⟩, ⟨6, 6, .ro, .warm, false⟩, ⟨7, 7, .ro, .warm, false⟩, ⟨15, 8, .ro, .warm, false⟩, ⟨63, 16, .ro, .warm, false⟩]⟩,
  ⟨.hbSigCfg, 0x80, 0x8, 1, [⟨0, 0, .rw, .warm, true⟩, ⟨7, 4, .rw, .warm, true⟩, ⟨31, 16, .rw, .warm, true⟩]⟩,
  ⟨.hbFtz, 0xC0, 0x8, 1, [⟨0, 0, .rw, .warm, false⟩, ⟨1, 1, .rw, .warm, false⟩, ⟨2, 2, .rw, .warm, false⟩, ⟨3, 3, .rw, .warm, false⟩, ⟨4, 4, .rw, .warm, false⟩, ⟨5, 5, .rw, .warm, false⟩]⟩]

/-- The HB_ registers (part 1). -/
def rowsHb1 : List RegRow := [
  ⟨.hbFlushed, 0xC8, 0x8, 1, [⟨5, 0, .w1c, .warm, false⟩]⟩,
  ⟨.hbTdTurn, 0xD0, 0x8, 1, [⟨15, 0, .wo, .warm, false⟩]⟩,
  ⟨.hbKwSeed0, 0xE0, 0x8, 1, [⟨63, 0, .rw, .warm, true⟩]⟩,
  ⟨.hbKwSeed1, 0xE8, 0x8, 1, [⟨63, 0, .rw, .warm, true⟩]⟩,
  ⟨.hbPortVcw, 0x1000, 0x8, 128, [⟨7, 0, .rw, .warm, true⟩, ⟨15, 8, .rw, .warm, true⟩, ⟨23, 16, .rw, .warm, true⟩]⟩,
  ⟨.hbPortStat, 0x1400, 0x8, 128, [⟨0, 0, .ro, .engine, false⟩, ⟨1, 1, .w1c, .engine, false⟩, ⟨2, 2, .w1c, .engine, false⟩, ⟨3, 3, .w1c, .engine, false⟩, ⟨4, 4, .w1c, .engine, false⟩, ⟨31, 16, .ro, .warm, true⟩, ⟨42, 32, .ro, .engine, false⟩]⟩,
  ⟨.hbCmdw, 0x2000, 0x8, 256, [⟨5, 0, .ro, .warm, false⟩, ⟨7, 7, .rw, .warm, false⟩, ⟨31, 16, .rw, .warm, false⟩, ⟨38, 32, .ro, .warm, false⟩, ⟨39, 39, .ro, .warm, false⟩, ⟨47, 40, .w1c, .warm, false⟩]⟩,
  ⟨.hbCmdr, 0x2800, 0x8, 256, [⟨43, 5, .rw, .warm, false⟩, ⟨52, 48, .rw, .warm, false⟩]⟩,
  ⟨.hbCmdc, 0x3000, 0x8, 256, [⟨16, 0, .rw, .warm, false⟩, ⟨48, 32, .ro, .warm, false⟩]⟩,
  ⟨.hbEtaVal, 0x4000, 0x8, 64, [⟨31, 0, .rw, .warm, false⟩]⟩,
  ⟨.hbEtaStep, 0x4200, 0x8, 64, [⟨47, 0, .rw, .warm, false⟩, ⟨63, 63, .rw, .warm, false⟩]⟩,
  ⟨.hbPsetLs, 0x4400, 0x8, 64, [⟨4, 0, .ro, .warm, false⟩, ⟨12, 8, .rw, .warm, true⟩, ⟨20, 16, .rw, .warm, true⟩, ⟨24, 24, .rw, .warm, true⟩, ⟨47, 32, .rw, .warm, true⟩, ⟨63, 48, .ro, .warm, false⟩]⟩]

/-- The HB_ registers (part 2). -/
def rowsHb2 : List RegRow := [
  ⟨.hbSweepStat, 0x4600, 0x8, 64, [⟨1, 0, .ro, .warm, false⟩, ⟨2, 2, .ro, .warm, false⟩, ⟨3, 3, .ro, .warm, false⟩, ⟨4, 4, .ro, .warm, false⟩, ⟨5, 5, .ro, .warm, false⟩, ⟨39, 8, .ro, .warm, false⟩]⟩,
  ⟨.hbPsetNorm, 0x4800, 0x8, 64, [⟨17, 0, .rw, .warm, true⟩, ⟨18, 18, .rw, .warm, true⟩]⟩,
  ⟨.hbPsetRepl, 0x4A00, 0x8, 64, [⟨12, 0, .rw, .warm, true⟩, ⟨19, 16, .rw, .warm, true⟩, ⟨22, 20, .rw, .warm, true⟩, ⟨47, 32, .rw, .warm, true⟩, ⟨63, 48, .rw, .warm, true⟩]⟩,
  ⟨.hbPsetDigest, 0x4C00, 0x8, 64, [⟨63, 0, .ro, .warm, false⟩]⟩,
  ⟨.hbPsetDstat, 0x4E00, 0x8, 64, [⟨47, 0, .ro, .warm, false⟩, ⟨48, 48, .ro, .warm, false⟩, ⟨49, 49, .ro, .warm, false⟩, ⟨50, 50, .ro, .warm, false⟩, ⟨51, 51, .ro, .warm, false⟩, ⟨63, 56, .w1c, .warm, false⟩]⟩,
  ⟨.hbPsetAgreed, 0x5000, 0x8, 64, [⟨47, 0, .ro, .warm, false⟩]⟩,
  ⟨.hbReplPeer, 0x6000, 0x8, 512, [⟨17, 0, .rw, .warm, true⟩]⟩,
  ⟨.hbProtRgn, 0x8000, 0x8, 32, [⟨29, 0, .rwl, .cold, false⟩, ⟨59, 30, .rwl, .cold, false⟩, ⟨60, 60, .rwl, .cold, false⟩]⟩,
  ⟨.hbProtPort, 0x9000, 0x8, 256, [⟨63, 0, .rwl, .cold, false⟩]⟩]

/-- The QY_ registers. -/
def rowsQy : List RegRow := [
  ⟨.qyScrubCfg, 0x100040, 0x10000, 16, [⟨15, 0, .rw, .warm, true⟩, ⟨31, 16, .ro, .warm, false⟩, ⟨57, 32, .ro, .warm, false⟩]⟩]

/-- The CR_ registers. -/
def rowsCr : List RegRow := [
  ⟨.crStat, 0x200000, 0x10000, 16, [⟨5, 0, .ro, .engine, false⟩, ⟨6, 6, .ro, .engine, false⟩, ⟨7, 7, .ro, .engine, false⟩, ⟨14, 8, .ro, .engine, false⟩, ⟨31, 16, .w1c, .warm, false⟩]⟩]

/-- The LD_ registers. -/
def rowsLd : List RegRow := [
  ⟨.ldCfg, 0x300000, 0x8, 1, [⟨0, 0, .rw, .warm, true⟩, ⟨31, 8, .rw, .warm, true⟩, ⟨55, 32, .rw, .warm, true⟩, ⟨63, 56, .rw, .warm, true⟩]⟩,
  ⟨.ldAnch, 0x300008, 0x8, 1, [⟨6, 0, .rwl, .cold, true⟩, ⟨7, 7, .ro, .warm, false⟩, ⟨24, 8, .ro, .warm, false⟩, ⟨48, 32, .rw, .warm, false⟩]⟩,
  ⟨.ldStat, 0x300010, 0x8, 1, [⟨15, 0, .ro, .warm, true⟩, ⟨31, 16, .w1c, .warm, false⟩, ⟨47, 32, .w1c, .warm, false⟩, ⟨63, 48, .w1c, .warm, false⟩]⟩,
  ⟨.ldStat2, 0x300018, 0x8, 1, [⟨15, 0, .w1c, .warm, false⟩, ⟨31, 16, .w1c, .warm, false⟩, ⟨46, 32, .ro, .warm, false⟩, ⟨63, 48, .w1c, .warm, false⟩]⟩,
  ⟨.ldTok, 0x300020, 0x8, 1, [⟨23, 0, .w1c, .warm, false⟩, ⟨47, 24, .w1c, .warm, false⟩, ⟨60, 48, .ro, .warm, false⟩]⟩]

/-- The DS_ registers. -/
def rowsDs : List RegRow := [
  ⟨.dsPoolBase, 0x400000, 0x8, 1, [⟨63, 5, .rw, .warm, true⟩]⟩,
  ⟨.dsPoolCfg, 0x400008, 0x8, 1, [⟨4, 0, .rw, .warm, true⟩, ⟨31, 16, .rw, .warm, true⟩, ⟨47, 32, .ro, .engine, false⟩, ⟨63, 48, .rw, .warm, true⟩]⟩,
  ⟨.dsStat, 0x400010, 0x8, 1, [⟨31, 0, .w1c, .warm, false⟩, ⟨47, 32, .w1c, .warm, false⟩, ⟨63, 48, .w1c, .warm, false⟩]⟩]

/-- The EX_ registers. -/
def rowsEx : List RegRow := [
  ⟨.exCfg, 0x500000, 0x8, 1, [⟨7, 0, .rw, .warm, true⟩]⟩,
  ⟨.exRecallFwd0, 0x500008, 0x8, 1, [⟨63, 0, .rw, .warm, true⟩]⟩,
  ⟨.exRecallFwd1, 0x500010, 0x8, 1, [⟨63, 0, .rw, .warm, true⟩]⟩,
  ⟨.exStat, 0x500018, 0x8, 1, [⟨15, 0, .w1c, .warm, false⟩, ⟨31, 16, .w1c, .warm, false⟩, ⟨40, 32, .ro, .warm, false⟩, ⟨43, 41, .ro, .engine, false⟩, ⟨63, 48, .w1c, .warm, false⟩]⟩]

/-- The BT_ registers. -/
def rowsBt : List RegRow := [
  ⟨.btStat, 0x600000, 0x10000, 16, [⟨10, 0, .ro, .moored, false⟩, ⟨19, 11, .ro, .moored, false⟩, ⟨30, 20, .ro, .moored, false⟩, ⟨47, 32, .w1c, .warm, false⟩, ⟨63, 48, .w1c, .warm, false⟩]⟩,
  ⟨.btPermitCfg, 0x600008, 0x10000, 16, [⟨8, 0, .rw, .warm, true⟩, ⟨27, 16, .rw, .warm, true⟩, ⟨45, 32, .rw, .warm, true⟩, ⟨55, 48, .rw, .warm, true⟩, ⟨63, 56, .rw, .warm, true⟩]⟩,
  ⟨.btPermitStat, 0x600010, 0x10000, 16, [⟨8, 0, .ro, .moored, false⟩, ⟨9, 9, .ro, .moored, false⟩, ⟨10, 10, .ro, .moored, false⟩, ⟨11, 11, .ro, .moored, false⟩, ⟨31, 16, .ro, .moored, false⟩, ⟨39, 32, .ro, .moored, false⟩, ⟨63, 48, .w1c, .warm, false⟩]⟩]

/-- The PL_ registers. -/
def rowsPl : List RegRow := [
  ⟨.plStat, 0x700000, 0x8, 1, [⟨15, 0, .ro, .warm, false⟩, ⟨31, 16, .ro, .warm, true⟩, ⟨39, 32, .rw, .warm, false⟩]⟩,
  ⟨.plSnapCtl, 0x700008, 0x8, 1, [⟨0, 0, .rw, .warm, true⟩, ⟨1, 1, .rw, .warm, true⟩, ⟨63, 16, .rw, .warm, true⟩]⟩,
  ⟨.plSnapArmed, 0x700010, 0x8, 1, [⟨51, 0, .ro, .warm, false⟩]⟩,
  ⟨.plSnapRec, 0x701000, 0x8, 416, [⟨63, 0, .ro, .cold, false⟩]⟩]

/-- The GT_ registers. -/
def rowsGt : List RegRow := [
  ⟨.gtStat, 0x800000, 0x8, 1, [⟨15, 0, .w1c, .warm, false⟩, ⟨31, 16, .w1c, .warm, false⟩, ⟨47, 32, .w1c, .warm, false⟩, ⟨58, 48, .ro, .warm, false⟩]⟩]

/-- The IN_ registers. -/
def rowsIn : List RegRow := [
  ⟨.inCheckCfg, 0x900000, 0x8, 1, [⟨2, 0, .ro, .warm, true⟩, ⟨6, 4, .ro, .warm, true⟩, ⟨7, 7, .ro, .warm, false⟩, ⟨8, 8, .rw, .warm, true⟩, ⟨23, 16, .rw, .warm, true⟩, ⟨39, 24, .rw, .warm, true⟩, ⟨63, 40, .rw, .warm, true⟩]⟩,
  ⟨.inKwCseed0, 0x900008, 0x8, 1, [⟨63, 0, .rw, .warm, true⟩]⟩,
  ⟨.inKwCseed1, 0x900010, 0x8, 1, [⟨63, 0, .rw, .warm, true⟩]⟩,
  ⟨.inRetireCfg, 0x900018, 0x8, 1, [⟨0, 0, .rw, .warm, true⟩, ⟨7, 4, .rw, .warm, true⟩, ⟨31, 8, .rw, .warm, true⟩]⟩,
  ⟨.inRecallCtl, 0x900020, 0x8, 1, [⟨5, 0, .wo, .warm, false⟩, ⟨8, 8, .wo, .warm, false⟩]⟩,
  ⟨.inRecallStat, 0x900028, 0x8, 1, [⟨63, 0, .ro, .warm, false⟩]⟩,
  ⟨.inStat, 0x900030, 0x8, 1, [⟨15, 0, .w1c, .warm, false⟩, ⟨31, 16, .w1c, .warm, false⟩, ⟨47, 32, .w1c, .warm, false⟩, ⟨63, 48, .w1c, .warm, false⟩]⟩,
  ⟨.inEccStat, 0x901000, 0x8, 17, [⟨15, 0, .w1c, .warm, false⟩, ⟨31, 16, .ro, .warm, true⟩, ⟨47, 32, .w1c, .warm, false⟩, ⟨63, 48, .ro, .warm, true⟩]⟩,
  ⟨.inUnitStat, 0x901100, 0x8, 16, [⟨4, 0, .ro, .warm, true⟩, ⟨12, 8, .ro, .warm, true⟩, ⟨24, 16, .ro, .warm, true⟩, ⟨42, 32, .ro, .warm, true⟩, ⟨63, 48, .ro, .warm, true⟩]⟩]

/-- The PW_ registers. -/
def rowsPw : List RegRow := [
  ⟨.pwState, 0xA00000, 0x8, 1, [⟨15, 0, .ro, .warm, false⟩, ⟨31, 16, .ro, .warm, false⟩, ⟨34, 32, .ro, .warm, false⟩, ⟨47, 40, .w1c, .warm, false⟩]⟩,
  ⟨.pwCap, 0xA00008, 0x8, 1, [⟨16, 0, .rw, .warm, true⟩, ⟨49, 32, .rw, .warm, true⟩, ⟨63, 56, .rw, .warm, true⟩]⟩,
  ⟨.pwHbStat, 0xA00010, 0x8, 1, [⟨17, 0, .ro, .moored, false⟩, ⟨20, 18, .ro, .moored, false⟩, ⟨21, 21, .ro, .moored, false⟩, ⟨39, 32, .ro, .moored, false⟩, ⟨63, 48, .w1c, .warm, false⟩]⟩,
  ⟨.pwReset, 0xA00018, 0x8, 1, [⟨2, 0, .wo, .warm, false⟩, ⟨15, 8, .wo, .warm, false⟩, ⟨16, 16, .rw, .cold, true⟩]⟩,
  ⟨.pwQuayStat, 0xA00100, 0x8, 16, [⟨16, 0, .ro, .moored, false⟩, ⟨31, 24, .ro, .moored, false⟩, ⟨47, 32, .w1c, .warm, false⟩]⟩]

/-- The index of every register (R418). -/
def regTable : List RegRow :=
  rowsHb0 ++ rowsHb1 ++ rowsHb2 ++ rowsQy ++ rowsCr ++ rowsLd ++ rowsDs ++ rowsEx ++ rowsBt ++ rowsPl ++ rowsGt ++ rowsIn ++ rowsPw

/-- The register at an offset, with its instance number (R418). -/
def regAtIn : List RegRow → Nat → Option (RegRow × Nat)
  | [], _ => none
  | r :: t, off =>
    if r.base ≤ off ∧ (off - r.base) % r.stride = 0 ∧ (off - r.base) / r.stride < r.count then
      some (r, (off - r.base) / r.stride)
    else regAtIn t off

/-- The register at an offset of the register region. -/
def regAt (off : Nat) : Option (RegRow × Nat) := regAtIn regTable off

/-! Offsets by name. -/

abbrev rHbId : Nat := 0x0
abbrev rHbProtLock : Nat := 0x8
abbrev rHbRoadstead : Nat := 0x10
abbrev rHbArena : Nat := 0x18
abbrev rHbWatch : Nat := 0x20
abbrev rHbClk : Nat := 0x28
abbrev rHbHmStat : Nat := 0x40
abbrev rHbAlert : Nat := 0x48
abbrev rHbBoot : Nat := 0x50
abbrev rHbBootStat : Nat := 0x58
abbrev rHbSigCfg : Nat := 0x80
abbrev rHbFtz : Nat := 0xC0
abbrev rHbFlushed : Nat := 0xC8
abbrev rHbTdTurn : Nat := 0xD0
abbrev rHbKwSeed0 : Nat := 0xE0
abbrev rHbKwSeed1 : Nat := 0xE8
abbrev rHbPortVcw (i : Nat) : Nat := 0x1000 + i * 0x8
abbrev rHbPortStat (i : Nat) : Nat := 0x1400 + i * 0x8
abbrev rHbCmdw (i : Nat) : Nat := 0x2000 + i * 0x8
abbrev rHbCmdr (i : Nat) : Nat := 0x2800 + i * 0x8
abbrev rHbCmdc (i : Nat) : Nat := 0x3000 + i * 0x8
abbrev rHbEtaVal (i : Nat) : Nat := 0x4000 + i * 0x8
abbrev rHbEtaStep (i : Nat) : Nat := 0x4200 + i * 0x8
abbrev rHbPsetLs (i : Nat) : Nat := 0x4400 + i * 0x8
abbrev rHbSweepStat (i : Nat) : Nat := 0x4600 + i * 0x8
abbrev rHbPsetNorm (i : Nat) : Nat := 0x4800 + i * 0x8
abbrev rHbPsetRepl (i : Nat) : Nat := 0x4A00 + i * 0x8
abbrev rHbPsetDigest (i : Nat) : Nat := 0x4C00 + i * 0x8
abbrev rHbPsetDstat (i : Nat) : Nat := 0x4E00 + i * 0x8
abbrev rHbPsetAgreed (i : Nat) : Nat := 0x5000 + i * 0x8
abbrev rHbReplPeer (i : Nat) : Nat := 0x6000 + i * 0x8
abbrev rHbProtRgn (i : Nat) : Nat := 0x8000 + i * 0x8
abbrev rHbProtPort (i : Nat) : Nat := 0x9000 + i * 0x8
abbrev rQyScrubCfg (i : Nat) : Nat := 0x100040 + i * 0x10000
abbrev rCrStat (i : Nat) : Nat := 0x200000 + i * 0x10000
abbrev rLdCfg : Nat := 0x300000
abbrev rLdAnch : Nat := 0x300008
abbrev rLdStat : Nat := 0x300010
abbrev rLdStat2 : Nat := 0x300018
abbrev rLdTok : Nat := 0x300020
abbrev rDsPoolBase : Nat := 0x400000
abbrev rDsPoolCfg : Nat := 0x400008
abbrev rDsStat : Nat := 0x400010
abbrev rExCfg : Nat := 0x500000
abbrev rExRecallFwd0 : Nat := 0x500008
abbrev rExRecallFwd1 : Nat := 0x500010
abbrev rExStat : Nat := 0x500018
abbrev rBtStat (i : Nat) : Nat := 0x600000 + i * 0x10000
abbrev rBtPermitCfg (i : Nat) : Nat := 0x600008 + i * 0x10000
abbrev rBtPermitStat (i : Nat) : Nat := 0x600010 + i * 0x10000
abbrev rPlStat : Nat := 0x700000
abbrev rPlSnapCtl : Nat := 0x700008
abbrev rPlSnapArmed : Nat := 0x700010
abbrev rPlSnapRec (i : Nat) : Nat := 0x701000 + i * 0x8
abbrev rGtStat : Nat := 0x800000
abbrev rInCheckCfg : Nat := 0x900000
abbrev rInKwCseed0 : Nat := 0x900008
abbrev rInKwCseed1 : Nat := 0x900010
abbrev rInRetireCfg : Nat := 0x900018
abbrev rInRecallCtl : Nat := 0x900020
abbrev rInRecallStat : Nat := 0x900028
abbrev rInStat : Nat := 0x900030
abbrev rInEccStat (i : Nat) : Nat := 0x901000 + i * 0x8
abbrev rInUnitStat (i : Nat) : Nat := 0x901100 + i * 0x8
abbrev rPwState : Nat := 0xA00000
abbrev rPwCap : Nat := 0xA00008
abbrev rPwHbStat : Nat := 0xA00010
abbrev rPwReset : Nat := 0xA00018
abbrev rPwQuayStat (i : Nat) : Nat := 0xA00100 + i * 0x8

/-- Quays of a part (Table 0-1). -/
def quays : Part → Nat
  | .z16 => 16
  | .z8 => 8

/-- Host ports of a part (Table 0-1). -/
def ports : Part → Nat
  | .z16 => 128
  | .z8 => 64

/-- Whether an instance of a register exists on the part (R419). -/
def regPresent (part : Part) (name : RegName) (i : Nat) : Bool :=
  match name with
  | .qyScrubCfg | .crStat | .btStat | .btPermitCfg | .btPermitStat | .inUnitStat | .pwQuayStat => i < quays part
  | .inEccStat => i < quays part || i = 16
  | .hbPortVcw | .hbPortStat => i < ports part
  | .hbProtPort => i < 2 * ports part
  | .exRecallFwd1 => part == .z16
  | .plSnapRec => let e := i / 8; if e < 0x30 then e % 16 < quays part else true
  | _ => true

/-- The initial logbook value of a register (Table 20-15): its LB fields in place, every other bit zero. The per-set
registers and the counters mirrored in the logbook are kept elsewhere (R422, R423). -/
def initialLb (part : Part) (name : RegName) : Nat :=
  match name with
  | .hbRoadstead => 1 <<< 32
  | .hbArena => 256
  | .hbPortVcw => 2 + (6 <<< 8) + (8 <<< 16)
  | .hbSigCfg => 0xFF00 <<< 16
  | .qyScrubCfg => 512
  | .ldCfg => 1 + (400000 <<< 8) + (4000000 <<< 32) + (40 <<< 56)
  | .ldAnch => 16
  | .btPermitCfg => 256 + (76 <<< 16) + (3000 <<< 32) + (95 <<< 48) + (105 <<< 56)
  | .inCheckCfg => 3 + (4 <<< 4) + (1 <<< 8) + (64 <<< 16) + (64 <<< 24)
  | .inRetireCfg => 1 + (3 <<< 4) + (1000 <<< 8)
  | .pwCap => 64000 + ((match part with | .z16 => 170000 | .z8 => 150000) <<< 32) + (115 <<< 56)
  | _ => 0

/-- The LB values of every present instance of one register, by offset. -/
def initialRow (part : Part) (r : RegRow) : Table Word :=
  if initialLb part r.name = 0 then [] else
  ((List.range r.count).filter (regPresent part r.name)).map fun i =>
    (r.base + i * r.stride, BitVec.ofNat 64 (initialLb part r.name))

/-- The initial configuration of the harbour ROM and of copy A at manufacture (R406, R426). -/
def initialConfig (part : Part) : Table Word := regTable.flatMap (initialRow part)

end Sys2Proof.Machine
end

