-- ==== Sys2Proof/Machine/Addr.lean ====
section
/-!
DEFINITION. Addresses: the global address (R24), the local map (R28), the interleave and the bank-local aperture (R32, R33).
-/
namespace Sys2Proof.Machine

/-- HARBOUR, SPACE and LOCAL of a global address (Table 2-1). -/
def gaHarbour (a : Nat) : Nat := bits a 63 46
def gaSpace (a : Nat) : Nat := bits a 45 44
def gaLocal (a : Nat) : Nat := bits a 43 0

/-- Bytes of DRAM: 96 GiB for each quay (Table 0-1). -/
def capacity (part : Part) : Nat := quays part * 0x1800000000

/-- Banks of a part: 1024 for each quay (Table 0-2). -/
def banksOf (part : Part) : Nat := quays part * 1024

/-- Bytes of a bank: 96 MiB (Table 0-2). -/
def bankBytes : Nat := 0x6000000

/-- W, the number of bits that name a bank. -/
def wBits : Part → Nat
  | .z16 => 14
  | .z8 => 13

def apertureBase : Nat := 0x40000000000
def modeBase : Nat := 0x58000000000
def berthBase : Nat := 0x80000000000
def qsramBase : Nat := 0xC0000000000
def hsramBase : Nat := 0xE0000000000
def regBase : Nat := 0xF0000000000
def beaconBase : Nat := 0xE0000400000
def gateBase : Nat := 0xE0000480000
def poolBase : Nat := 0xE0001000000
def poolEnd : Nat := 0xE000E000000
def hsramEnd : Nat := 0xE0010000000

/-- The regions of Table 2-3. -/
inductive Region where
  | dram | aperture | modeWords | berth | qsram | hsram | regs
  deriving DecidableEq, Repr

/-- First byte of a region. -/
def regionBase : Region → Nat
  | .dram => 0
  | .aperture => apertureBase
  | .modeWords => modeBase
  | .berth => berthBase
  | .qsram => qsramBase
  | .hsram => hsramBase
  | .regs => regBase

/-- Bytes of a region on a part (Table 2-3). -/
def regionSize (part : Part) : Region → Nat
  | .dram => capacity part
  | .aperture => capacity part
  | .modeWords => 8 * banksOf part
  | .berth => banksOf part * 0x400000
  | .qsram => quays part * 0x3000000
  | .hsram => 0x10000000
  | .regs => 0x1000000

/-- Whether a local address lies in a region. -/
def inRegion (part : Part) (a : Nat) (r : Region) : Bool :=
  decide (regionBase r ≤ a ∧ a < regionBase r + regionSize part r)

def allRegions : List Region := [.dram, .aperture, .modeWords, .berth, .qsram, .hsram, .regs]

/-- The region of a local address (R28). -/
def regionOf (part : Part) (a : Nat) : Option Region := allRegions.find? (inRegion part a)

/-- The region that holds `n` bytes whole (R29). -/
def regionOfRange (part : Part) (a n : Nat) : Option Region :=
  match regionOf part a with
  | none => none
  | some r => if a + n ≤ regionBase r + regionSize part r then some r else none

/-- The fields of a bank code: quay, channel, bank within channel (Table 2-5). -/
def codeQuay (part : Part) (g : Nat) : Nat := match part with | .z16 => g % 16 | .z8 => g % 8
def codeChannel (part : Part) (g : Nat) : Nat := match part with | .z16 => g / 16 % 16 | .z8 => g / 8 % 16
def codeBank (part : Part) (g : Nat) : Nat := match part with | .z16 => g / 256 | .z8 => g / 128

/-- The bank code of a linear bank number (Table 2-5, R33). -/
def codeOfBank (part : Part) (bb : Nat) : Nat :=
  let q := bb / 1024
  let c := bb / 64 % 16
  let b := bb % 64
  match part with
  | .z16 => q + 16 * c + 256 * b
  | .z8 => q + 8 * c + 128 * b

/-- The linear bank number of a bank code (R33). -/
def bankOfCode (part : Part) (g : Nat) : Nat := codeQuay part g * 1024 + codeChannel part g * 64 + codeBank part g

/-- The bank code and the chunk within it that hold chunk `n` (R32). -/
def hashCode (part : Part) (u p : Nat) : Nat := p ^^^ (u % 2 ^ wBits part) ^^^ (u >>> wBits part)

/-- The linear bank and the byte in it of an interleaved local address (R32, R33). -/
def bankPlace (part : Part) (a : Nat) : Nat × Nat :=
  let n := a / 512
  let u := n / 2 ^ wBits part
  let p := n % 2 ^ wBits part
  (bankOfCode part (hashCode part u p), u * 512 + a % 512)

/-- The interleaved local address of a byte of a bank (R33). -/
def bankAddr (part : Part) (bb x : Nat) : Nat :=
  let u := x / 512
  let p := hashCode part u (codeOfBank part bb)
  (u * 2 ^ wBits part + p) * 512 + x % 512

/-- Interleaved local address to aperture address (R33). -/
def toAperture (part : Part) (a : Nat) : Nat :=
  let bx := bankPlace part a
  apertureBase + bx.1 * bankBytes + bx.2

/-- Aperture address to interleaved local address (R33). -/
def fromAperture (part : Part) (v : Nat) : Nat :=
  let d := v - apertureBase
  bankAddr part (d / bankBytes) (d % bankBytes)

/-- The one address a DRAM or SRAM byte is kept under: aperture addresses become interleaved ones (R30). -/
def homeAddr (part : Part) (a : Nat) : Nat := if inRegion part a .aperture then fromAperture part a else a

/-- The quay of a memory byte; none in the harbour's own SRAM. -/
def quayOf (part : Part) (home : Nat) : Option Nat :=
  if inRegion part home .dram then some ((bankPlace part home).1 / 1024)
  else if inRegion part home .qsram then some ((home - qsramBase) / 0x3000000)
  else none

/-- Whether [a, a+n) meets [b, b+m). -/
def overlaps (a n b m : Nat) : Bool := decide (a < b + m ∧ b < a + n ∧ 0 < n ∧ 0 < m)

/-- The first bytes of the grains that a range covers. -/
def grainsOf (a n : Nat) : List Nat := (List.range (ceilDiv (a % 32 + n) 32)).map fun i => a / 32 * 32 + 32 * i

end Sys2Proof.Machine
end

