-- ==== Sys2Proof/Machine/Ecc.lean ====
section
/-!
DEFINITION. The codeword of a grain: encoding over GF(2^8), the poison pattern, and the classes of a decode (R321-R324).

The distance of a received word from the codewords depends only on the difference of its check symbols from those of its
data, so the decoder works on that difference.
-/
namespace Sys2Proof.Machine

/-- Product in GF(2^8) with polynomial 0x11D, by `n` doubling steps (R321). -/
def gfMulN : Nat → Nat → Nat → Nat
  | 0, _, _ => 0
  | n + 1, a, b =>
    let d := 2 * a
    let a' := if d < 256 then d else d ^^^ 0x11D
    (if b % 2 = 1 then a else 0) ^^^ gfMulN n a' (b / 2)

/-- Product in GF(2^8) (R321). -/
def gfMul (a b : Nat) : Nat := gfMulN 8 a b

/-- Powers of α = 2. -/
def alphaPow : Nat → Nat
  | 0 => 1
  | n + 1 => gfMul 2 (alphaPow n)

/-- Power by repeated product. -/
def gfPow (a : Nat) : Nat → Nat
  | 0 => 1
  | n + 1 => gfMul a (gfPow a n)

/-- Inverse, a^254. -/
def gfInv (a : Nat) : Nat := gfPow a 254

/-- The remainder registers (coefficients of x^3 to x^0) after one more data symbol. -/
def rsStep (r : Nat × Nat × Nat × Nat) (d : Byte) : Nat × Nat × Nat × Nat :=
  let f := r.1 ^^^ d.toNat
  (r.2.1 ^^^ gfMul f 0x0F, r.2.2.1 ^^^ gfMul f 0x36, r.2.2.2 ^^^ gfMul f 0x78, gfMul f 0x40)

/-- The check symbols of a grain, symbol 32 lowest (R321). -/
def encode (g : Grain) : BitVec 32 :=
  let r := (grainBytes g).foldl rsStep (0, 0, 0, 0)
  BitVec.ofNat 32 (r.1 + 256 * r.2.1 + 65536 * r.2.2.1 + 16777216 * r.2.2.2)

/-- The poison pattern (R323). -/
def poisonPattern : BitVec 32 := 0xC35A3CA5#32

/-- The difference of a word's check symbols from those of its data. -/
def deltaOf (c : Codeword) : BitVec 32 := c.check ^^^ encode c.data

/-- The codeword of a grain (R321). -/
def codewordOf (g : Grain) : Codeword := { data := g, check := encode g }

/-- A poison codeword with the given data symbols (R323). -/
def poisonOf (g : Grain) : Codeword := { data := g, check := encode g ^^^ poisonPattern }

/-- Symbol k (0-3) of check symbols. -/
def chkSym (d : BitVec 32) (k : Nat) : Nat := bits d.toNat (8 * k + 7) (8 * k)

/-- The four syndromes of a difference: symbol 32 + k is the coefficient of x^(3-k). -/
def syndrome (d : BitVec 32) (j : Nat) : Nat :=
  gfMul (chkSym d 0) (alphaPow (3 * j)) ^^^ gfMul (chkSym d 1) (alphaPow (2 * j)) ^^^
  gfMul (chkSym d 2) (alphaPow j) ^^^ chkSym d 3

/-- Symbol errors, as pairs of exponent (35 - symbol number) and value. -/
abbrev SymErrs := List (Nat × Nat)

/-- The one error that explains four syndromes, if any. -/
def oneErr (s0 s1 s2 s3 : Nat) : Option SymErrs :=
  if s0 = 0 then none else
  (List.range 36).findSome? fun x =>
    let a := alphaPow x
    if gfMul a s0 = s1 ∧ gfMul a s1 = s2 ∧ gfMul a s2 = s3 then some [(x, s0)] else none

/-- The second error, given that one error is at exponent `x1`. -/
def twoErrAt (x1 s0 s1 s2 s3 : Nat) : Option SymErrs :=
  let a := alphaPow x1
  let t0 := s1 ^^^ gfMul a s0
  let t1 := s2 ^^^ gfMul a s1
  let t2 := s3 ^^^ gfMul a s2
  if t0 = 0 then none else
  (List.range 36).findSome? fun x2 =>
    let b := alphaPow x2
    if x2 ≠ x1 ∧ gfMul b t0 = t1 ∧ gfMul b t1 = t2 then
      let v2 := gfMul t0 (gfInv (a ^^^ b))
      if v2 = s0 then none else some [(x1, s0 ^^^ v2), (x2, v2)]
    else none

/-- The fewest symbol errors, up to two, that turn a codeword into a word of this difference. -/
def nearest (d : BitVec 32) : Option SymErrs :=
  if d = 0 then some [] else
  let s0 := syndrome d 0
  let s1 := syndrome d 1
  let s2 := syndrome d 2
  let s3 := syndrome d 3
  match oneErr s0 s1 s2 s3 with
  | some e => some e
  | none => (List.range 36).findSome? fun x1 => twoErrAt x1 s0 s1 s2 s3

/-- The XOR that corrects the data symbols: exponents 4 to 35 are symbols 31 to 0. -/
def errMask (e : SymErrs) : Grain :=
  BitVec.ofNat 256 (e.foldl (fun m p => if 4 ≤ p.1 then m ^^^ (p.2 <<< (8 * (35 - p.1))) else m) 0)

/-- Decoding outcomes (Table 16-2). -/
inductive EccClass where
  | clean
  | corrected (mask : Grain)
  | uncorrectable
  | poison
  deriving DecidableEq, Repr

/-- How far a word lies from the codewords (`c`) and the poison words (`p`), in symbols; 3 stands for three or more. -/
def eccRow (scrub : Bool) (c p : Nat) (mask : Grain) : EccClass :=
  if c = 0 then .clean
  else if c = 1 then .corrected mask
  else if p ≤ 1 then .poison
  else if c = 2 ∧ p = 2 then .uncorrectable
  else if c = 2 then (if scrub then .corrected mask else .uncorrectable)
  else if p = 2 then (if scrub then .poison else .uncorrectable)
  else .uncorrectable

/-- Distance in symbols, 3 for three or more. -/
def errDist (e : Option SymErrs) : Nat := match e with | some l => l.length | none => 3

/-- Table 16-2 for a difference of check symbols (R324). -/
def classify (scrub : Bool) (d : BitVec 32) : EccClass :=
  if d = 0 then .clean
  else if d = poisonPattern then .poison
  else
    let e := nearest d
    eccRow scrub (errDist e) (errDist (nearest (d ^^^ poisonPattern))) (errMask (e.getD []))

end Sys2Proof.Machine
end

