-- ==== Sys2Proof/Machine/Mem.lean ====
section
/-!
DEFINITION. Byte memory as rising cells without zero bytes: an address that is not listed reads as zero (R402, Table 18-7).
-/
namespace Sys2Proof.Machine

/-- The memory form: sorted cells. -/
abbrev Mem := List Host.Cell

/-- Cells rise strictly above `lo` and hold no zero byte. -/
def memWfFrom : Nat → Mem → Bool
  | _, [] => true
  | lo, (a, b) :: t => decide (lo ≤ a) && decide (b ≠ 0) && memWfFrom (a + 1) t

/-- The canonical form of a memory. -/
def memWf (m : Mem) : Bool := memWfFrom 0 m

/-- The byte at an address. -/
def memByte : Mem → Nat → Byte
  | [], _ => 0
  | (a, b) :: t, k => if k < a then 0 else if k = a then b else memByte t k

/-- Writes one byte, keeping the form. -/
def memSet : Mem → Nat → Byte → Mem
  | [], k, v => if v = 0 then [] else [(k, v)]
  | (a, b) :: t, k, v =>
    if k < a then (if v = 0 then (a, b) :: t else (k, v) :: (a, b) :: t)
    else if k = a then (if v = 0 then t else (k, v) :: t)
    else (a, b) :: memSet t k v

/-- Writes bytes at rising addresses. -/
def memWrite : Mem → Nat → List Byte → Mem
  | m, _, [] => m
  | m, a, b :: t => memWrite (memSet m a b) (a + 1) t

/-- `n` bytes from an address. -/
def memRead (m : Mem) (a n : Nat) : List Byte := (upFrom a n).map (memByte m)

/-- Keeps the cells outside [lo, hi). -/
def memClear (m : Mem) (lo hi : Nat) : Mem := m.filter fun c => decide (c.1 < lo ∨ hi ≤ c.1)

/-- Keeps the entries of a table whose key is outside [lo, hi). -/
def tclear {α : Type} (t : Table α) (lo hi : Nat) : Table α := t.filter fun c => decide (c.1 < lo ∨ hi ≤ c.1)

end Sys2Proof.Machine
end

