-- ==== Sys2Proof/Machine/State.lean ====
section
/-!
DEFINITION. The state of Zurax as plain data: every register, object, queue and counter the spec names, the outcome
types, and the state at reset.
-/
namespace Sys2Proof.Machine

/-- No command of this block stops the machine: what the spec calls a failure is a status, a flag or an alert in State.
So there is no fault to raise. -/
inductive Fault where
  deriving DecidableEq, Repr

/-- Why a command has no meaning here. -/
inductive Refusal where
  /-- Raised by Machine/Dispatch.lean for a row that has no meaning yet; safe. No arm raises it now. -/
  | notModelled (mnemonic : String)
  deriving DecidableEq, Repr

/-! ### Fuses (R12, R432, Table 19-6) -/

/-- The fuses as sensed. -/
structure Fuses where
  part : Part
  stepping : BitVec 4
  dbgKill : Bool
  keyRevoked : BitVec 2
  fwSvnMin : BitVec 8
  deriving DecidableEq, Repr

/-! ### Host ports (03, 05) -/

/-- The request kinds of Table 3-1. -/
inductive ReqKind where
  | rd | rda | wr | wrr | atm | fnl | plt
  deriving DecidableEq, Repr

/-- A request header (Table 3-1). -/
structure ReqHdr where
  addr : Word
  opc : Nat
  rev2 : Bool
  tag : Nat
  queue : Nat
  engine : Nat
  len : Nat
  aop : Nat
  final : Bool
  manifest : Nat
  reserved : Nat
  deriving DecidableEq, Repr

/-- A request with the port it arrived at. `data` holds the payload as grains, ATM operands and pilot messages in the
low bytes of the first. -/
structure Request where
  port : Nat
  kind : ReqKind
  hdr : ReqHdr
  data : List Codeword
  deriving DecidableEq, Repr

/-- Why a request that passed its checks has not taken effect. -/
inductive HoldWhy where
  | order        -- an earlier request of its queue, or acknowledgements (R95-R99)
  | bank         -- a busy bank, a write region or a mode change (R281, R313, R316)
  | modeChange   -- a mode-word write whose change runs (R95, R281)
  | quay         -- a quay in Doze, or a moored harbour (R388, R391)
  | pilot        -- a PLT kept for a dozing quay (R61, R63)
  deriving DecidableEq, Repr

/-- A held request. -/
structure HeldReq where
  req : Request
  why : HoldWhy
  served : List (Nat × Nat)          -- banks, with the grains that the gaps of each have served while it ran (R313)
  bound : Option Nat                 -- generation that a FINAL write has bound to at the landing engine (R177)
  deriving DecidableEq, Repr

/-- Response statuses (R46). -/
inductive Resp where
  | ok | poison | denied | unmapped
  deriving DecidableEq, Repr

/-- What leaves a host port towards its host die. -/
inductive PortMsg where
  /-- A response with its data (R46, R48, R49). -/
  | resp (tag : Nat) (st : Resp) (data : List Codeword)
  /-- A landed-notice (Table 5-4). -/
  | notice (engine : Nat) (watch : Nat) (addr : Nat) (grains : Nat) (merged : Bool)
  /-- A pilot message (Table 3-7). -/
  | pilot (engine : Nat) (msg : BitVec 128)
  /-- A pilot credit of the host die whose response a Port reset has discarded (R58, R61). -/
  | pilotCredit
  deriving DecidableEq, Repr

/-- A message waiting for a response credit (R55). -/
structure Egress where
  port : Nat
  ch : Channel
  msg : PortMsg
  frees : Bool                       -- whether it frees its tag when it leaves (R52)
  deriving DecidableEq, Repr

/-- Response credits granted by the host die, by channel (R55). -/
structure Credits where
  pilot : Nat
  control : Nat
  read : Nat
  write : Nat
  deriving DecidableEq, Repr

/-- A pilot message kept for quays in Doze (R63). -/
structure KeptPilot where
  msg : BitVec 128
  quays : List Nat                   -- those that have not applied it
  pin : Bool                         -- it came from SNAP_IN (R370)
  req : Option (Nat × Nat)           -- port and tag of the PLT whose response waits for it (R61)
  die : Option Nat                   -- host die whose pilot credit its buffer holds (R58, R61)
  deriving DecidableEq, Repr

/-- Whose turn it is among the control, read and write channels of a port, and the flits left of it (R56). -/
structure PortTurn where
  ch : Channel
  left : Nat
  deriving DecidableEq, Repr

/-- A request that came while the harbour moored and that its form alone answers: it waits for the wake (R390). -/
structure LateReq where
  port : Nat
  tag : Nat
  ch : Channel
  st : Resp
  cost : Nat                         -- credits that it holds (R54)
  deriving DecidableEq, Repr

structure HostSt where
  reqs : List HeldReq                -- in arrival order
  tags : List (Nat × Nat)            -- outstanding (port, tag) (R52)
  reused : List (Nat × Nat × Channel) -- DENIED responses that follow the tag's own (R53)
  credits : Table Credits            -- by port
  turns : Table PortTurn             -- by port
  egress : List Egress
  pilots : List KeptPilot            -- in order of arrival
  late : List LateReq                -- in order of arrival
  orders : List (Nat × Nat × Nat × Nat) -- resets that wait until a response has left (R394): port, tag, KIND, TARGET
  deriving DecidableEq, Repr

/-! ### Roadstead packets (09) -/

/-- A packet header (Table 9-1) without its HCRC. -/
structure PktHdr where
  ver : Nat
  type : Nat
  dest : Nat
  orig : Nat
  bcast : Bool
  rel : Bool
  final : Bool
  red : Bool
  manValid : Bool
  manifest : Nat
  gen : Nat
  source : Nat
  target : Nat
  len : Nat
  fmt : Nat
  cnt : Nat
  anygen : Bool
  arg : Nat
  reserved : Nat
  deriving DecidableEq, Repr

structure Packet where
  hdr : PktHdr
  payload : List Codeword
  deriving DecidableEq, Repr

/-- What has left the part. -/
inductive Out where
  | port (p : Nat) (m : PortMsg)
  | fabric (pkt : Packet)
  | attn (die : Nat) (line : Nat)           -- an outbound attention pulse (R119)
  | linkRefused (p : Nat)                   -- a flit refused for want of a credit (R54)
  | snapOut                                 -- SNAP_OUT high for 4 wt (R370)
  | ibi                                     -- an in-band interrupt (R414)
  | alertPin (on : Bool)                    -- the ALERT pin is asserted or released (R414)
  | sideband (status : Nat) (data : List Byte)
  | tdo (data : List Bool)                  -- what the test port shifts out
  deriving DecidableEq, Repr

/-! ### Commands (04) -/

/-- A launched packet: the copy of its slots (R70). -/
structure CmdPkt where
  win : Nat
  port : Nat
  seq : Nat
  stamp : Nat                        -- its place in the order of launch (R78)
  unlocked : Bool                    -- started while the protection map was unlocked (R412)
  bad : Bool                         -- a grain of its slots could not be read (R326)
  bytes : List Byte
  deriving DecidableEq, Repr

/-- A beacon release at completion (R82). -/
structure Release where
  add : Bool
  beacon : Nat
  value : Word
  deriving DecidableEq, Repr

/-- A completion that waits for, or becomes, a reply record (Table 4-4). -/
structure Reply where
  token : Word
  seq : Nat
  win : Nat
  status : Nat
  opcode : Nat
  field : Nat
  result : Word
  tick : Nat
  post : Bool
  release : Option Release
  task : Nat
  deriving DecidableEq, Repr

/-- A command window (R66-R81). -/
structure Window where
  head : Nat
  enable : Bool
  seq : Nat
  pend : List CmdPkt
  fulls : Nat
  base : Nat
  size : Nat
  cons : Nat
  prod : Nat
  held : List Reply
  deriving DecidableEq, Repr

/-- What a CONFIG_SAVE has captured (R407). -/
structure CfgSave where
  regs : Table Word
  arenas : Table Nat
  deriving DecidableEq, Repr

/-- Where a started command stands. -/
inductive Phase where
  | started                                            -- its own row acts next
  | waitAck (status : Nat) (lo : Nat)                   -- completes under R102; RESULT[31:0] = lo
  | waitBeacon (k : Nat) (cond : Nat) (v : Word) (forever : Bool) (timeout : Nat) (t0 : Nat) (last : Nat)
  | waitGate (g : Nat) (slot : Nat) (round : Nat) (early : Bool)
  | waitRing (t0 base bytes records : Nat)             -- BUF_RELEASE before a full ring, with what its record holds (R202)
  | sweepLand (t0 : Nat)                               -- R220, IDLE
  | sweepNorm (t0 : Nat)                               -- R220, NORM_SENT
  | sweepCrane                                         -- R220, waits for the crane
  | walking (resumed : Bool)
  | push (blocks : List Nat)                           -- EXPORT_PUSH of epoch e + 1, blocks delivered (R270)
  | batch                                              -- BERTH_BATCH entries run (R299)
  | repair                                             -- ROW_REPAIR copies the row (R330, R350)
  | save (q : CfgSave)                                 -- CONFIG_SAVE has captured and writes its copy (R407)
  | doze (mask : Nat)                                  -- QUAY_STATE waits for quays (R387)
  deriving DecidableEq, Repr

/-- A started (taken) command. -/
structure Running where
  pkt : CmdPkt
  fast : Bool
  phase : Phase
  refused : Nat            -- packets its homes refused
  sent : Nat               -- consignments, blocks or entries done, as the opcode counts
  recalled : Bool          -- a block of an EXPORT_PUSH was recalled (R271), or a BERTH_BATCH was cancelled (R301)
  seed : BitVec 128        -- job seed when it was taken (R160)
  cseed : BitVec 128       -- check seed when it was taken (R349)
  ftz : Nat                -- HB_FTZ when it was taken (R150)
  deriving DecidableEq, Repr

structure CmdSt where
  wins : Table Window
  running : Table Running              -- by context number
  nextCx : Nat
  launches : Nat                       -- packets launched so far (R78)
  deriving DecidableEq, Repr

/-! ### Beacons, gates, task tags, watches (05, 06) -/

/-- A gate record (Table 6-4) with the member descriptors it was opened with (Table 6-6). -/
structure Gate where
  members : List Word
  arrived : List Nat
  early : List Nat
  earlyRemote : List Nat
  state : Nat
  cause : Nat
  code : Nat
  round : Nat
  earlyRound : Nat
  task : Nat
  deadline : Nat
  noTimeout : Bool
  parent : Word
  openTick : Nat
  endTick : Nat
  deriving DecidableEq, Repr

/-- A tag of a task on a beacon or a gate (R128). -/
structure TaskTag where
  isGate : Bool
  num : Nat
  task : Nat
  value : Word
  deriving DecidableEq, Repr

/-- An armed watch (R108). -/
structure Watch where
  base : Nat
  length : Nat
  subs : List (Nat × Nat)      -- (PORT, ENGINE)
  sent : Nat
  deriving DecidableEq, Repr

structure SyncSt where
  gates : Table Gate
  tags : List TaskTag
  watches : Table Watch
  deriving DecidableEq, Repr

/-! ### Tensor descriptors (07) -/

structure TDesc where
  elements : Nat
  base : Nat
  scales : Nat
  window : Nat
  cos : Bool
  status : Nat
  statusEn : Bool
  format : Nat
  scaling : Nat
  margin : Nat
  stoch : Bool
  sat : Bool
  turn : Nat
  tensorId : Nat
  pset : Nat
  hist : List F32
  rmax : F32
  round : Nat
  converted : Nat
  saturated : Nat
  nonfinite : Nat
  scaleByte : Byte
  deriving DecidableEq, Repr

/-! ### Landing (09, 10) -/

/-- Manifest states (Table 9-6). -/
inductive ManState where
  | opened
  | finalising
  | closed
  | failed
  deriving DecidableEq, Repr

/-- The manifest of one generation of a number. `kind` is 0 data, 1 tally, 2 token. -/
structure Manifest where
  gen : Nat
  state : ManState
  kind : Nat
  noTimeout : Bool
  timeout : Nat
  openTick : Nat
  extend : Option Nat     -- deadline extension in ticks, once a REFUSE has named it (R185)
  pset : Nat
  base : Nat
  bytes : Nat
  contribs : Nat
  first : Nat
  count : Nat
  landed : Nat
  -- the MAN_OPEN command, for the reply of R178
  win : Nat
  token : Word
  seq : Nat
  opcode : Nat
  -- token manifests (Table 10-4)
  cap : Nat
  twidth : Nat
  spill : Bool
  lading : Nat
  fill : Nat
  nonfiniteFinal : Bool   -- finalise as non-finite (R341 ACTION 1)
  tallied : Bool          -- its parcels have been finalised; held FINAL writes keep it FINALISING (R176)
  deriving DecidableEq, Repr

/-- What an anchorage entry holds (R186). -/
inductive AnchKind where
  | parked           -- for a newer generation
  | waitRelease      -- a contribution behind an unreleased tally (R183)
  | finalHeld        -- a FINAL write under its manifest (R177)
  | finalDue (ok : Bool) -- one whose manifest has ended, which a berth operation still holds (R316, R318)
  | spill            -- a spilled token (R198)
  deriving DecidableEq, Repr

structure AnchEntry where
  id : Nat
  kind : AnchKind
  man : Nat
  gen : Nat
  tick : Nat
  addr : Nat          -- local address of the entry
  grains : Nat
  pkt : Option Packet
  deriving DecidableEq, Repr

/-- An acknowledgement source (R172), keyed by SOURCE with bit 22 clear. -/
structure Source where
  plain : Nat
  final : Nat
  flag : Bool
  tPlain : Nat
  tFinal : Nat
  deriving DecidableEq, Repr

/-- Where a token went (R198). -/
inductive TokPlace where
  | slot
  | dropped
  | spilled (addr : Nat)
  deriving DecidableEq, Repr

/-- An entry of the open-token table (R198). -/
structure OpenTok where
  man : Nat
  gen : Nat
  orig : Nat
  index : Nat
  a : Nat
  place : TokPlace
  parts : List Nat
  user : Word
  ret : Nat
  rgen : Nat
  rman : Nat
  deriving DecidableEq, Repr

structure LandSt where
  mans : Table Manifest              -- the last generation of each number
  finalising : List (Nat × Manifest) -- older generations still FINALISING (Table 9-6)
  entries : List AnchEntry           -- in order of arrival
  nextEntry : Nat
  holds : List (Nat × Packet)        -- packets in a landing port's hold (R187), in order of arrival
  loop : List Packet                 -- packets this harbour sends to itself
  sources : Table Source
  openToks : List OpenTok
  waitZero : List (Nat × Nat × Nat × Nat) -- markings that wait for a release (R183): place in the order, set, first, count
  failing : List (Nat × Bool × Manifest)  -- failed token manifests whose lading records are held (R199, R316): number, reply
  late : List (LandSrc × BitVec 256 × List Codeword) -- packets that arrived while the harbour moored (R390)
  stopped : Bool                     -- landing ports are down (R375)
  deriving DecidableEq, Repr

/-- The dispatch engine (10). -/
structure DispSt where
  routes : Table (List Word)         -- per table, entries with harbour and manifest (R194)
  prod : Nat                         -- 64-bit count of release records (R202)
  deriving DecidableEq, Repr

/-! ### Parameter sets (11, 12, 13, 17) -/

/-- Rule constants (Table 12-2). -/
structure Consts where
  rule : Nat
  nesterov : Bool
  noBias : Bool
  mstoch : Bool
  beta1 : F32
  beta2 : F32
  eps : F32
  lambda : F32
  maxnorm : F32
  delta : F32
  pivot : F32
  deriving DecidableEq, Repr

/-- A tensor of a set (Table 13-2). -/
structure TensorEnt where
  elements : Nat
  tensorId : Nat
  noDecay : Bool
  tiled : Bool
  cols : Nat
  group : Nat
  deriving DecidableEq, Repr

/-- The epoch word (Table 11-1). -/
structure Epoch where
  epoch : Word
  step : Nat
  active : Bool
  expelled : Bool
  disputed : Bool
  ls : Nat
  clean : Nat
  tround : Nat
  skips : Nat
  seq : Word
  deriving DecidableEq, Repr

/-- Phases of a sweep record (Table 11-11). -/
inductive SwPhase where
  | idle
  | normSent
  | decided
  | walking
  deriving DecidableEq, Repr

/-- The sweep record of a set (R213, R220, R236), with the counts of its step report. -/
structure SweepRec where
  phase : SwPhase
  skip : Bool
  byHost : Bool
  clip : F32
  gn : F32
  nonfiniteTotal : Nat
  nonfiniteOwn : Nat
  normOwn : Nat              -- N of this harbour, in units of 2^(2 × -133)
  decideTick : Nat
  eta : F32
  latch : Option (BitVec 128 × BitVec 128) -- seeds at the start of the SWEEP that opened the round (R160, R349)
  consts : Option Consts     -- rule constants of the last walk (R239)
  seed : BitVec 128
  cseed : BitVec 128
  ls : Nat
  tentative : Bool
  frac : Nat                 -- check fraction threshold of the walk (R339)
  ftz : Bool                 -- HB_FTZ.CRANE when the walk started (R150)
  resumed : Bool
  interrupted : Bool
  poisoned : Nat             -- consignments left for poison (R225)
  stopped : Option Nat       -- consignment that ended the walk with CHECK_FAIL (R224)
  report : Option Nat
  tnorms : Option Nat
  unreported : Bool
  wholeCycle : Bool          -- the last epoch-word write was the commit of STEP (R361)
  cSwept : Nat
  cKept : Nat
  cDup : Nat
  cDetect : Nat
  cRecall : Nat
  cFlush : Nat
  cSat : Nat
  cTpc : Nat
  cLazy : Nat
  cDrop : Nat
  cSpill : Nat
  cHolds : Nat
  cResumes : Nat
  carried : List Nat         -- groups that the walk carries (R257, R259)
  lanesOut : List (Nat × Nat) -- lanes (quay, lane) that spares have replaced when the walk started (R348)
  deriving DecidableEq, Repr

/-- One consignment: its record (Table 11-2), both slips, tally, final gradient, staging and residuals. The byte, word
and element tables list what differs from the value at creation (R263). -/
structure Consign where
  zeroed : List Nat          -- parcels whose ZERO bit is set
  tvalid : Bool
  finalised : Bool
  selected : Bool
  checked : Bool
  tround : Nat
  sealWord : Word
  progress : Bool
  cleared : Bool             -- CLEARED of Table 11-4
  visited : Bool             -- examined by the walk that runs: written, kept, or left for poison (R221, R231)
  slip0 : Table Byte
  slip1 : Table Byte
  bad0 : List Nat            -- poisoned grains of slip 0
  bad1 : List Nat
  tally : Table Word
  badTally : List Nat        -- poisoned grains of the tally
  fg : Table (BitVec 16)
  badFg : List Nat
  stage : Table Byte         -- staged codes, then 128 scale bytes
  stageEpoch : Word
  resid : Table F32
  badResid : List Nat        -- poisoned grains of the residuals
  oldStage : Table Byte      -- while epoch e + 1 is staged: the bits of R19 for epoch e
  residue : Bool             -- a residue detection waits for its recomputation (R333)
  reissue : Nat              -- recalls in epoch e + 1 (R275)
  reissueOld : Nat           -- recalls in epoch e
  deriving DecidableEq, Repr

/-- Settings of a set's registers (Tables 11-8 to 11-12, 17-8 to 17-12). -/
structure PsetRegs where
  eta : F32
  etaStaged : F32
  etaStep : Nat
  etaHold : Bool
  lmin : Nat
  lmax : Nat
  dynamic : Bool
  g : Nat
  root : Nat
  localOnly : Bool
  d : Nat
  count : Nat
  self : Nat
  beacon : Nat
  digTimeout : Nat
  digest : Word
  dstep : Nat
  pending : Bool
  agreed : Bool
  missing : Bool
  differs : Bool
  mismatches : Nat
  agreedStep : Nat
  pendTick : Nat
  deriving DecidableEq, Repr

/-- A resident parameter set. -/
structure Pset where
  consts : Consts
  sfmt : Nat
  smargin : Nat
  sround : Bool
  tensors : List TensorEnt
  groups : Nat
  lazy : List Nat                    -- groups that are LAZY (R256)
  last0 : Table (Nat × Nat)          -- (LAST, T) of slip 0
  last1 : Table (Nat × Nat)
  base : Nat
  length : Nat
  ep : Epoch
  sw : SweepRec
  pr : PsetRegs
  cons : Table Consign
  gradB : Table Nat                  -- norm buckets, tensor × 256 + bucket (R189)
  weightB : Table Nat
  updateB : Table Nat
  nonfinite : Nat
  digestSum : Word
  dispStep : Nat                     -- step count of a dispatch set (R204)
  held : Bool                        -- IN_RECALL_STAT.HELD (R341)
  heldTick : Nat
  heldRound : Nat                    -- tally round whose manifests the hold keeps (R341)
  nanRound : Option Nat              -- tally round whose manifests ACTION 1 finalises as non-finite (R341)
  drops : Nat                        -- token drops and spills since the last report (R199)
  spills : Nat
  deriving DecidableEq, Repr

/-- The cranes as one walker (R21), with each quay's power hold. -/
structure WalkSt where
  set : Option Nat                   -- set being walked
  wait : List Nat                    -- contexts waiting for the crane, in order
  powerHeld : List Nat               -- quays whose crane holds new consignments (R20)
  deriving DecidableEq, Repr

/-! ### Export (13) -/

/-- An armed subscription (Table 13-6, R273). -/
structure Sub where
  pset : Nat
  kind : Nat
  runahead : Bool
  double : Bool
  xfmt : Nat
  xmargin : Nat
  tensor : Nat
  port : Nat
  engine : Nat
  first : Nat
  count : Nat
  dst : Word
  status : Word
  clearedEpoch : Word
  recalls : Word
  sentEpoch : Word
  pushed : Nat
  ahead : List Nat                   -- blocks of epoch e + 1 already pushed (R273)
  sentAhead : List Nat               -- blocks of epoch e + 1 that the subscriber has been sent and that a recall withdraws (R275)
  deriving DecidableEq, Repr

/-- A write of the export engine that waits for the acknowledgements of what went before it (R268, R273). -/
inductive ExpOut where
  | packet (block epoch : Nat) (p : Packet)   -- the trailer of a block
  | status (sub : Nat) (epoch : Word)
  deriving DecidableEq, Repr

structure ExpSt where
  subs : Table Sub
  contexts : List Nat                -- sets held, most recently used first (R22)
  waiting : List (Nat × Nat × ExpOut) -- source, stage and write
  deriving DecidableEq, Repr

/-! ### Berth units (14, 15) -/

/-- Where a berth operation stands. -/
inductive BPhase where
  | waiting                          -- RUN = 1, permit requested
  | granted                          -- RUN = 2
  | computed                         -- results written, duplicate outstanding (R337)
  deriving DecidableEq, Repr

/-- An operation taken by a unit (R283). -/
structure BOp where
  slots : List Byte
  port : Nat
  seq : Nat
  release : Option Release
  batch : Option (Nat × Nat)         -- context and entry of its BERTH_BATCH
  logidx : Nat
  phase : BPhase
  selected : Bool                    -- chosen for duplicate execution (R334)
  written : Nat                      -- result grains already seen as written (R314, R315)
  shadow : List (Nat × Codeword)     -- operand grains overwritten while it runs, with their older value (R317)
  seen : Table (Option Grain)        -- operand grains that it has read, by bank offset; none where bad (R317)
  wrote : List (Nat × Codeword)      -- its result grains, bank offset and value, once computed
  hash : BitVec 32                   -- operand hash of what it read (R346)
  dup : Option (List Flip)           -- silent errors of the first of two duplicate runs by its own unit (R338)
  seed : BitVec 128                  -- job seed when it started (R160)
  ftz : Bool                         -- HB_FTZ.BERTH when it started (R150)
  unlocked : Bool                    -- started while the protection map was unlocked (R412)
  code : Nat
  nelem : Nat
  nsat : Nat
  nflush : Nat
  deriving DecidableEq, Repr

/-- Entry results of a batch: code, WRITTEN, and the entry's bank. -/
structure BEntry where
  bank : Nat
  logidx : Nat
  code : Option Nat
  written : Nat
  deriving DecidableEq, Repr

/-- The registers of a berth unit (R288): A0–A15 by lane × 16 + number, X0–X7 by lane × 8 + number, zero where not
listed. -/
structure LaneRegs where
  acc : Table (BitVec 32)
  x : Table (BitVec 16)
  deriving DecidableEq, Repr

structure Bank where
  compute : Bool
  changing : Option Bool
  slots : Table Byte
  badSlots : List Nat                -- grains of the slots that hold poison (R49)
  run : Option BOp
  queued : Option BOp
  lastCode : Nat
  lastSeq : Nat
  ended : Nat
  written : Nat
  saturated : Nat
  flushed : Nat
  tick : Nat
  lanes : LaneRegs
  deriving DecidableEq, Repr

/-- An engine's write that a berth operation holds at its bank, or a sleeping quay, whole (R316, R388). -/
structure HeldWrite where
  addr : Nat                         -- local address
  bytes : List Byte                  -- written as valid codewords; empty where `words` are
  words : List Codeword              -- whole grains as they are
  deriving DecidableEq, Repr

/-- A quay's berth scheduler (R297, R309-R311). -/
structure Permits where
  waiting : List Nat                 -- banks, in order of request
  holders : List Nat                 -- banks, in order of grant
  pool : Nat
  fallback : Bool
  sizedTick : Nat
  deriving DecidableEq, Repr

structure BerthSt where
  banks : Table Bank
  permits : Table Permits
  batches : Table (List BEntry)      -- by context number
  images : Table (List Byte)         -- the operation image of each batch, by context number
  held : List HeldWrite              -- in order of arrival
  deriving DecidableEq, Repr

/-! ### Integrity (16) -/

/-- A unit that a detection is charged to (R346). -/
inductive UnitId where
  | lane (q : Nat) (lane : Nat)
  | berth (b : Nat)
  | linkLane (q : Nat) (lane : Nat)
  deriving DecidableEq, Repr

/-- A detection record (R346). `kind`: 0 residue, 1 duplicate, 2 field test, 3 package. -/
structure Detection where
  unit : UnitId
  kind : Nat
  count : Nat
  hash : BitVec 32
  tick : Nat
  wraps : Nat
  deriving DecidableEq, Repr

structure IntegSt where
  detections : List Detection        -- oldest first, the last 8192
  totals : List (UnitId × Nat)       -- saturating count per unit
  retired : List UnitId
  commits : Nat                      -- the harbour's commit count (R347)
  berthOps : Table Nat               -- operations of each berth unit (R347)
  escWalks : Nat                     -- walks left at f = 1/2 (R339)
  escBerth : Table Nat               -- berth operations left at f = 1/2, per quay
  packages : Table (List Byte)       -- slots 1-4
  repaired : Table (List Nat)        -- per bank, rows mapped to spares, with repeats (R330)
  rowCorr : Table Nat                -- corrections of a row in this pass, bank × 65536 + row (R330)
  candidates : List (Nat × Nat)      -- repair candidates (bank, row)
  badGrains : List Nat               -- addresses the logbook records (R326, R328)
  skipped : List Nat                 -- banks whose row visit is due (R329)
  deriving DecidableEq, Repr

/-! ### Power, boot, snapshots (17, 18, 19) -/

inductive HarbourPower where
  | active
  | mooring (retain : Bool)
  | moored (retain : Bool)
  | off
  deriving DecidableEq, Repr

structure PowSt where
  harbour : HarbourPower
  doze : List Nat
  waking : List Nat
  harbourWaking : Bool
  wakeAfter : Nat                    -- ticks; 0 none
  mooredTick : Nat
  idleEngines : List Nat
  idleBerths : List Nat
  reached : Nat                      -- how often an access has reached a sleeping quay (log entry 14)
  supply : Bool
  moorReply : Option Bool            -- RETAIN of a HARBOUR_MOOR whose reply is held (R390)
  warmAfter : Option (Bool × Bool)   -- KEEP and reference of a Warm reset that wakes the harbour first (R393)
  resetsAfter : List (Nat × Nat)     -- narrower resets that wake the harbour first (R393): KIND, TARGET
  deriving DecidableEq, Repr

/-- A logbook configuration copy (R406): valid when its CRC matches; the LB fields as whole-register values by offset,
and the arena base of each set number at the capture (R423). -/
structure CfgCopy where
  valid : Bool
  seq : Word
  regs : Table Word
  arenas : Table Nat
  deriving DecidableEq, Repr

/-- What an epoch-word write does, which decides the actions that follow it (R228). -/
inductive EpochAct where
  | commit       -- of a sweep (R222)
  | skip         -- of a step (R218)
  | abandon      -- of a step (R224)
  | release      -- of a set that a Warm reset has left ACTIVE (R230)
  | restore      -- RESTORE (R357)
  | scale        -- LOSS_SCALE (R234)
  | differ       -- EXPELLED or DISPUTED (R366)
  deriving DecidableEq, Repr

/-- A commit-journal entry (R228). -/
structure JournalEntry where
  pset : Nat
  act : EpochAct
  word : Epoch
  deriving DecidableEq, Repr

/-- Instructions of the test port (R415). -/
inductive TapInstr where
  | bypass | idcode | sample | extest | debug
  deriving DecidableEq, Repr

structure BootSt where
  image : List Byte                  -- harbourmaster SRAM copy of the image (R403)
  everRan : Bool                     -- STATE has read RUNNING since the last reset (R404)
  copyA : CfgCopy
  copyB : CfgCopy
  useB : Bool
  journal : List JournalEntry
  wraps : Nat                        -- 32-bit wrap count (R379)
  mirrors : Table Word               -- counter-mirror area by register offset (R422)
  hmSram : Table Word                -- words of harbourmaster SRAM written by the debug port
  tap : TapInstr
  halted : Bool                      -- cores halted by the debug access port (R415)
  stagedSeed : Word                  -- staged low half of the job seed (R159)
  stagedCseed : Word
  deriving DecidableEq, Repr

/-- Counters that only snapshot records show (Table 17-7). -/
structure SnapSt where
  recs : Table Word                  -- engine × 8 + word
  contribs : Table Nat               -- per quay
  lastCon : Table (Nat × Nat × Word) -- per quay: next consignment, last written, its SEAL
  tugMan : Table (Nat × Nat × Nat)   -- per quay: set landed, manifest and GEN in finalisation
  merges : Table Nat                 -- per quay
  lastMerge : Table (Nat × Nat)      -- per quay: window, SEQ
  landed : Nat
  lastMan : Nat × Nat
  pktSent : Nat
  pktRefused : Nat
  blocks : Nat
  recalls : Nat
  lastExport : Nat × Word
  lastTaken : Nat × Nat × Nat        -- opcode, window, SEQ
  lastCommit : Nat × Word
  journalSeq : Word
  deriving DecidableEq, Repr

/-- The whole machine. -/
structure State where
  fuses : Fuses
  blown : Fuses                      -- fuses as blown, sensed at the next Cold reset (R416)
  regs : Table Word                  -- stored register fields by offset from 0xF00_0000_0000
  mem : List Host.Cell               -- data bytes by interleaved or SRAM local address; zero where unlisted
  chk : Table (BitVec 32)            -- stored check symbols XOR the right ones, by grain address
  host : HostSt
  cmd : CmdSt
  sync : SyncSt
  tds : Table TDesc
  land : LandSt
  disp : DispSt
  sets : Table Pset
  walk : WalkSt
  exp : ExpSt
  berth : BerthSt
  integ : IntegSt
  pow : PowSt
  boot : BootSt
  snap : SnapSt
  out : List Out                     -- what has left the part, oldest first
  free : Nat                         -- free values drawn so far: the model's own field (log entry 9)
  pending : List Instr               -- commands that wait, first in first out
  deriving DecidableEq, Repr

/-! ### Values of things that have not been written, and the state at reset -/

/-- A command window at reset (R89, Tables 4-9 to 4-11). -/
def Window.zero : Window :=
  { head := 0, enable := false, seq := 0, pend := [], fulls := 0, base := 0, size := 0, cons := 0,
    prod := 0, held := [] }

/-- A gate record at reset (R130): idle, every field zero. -/
def Gate.zero : Gate :=
  { members := [], arrived := [], early := [], earlyRemote := [], state := 0, cause := 0, code := 0, round := 0,
    earlyRound := 0, task := 0, deadline := 0, noTimeout := false, parent := 0, openTick := 0, endTick := 0 }

/-- A source's counts at reset (R172). -/
def Source.zero : Source := { plain := 0, final := 0, flag := false, tPlain := 0, tFinal := 0 }

/-- No response credit granted (log entry 4). -/
def Credits.zero : Credits := { pilot := 0, control := 0, read := 0, write := 0 }

/-- The cleared registers of a berth unit (R288). -/
def LaneRegs.zero : LaneRegs := { acc := [], x := [] }

/-- A bank in MEMORY mode with nothing in its command window (R280, R284, R303). -/
def Bank.zero : Bank :=
  { compute := false, changing := none, slots := [], badSlots := [], run := none, queued := none, lastCode := 0, lastSeq := 0,
    ended := 0, written := 0, saturated := 0, flushed := 0, tick := 0, lanes := LaneRegs.zero }

/-- A permit scheduler whose pool is 0 (Table 15-5). -/
def Permits.zero : Permits := { waiting := [], holders := [], pool := 0, fallback := false, sizedTick := 0 }

/-- A tensor-less, untouched consignment is described relative to its value at creation (R263). -/
def Consign.zero : Consign :=
  { zeroed := [], tvalid := false, finalised := false, selected := false, checked := false, tround := 0, sealWord := 0,
    progress := false, cleared := false, visited := false, slip0 := [], slip1 := [], bad0 := [], bad1 := [],
    tally := [], badTally := [], fg := [], badFg := [], stage := [], stageEpoch := 0, oldStage := [], resid := [], badResid := [],
    residue := false, reissue := 0, reissueOld := 0 }

/-- The sweep record at rest (R220). -/
def SweepRec.zero : SweepRec :=
  { phase := .idle, skip := false, byHost := false, clip := 0, gn := 0, nonfiniteTotal := 0, nonfiniteOwn := 0,
    normOwn := 0, decideTick := 0, eta := 0, latch := none, consts := none, seed := 0, cseed := 0, ls := 0,
    tentative := false, frac := 0, ftz := false,
    resumed := false, interrupted := false, poisoned := 0, stopped := none, report := none, tnorms := none,
    unreported := false, wholeCycle := false, cSwept := 0, cKept := 0, cDup := 0, cDetect := 0, cRecall := 0,
    cFlush := 0, cSat := 0, cTpc := 0, cLazy := 0, cDrop := 0, cSpill := 0, cHolds := 0, cResumes := 0, carried := [],
    lanesOut := [] }

/-- An empty configuration copy: invalid, as copy B at manufacture (R406). -/
def CfgCopy.invalid : CfgCopy := { valid := false, seq := 0, regs := [], arenas := [] }

/-- Fuses of a part as delivered (R432). -/
def Fuses.delivered (part : Part) : Fuses :=
  { part := part, stepping := 1, dbgKill := false, keyRevoked := 0, fwSvnMin := 0 }

def HostSt.reset : HostSt :=
  { reqs := [], tags := [], reused := [], credits := [], turns := [], egress := [], pilots := [], late := [], orders := [] }

def CmdSt.reset : CmdSt := { wins := [], running := [], nextCx := 0, launches := 0 }

def SyncSt.reset : SyncSt := { gates := [], tags := [], watches := [] }

/-- The landing engine at reset; the landing ports are down until a reference is present (R402). -/
def LandSt.reset : LandSt :=
  { mans := [], finalising := [], entries := [], nextEntry := 0, holds := [], loop := [], sources := [],
    openToks := [], waitZero := [], failing := [], late := [], stopped := true }

def DispSt.reset : DispSt := { routes := [], prod := 0 }

def WalkSt.reset : WalkSt := { set := none, wait := [], powerHeld := [] }

def ExpSt.reset : ExpSt := { subs := [], contexts := [], waiting := [] }

def BerthSt.reset : BerthSt := { banks := [], permits := [], batches := [], images := [], held := [] }

def IntegSt.reset : IntegSt :=
  { detections := [], totals := [], retired := [], commits := 0, berthOps := [], escWalks := 0, escBerth := [],
    packages := [], repaired := [], rowCorr := [], candidates := [], badGrains := [], skipped := [] }

def PowSt.reset : PowSt :=
  { harbour := .active, doze := [], waking := [], harbourWaking := false, wakeAfter := 0, mooredTick := 0,
    idleEngines := [], idleBerths := [], reached := 0, supply := true, moorReply := none, warmAfter := none, resetsAfter := [] }

/-- The logbook at manufacture (R406) and the boot logic at reset: copy A holds the initial configuration with
sequence number 1. -/
def BootSt.reset (part : Part) : BootSt :=
  { image := [], everRan := false, copyA := { valid := true, seq := 1, regs := initialConfig part, arenas := [] },
    copyB := CfgCopy.invalid, useB := false, journal := [], wraps := 0, mirrors := [], hmSram := [], tap := .idcode,
    halted := false, stagedSeed := 0, stagedCseed := 0 }

def SnapSt.reset : SnapSt :=
  { recs := [], contribs := [], lastCon := [], tugMan := [], merges := [], lastMerge := [], landed := 0,
    lastMan := (0, 0), pktSent := 0, pktRefused := 0, blocks := 0, recalls := 0, lastExport := (0, 0),
    lastTaken := (0, 0, 0), lastCommit := (0, 0), journalSeq := 0 }

/-- The machine at reset for a part: every register field at its Reset value, LB fields at the logbook's (R12, R426),
no set resident, memory zero. -/
def State.resetOf (part : Part) : State :=
  { fuses := Fuses.delivered part, blown := Fuses.delivered part, regs := initialConfig part, mem := [], chk := [],
    host := HostSt.reset, cmd := CmdSt.reset, sync := SyncSt.reset, tds := [], land := LandSt.reset,
    disp := DispSt.reset, sets := [], walk := WalkSt.reset, exp := ExpSt.reset, berth := BerthSt.reset,
    integ := IntegSt.reset, pow := PowSt.reset, boot := BootSt.reset part, snap := SnapSt.reset, out := [], free := 0,
    pending := [] }

/-- The machine right after reset; the part is Z16 (log entry 3). -/
def State.reset : State := State.resetOf .z16

end Sys2Proof.Machine
end

