-- ==== Sys2Proof/Machine/Ops.lean ====
section
/-!
DEFINITION. The named operations over registers, memory, the watch clock, alerts and what leaves the part. Every meaning is
written over these.
-/
namespace Sys2Proof.Machine

open Sys2Proof

/-! ### Registers -/

/-- The stored bits of the register at an offset. -/
def regW (s : State) (off : Nat) : Nat := (tget s.regs off 0).toNat

/-- A stored field. -/
def fld (s : State) (off hi lo : Nat) : Nat := bits (regW s off) hi lo

/-- Replaces the stored bits of a register. -/
def setRegW (s : State) (off v : Nat) : State := { s with regs := tput s.regs off (BitVec.ofNat 64 v) 0 }

/-- Replaces a stored field. -/
def setFld (s : State) (off hi lo v : Nat) : State := setRegW s off (putBits (regW s off) hi lo v)

/-- Adds to a counter field that saturates (R381). -/
def bump (s : State) (off hi lo n : Nat) : State :=
  if n = 0 then s else setFld s off hi lo (satAdd (fld s off hi lo) n (2 ^ (hi + 1 - lo) - 1))

/-- Adds to a counter that is mirrored in the logbook (R422). -/
def bumpMirror (s : State) (off hi lo n : Nat) : State :=
  if n = 0 then s else
  let s1 := bump s off hi lo n
  let m := putBits (tget s1.boot.mirrors off 0).toNat hi lo (fld s1 off hi lo)
  { s1 with boot := { s1.boot with mirrors := tput s1.boot.mirrors off (BitVec.ofNat 64 m) 0 } }

/-- The part. -/
def State.part (s : State) : Part := s.fuses.part

/-- This harbour's number (R27). -/
def selfNum (s : State) : Nat := fld s rHbRoadstead 17 0

/-- The size of the roadstead (R27). -/
def countNum (s : State) : Nat := fld s rHbRoadstead 49 32

/-! ### The watch clock (R379) -/

/-- HB_WATCH.TICK. -/
def now (s : State) : Nat := fld s rHbWatch 47 0

/-- The logbook's wrap count grows by one, saturating at 2^32 - 1 (R379). -/
def addWrap (s : State) : State := { s with boot := { s.boot with wraps := satAdd s.boot.wraps 1 4294967295 } }

/-- One watch tick passes: TICK grows by one modulo 2^48 and each wrap is counted (R379). Without supply nothing counts. -/
def watchTick (s : State) : State :=
  if s.pow.harbour = .off then s
  else if now s + 1 = tickMod then addWrap (setFld s rHbWatch 47 0 0) else setFld s rHbWatch 47 0 (now s + 1)

/-- Whether `t` ticks have passed since `t0` (R380). -/
def expired (s : State) (t0 t : Nat) : Bool := decide (t ≤ ticksSince t0 (now s))

/-! ### What leaves the part -/

/-- Something leaves the part. -/
def emit (s : State) (o : Out) : State := { s with out := s.out ++ [o] }

/-- The ALERT pin: asserted while any cause of HB_ALERT is set (R414). -/
def alertPin (s : State) : Bool := fld s rHbAlert 6 0 != 0

/-- A change of HB_ALERT shows at the ALERT pin (R414). -/
def alertEdge (s s1 : State) : State := if alertPin s = alertPin s1 then s1 else emit s1 (.alertPin (alertPin s1))

/-- A new cause of HB_ALERT bit `i` (R414): it asserts the pin, and with IBI_EN set it sends an in-band interrupt. -/
def raiseAlert (s : State) (i : Nat) : State :=
  if fld s rHbAlert i i = 1 then s
  else
    let s1 := alertEdge s (setFld s rHbAlert i i 1)
    if fld s1 rHbAlert 7 7 = 1 then emit s1 .ibi else s1

/-- Credits of a port. -/
def creditsOf (s : State) (p : Nat) : Credits := tget s.host.credits p Credits.zero

def Credits.get (c : Credits) : Channel → Nat
  | .pilot => c.pilot
  | .control => c.control
  | .read => c.read
  | .write => c.write

def Credits.set (c : Credits) (ch : Channel) (n : Nat) : Credits :=
  match ch with
  | .pilot => { c with pilot := n }
  | .control => { c with control := n }
  | .read => { c with read := n }
  | .write => { c with write := n }

/-- The DENIED responses to requests that reused a tag follow the response of the request that held it (R53). -/
def takeReused (s : State) (p t : Nat) : State :=
  { s with host := { s.host with
      reused := s.host.reused.filter (fun r => ¬(r.1 = p ∧ r.2.1 = t)),
      egress := s.host.egress ++ (s.host.reused.filter (fun r => r.1 = p ∧ r.2.1 = t)).map fun r =>
        { port := p, ch := r.2.2, msg := .resp t .denied [], frees := false } } }

/-- A message leaves its port; the response of a request frees its tag (R52). -/
def leave (s : State) (e : Egress) : State :=
  let s1 := emit s (.port e.port e.msg)
  match e.msg, e.frees with
  | .resp t _ _, true =>
    takeReused { s1 with host := { s1.host with tags := s1.host.tags.filter (· ≠ (e.port, t)) } } e.port t
  | _, _ => s1

/-- Sends the oldest message of a port's channel if a credit is there (R55). A whole message takes one response credit of
its channel, whatever its length, the pilot messages and landed-notices of engines among them (log entry 101). -/
def sendOne (s : State) (p : Nat) (ch : Channel) : State :=
  let c := creditsOf s p
  if c.get ch = 0 then s else
  match s.host.egress.find? (fun e => e.port = p ∧ e.ch = ch) with
  | none => s
  | some e =>
    leave { s with host := { s.host with
      egress := s.host.egress.erase e, credits := tset s.host.credits p (c.set ch (c.get ch - 1)) } } e

/-- Flits of 256 bytes that a message takes (R56): a response by its data, any other message one. -/
def PortMsg.flits : PortMsg → Nat
  | .resp _ _ data => max 1 (ceilDiv data.length 8)
  | _ => 1

/-- Whether a channel of a port has a message and a credit for it. -/
def chReady (s : State) (p : Nat) (ch : Channel) : Bool :=
  (creditsOf s p).get ch != 0 && s.host.egress.any fun e => e.port == p && e.ch == ch

/-- A channel's weight in HB_PORT_VCW; one flit each when all three are 0 (R56, Table 3-10). -/
def chWeight (s : State) (p : Nat) (ch : Channel) : Nat :=
  if fld s (rHbPortVcw p) 23 0 = 0 then 1
  else
    match ch with
    | .pilot => 0
    | .control => fld s (rHbPortVcw p) 7 0
    | .read => fld s (rHbPortVcw p) 15 8
    | .write => fld s (rHbPortVcw p) 23 16

/-- The three weighted channels in the order of their turns, those after `ch` first. -/
def turnsAfter : Channel → List Channel
  | .control => [.read, .write, .control]
  | .read => [.write, .control, .read]
  | _ => [.control, .read, .write]

/-- The turn of a port; nothing has been sent yet at first. -/
def turnAt (s : State) (p : Nat) : PortTurn := tget s.host.turns p { ch := .write, left := 0 }

/-- Whose turn it is (R56): the channel whose turn runs goes on, then the next that is ready takes as many flits as its
weight; a channel of weight 0 is served only while the others have nothing ready. -/
def pickTurn (s : State) (p : Nat) : Option PortTurn :=
  let t := turnAt s p
  if chReady s p t.ch ∧ 0 < t.left then some t
  else
    match (turnsAfter t.ch).find? fun c => chReady s p c && decide (0 < chWeight s p c) with
    | some c => some { ch := c, left := chWeight s p c }
    | none => ((turnsAfter t.ch).find? (chReady s p)).map fun c => { ch := c, left := 1 }

/-- Flits of the message that a channel sends next. -/
def headFlits (s : State) (p : Nat) (ch : Channel) : Nat :=
  match s.host.egress.find? (fun e => e.port = p ∧ e.ch = ch) with
  | some e => e.msg.flits
  | none => 0

/-- Sends one flit of a port: the pilot channel first, then the channel whose turn it is (R56; log entry 101). `done` counts, by
channel, the flits sent of the message that it sends; a message leaves, and takes its credit, with its last flit. -/
def pumpOne (s : State) (p : Nat) (done : Credits) : State × Credits :=
  if chReady s p .pilot then (sendOne s p .pilot, done)
  else
    match pickTurn s p with
    | none => (s, done)
    | some t =>
      let s1 := { s with host := { s.host with turns := tset s.host.turns p { t with left := t.left - 1 } } }
      if done.get t.ch + 1 < headFlits s p t.ch then (s1, done.set t.ch (done.get t.ch + 1))
      else (sendOne s1 p t.ch, done.set t.ch 0)

/-- Sends what the credits of a port allow, flit by flit; `n` bounds the flits. -/
def pump (s : State) (p : Nat) (done : Credits) : Nat → State
  | 0 => s
  | n + 1 => let r := pumpOne s p done; pump r.1 p r.2 n

/-- Sends what the credits of a port allow (R55). -/
def pumpPort (s : State) (p : Nat) : State :=
  pump s p Credits.zero ((s.host.egress.map fun e => e.msg.flits).sum + s.host.reused.length)

/-- Queues a message at a port's egress and sends what credits allow. -/
def sendPort (s : State) (p : Nat) (ch : Channel) (m : PortMsg) : State :=
  pumpPort { s with host := { s.host with egress := s.host.egress ++ [{ port := p, ch := ch, msg := m, frees := false }] } } p

/-- The response of a request (R46). -/
def respond (s : State) (p : Nat) (ch : Channel) (tag : Nat) (st : Resp) (data : List Codeword) : State :=
  pumpPort { s with host := { s.host with
    egress := s.host.egress ++ [{ port := p, ch := ch, msg := .resp tag st data, frees := true }] } } p

/-! ### Memory by grains (R10, R321) -/

/-- Whether the harbour's clocks run: they stop in Moored and without supply (R374, Table 18-1). -/
def clocksRun (s : State) : Bool :=
  match s.pow.harbour with
  | .active | .mooring _ => true
  | _ => false

/-- Quays in Doze or waking; every quay while the harbour is not Active. -/
def asleep (s : State) : List Nat :=
  if s.pow.harbour = .active then s.pow.doze ++ s.pow.waking else List.range (quays s.part)

/-- An access reaches a quay: a sleeping one is noted, so that the access is held, and a dozing one wakes (R388; log
entry 14). -/
def wakeQuay (s : State) (q : Nat) : State :=
  if q ∈ s.pow.doze then
    { s with pow := { s.pow with doze := s.pow.doze.erase q, waking := insertNew s.pow.waking q,
                                 reached := s.pow.reached + 1 } }
  else if q ∈ s.pow.waking then { s with pow := { s.pow with reached := s.pow.reached + 1 } }
  else s

/-- An engine in Idle wakes at a request, message or signal addressed to it (R386). -/
def rouse (s : State) (e : Nat) : State :=
  if s.pow.idleEngines.isEmpty then s
  else { s with pow := { s.pow with idleEngines := s.pow.idleEngines.filter (· != e) } }

/-- A berth unit in Idle wakes at an operation (R386). -/
def rouseBerth (s : State) (b : Nat) : State :=
  if s.pow.idleBerths.isEmpty then s
  else { s with pow := { s.pow with idleBerths := s.pow.idleBerths.filter (· != b) } }

/-- The berth units of some quays in Idle wake at a message (R386). -/
def rouseUnits (s : State) (qs : List Nat) : State :=
  if s.pow.idleBerths.isEmpty then s
  else { s with pow := { s.pow with idleBerths := s.pow.idleBerths.filter fun b => !qs.contains (b / 1024) } }

/-- An access to a byte of DRAM or quay SRAM reaches its quay (R388). -/
def startWake (s : State) (home : Nat) : State :=
  if s.pow.doze.isEmpty ∧ s.pow.waking.isEmpty then s
  else
    match quayOf s.part home with
    | some q => wakeQuay s q
    | none => s

/-- The stored data bytes of a grain. -/
def rawGrain (s : State) (home : Nat) : Grain := bytesGrain (memRead s.mem home 32)

/-- The stored codeword of a grain. -/
def storedWord (s : State) (home : Nat) : Codeword :=
  let g := rawGrain s home
  { data := g, check := encode g ^^^ tget s.chk home 0 }

/-- Stores a codeword in memory, with nothing else. -/
def storeRaw (s : State) (home : Nat) (c : Codeword) : State :=
  { s with mem := memWrite s.mem home (grainBytes c.data), chk := tput s.chk home (deltaOf c) 0 }

/-- The declared write region of a berth operation (R312). -/
def BOp.wlo (o : BOp) : Nat := fieldAt o.slots 16 4 % 2 ^ 27
def BOp.whi (o : BOp) : Nat := fieldAt o.slots 20 4 % 2 ^ 27

/-- Whether [x, x+n) of the bank meets the declared write region: a write that only partly overlaps it is held whole
(R316). -/
def BOp.inWrite (o : BOp) (x n : Nat) : Bool := overlaps x n o.wlo (o.whi - o.wlo)

/-- A bank's berth unit. -/
def bankOf (s : State) (b : Nat) : Bank := tget s.berth.banks b Bank.zero
def setBank (s : State) (b : Nat) (x : Bank) : State :=
  { s with berth := { s.berth with banks := tput s.berth.banks b x Bank.zero } }

/-- The bank and the offset in it of a DRAM byte while any berth unit has been used. -/
def berthPlace (s : State) (home : Nat) : Option (Nat × Nat) :=
  if s.berth.banks.isEmpty then none
  else if inRegion s.part home .dram then some (bankPlace s.part home) else none

/-- Whether [x, x+n) of a bank meets the declared write region of an operation in force (R312). -/
def regionMeets (s : State) (b x n : Nat) : Bool :=
  let k := bankOf s b
  let hit (o : Option BOp) : Bool := match o with | some o => o.inWrite x n | none => false
  hit k.run || hit k.queued

/-- The pieces of [a, a+n) by grain: home address and length. -/
def pieceHomes (s : State) (a n : Nat) : List (Nat × Nat) :=
  (grainsOf a n).map fun g => (homeAddr s.part g + (max a g - g), min (a + n) (g + 32) - max a g)

/-- Whether a write of [a, a+n) meets the declared write region of an operation in force (R316). -/
def regionHeld (s : State) (a n : Nat) : Bool :=
  !s.berth.banks.isEmpty && (pieceHomes s a n).any fun h =>
    inRegion s.part h.1 .dram && (let bx := bankPlace s.part h.1; regionMeets s bx.1 bx.2 h.2)

/-- Whether an access to [a, a+n) reaches a sleeping quay (R388). -/
def sleepsAt (s : State) (a n : Nat) : Bool :=
  !(s.pow.doze.isEmpty && s.pow.waking.isEmpty) && (pieceHomes s a n).any fun h =>
    match quayOf s.part h.1 with
    | some q => s.pow.doze.contains q || s.pow.waking.contains q
    | none => false

/-- Whether a write of [a, a+n) must wait: for a berth operation (R316) or for a quay to wake (R388). -/
def mustWait (s : State) (a n : Nat) : Bool := regionHeld s a n || sleepsAt s a n

/-- Bytes that a held write covers. -/
def HeldWrite.size (w : HeldWrite) : Nat := if w.words.isEmpty then w.bytes.length else 32 * w.words.length

/-- An engine's write that must wait is held whole (R316); it wakes the quays that it reaches (R388). -/
def holdWrite (s : State) (w : HeldWrite) : State :=
  let s1 := (pieceHomes s w.addr w.size).foldl (fun s' h => startWake s' h.1) s
  { s1 with berth := { s1.berth with held := s1.berth.held ++ [w] } }

/-- A write outside every region overwrites a grain that a running operation may still have read with its older value
(R317). -/
def shadowGrain (s : State) (home : Nat) : State :=
  match berthPlace s home with
  | none => s
  | some (b, x) =>
    let k := bankOf s b
    match k.run with
    | some o =>
      if o.phase = .waiting then s
      else setBank s b { k with run := some { o with shadow := o.shadow ++ [(x, storedWord s home)] } }
    | none => s

/-- Stores a codeword as it is (R49), in no region. -/
def storeOpen (s : State) (home : Nat) (c : Codeword) : State := storeRaw (shadowGrain (startWake s home) home) home c

/-- Stores a codeword as it is (R49), or holds it (R316, R388). -/
def storeWord (s : State) (home : Nat) (c : Codeword) : State :=
  if mustWait s home 32 then holdWrite s { addr := home, bytes := [], words := [c] } else storeOpen s home c

/-- Stores a grain as a valid codeword (R327). -/
def storeGrain (s : State) (home : Nat) (g : Grain) : State := storeWord s home (codewordOf g)

/-- Stores poison with zero data symbols (R327). -/
def storePoison (s : State) (home : Nat) : State := storeWord s home (poisonOf 0)

/-- The entry of IN_ECC_STAT for a place: its quay, or 16 for the harbour (Table 16-16). -/
def eccEntry (s : State) (home : Nat) : Nat := rInEccStat ((quayOf s.part home).getD 16)

/-- The logbook records an uncorrectable address (R326, R328). -/
def recordBad (s : State) (home : Nat) : State :=
  { s with integ := { s.integ with badGrains := s.integ.badGrains ++ [home] } }

/-- A row meets a correction; at its fourth within one scrub pass the logbook records it as a repair candidate (R330). -/
def noteCorrection (s : State) (home : Nat) : State :=
  if inRegion s.part home .dram then
    let p := bankPlace s.part home
    let row := p.1 * 65536 + p.2 / 2048
    let n := tget s.integ.rowCorr row 0 + 1
    { s with integ := { s.integ with
        rowCorr := tset s.integ.rowCorr row n,
        candidates := if n = 4 then insertNew s.integ.candidates (p.1, p.2 / 2048) else s.integ.candidates } }
  else s

/-- What a decoded read gives: the codeword delivered, and whether it is poisoned or uncorrectable. -/
structure GrainRead where
  word : Codeword
  bad : Bool
  deriving DecidableEq, Repr

/-- A read of a grain in normal mode with its effects (R326, R49). -/
def readGrain (s0 : State) (home : Nat) : State × GrainRead :=
  let s := startWake s0 home
  let w := storedWord s home
  match classify false (tget s.chk home 0) with
  | .clean => (s, ⟨w, false⟩)
  | .corrected m =>
    (noteCorrection (bump (storeRaw s home (codewordOf (w.data ^^^ m))) (eccEntry s home) 15 0 1) home,
      ⟨codewordOf (w.data ^^^ m), false⟩)
  | .uncorrectable =>
    (recordBad (bumpMirror s (eccEntry s home) 31 16 1) home, ⟨poisonOf w.data, true⟩)
  | .poison => (bump s (eccEntry s home) 47 32 1, ⟨w, true⟩)

/-- Reads several grains. -/
def readGrains (s : State) : List Nat → State × List GrainRead
  | [] => (s, [])
  | a :: t =>
    let r := readGrain s a
    let rs := readGrains r.1 t
    (rs.1, r.2 :: rs.2)

/-- Reads the bytes of [a, a+n), with whether any grain of it is poisoned or uncorrectable. `a` is a local address through
either view of DRAM. -/
def readBytes (s : State) (a n : Nat) : State × List Byte × Bool :=
  let gs := grainsOf a n
  let r := readGrains s (gs.map (homeAddr s.part))
  (r.1, ((r.2.flatMap fun g => grainBytes g.word.data).drop (a % 32)).take n, n ≠ 0 && r.2.any (·.bad))

/-- Grain by grain over local addresses: `f` gives the new grain from the old bytes. Engines write whole codewords
(R327). Bytes are written at `a`; the grain's other bytes are read and kept; a bad grain that is only partly covered
becomes poison. -/
def writeGrainPart (s : State) (local0 : Nat) (off : Nat) (bs : List Byte) : State :=
  let home := homeAddr s.part local0
  if off = 0 ∧ 32 ≤ bs.length then storeOpen s home (codewordOf (bytesGrain bs))
  else
    let r := readGrain s home
    if r.2.bad then storeOpen r.1 home (poisonOf 0)
    else
      let old := grainBytes r.2.word.data
      storeOpen r.1 home (codewordOf (bytesGrain (old.take off ++ bs.take (32 - off) ++ old.drop (off + bs.length))))

/-- Writes bytes at a local address, whole codewords at a time. `fuel` bounds the grains. -/
def writeBytesN : Nat → State → Nat → List Byte → State
  | 0, s, _, _ => s
  | fuel + 1, s, a, bs =>
    if bs.isEmpty then s
    else
      let off := a % 32
      writeBytesN fuel (writeGrainPart s (a - off) off (bs.take (32 - off))) (a - off + 32) (bs.drop (32 - off))

/-- Writes bytes at a local address (R327), or holds the write whole (R316, R388). -/
def writeBytes (s : State) (a : Nat) (bs : List Byte) : State :=
  if mustWait s a bs.length then holdWrite s { addr := a, bytes := bs, words := [] }
  else writeBytesN (bs.length + 1) s a bs

/-- Writes whole codewords at a local address, or holds the write whole (R316, R388). -/
def writeWords (s : State) (a : Nat) (ws : List Codeword) : State :=
  if mustWait s a (32 * ws.length) then holdWrite s { addr := a, bytes := [], words := ws }
  else ws.zipIdx.foldl (fun s' w => storeOpen s' (homeAddr s'.part (a + 32 * w.2)) w.1) s

/-- The writes that waited are tried again, in order of arrival; those that an operation or a quay holds still go on waiting
(R316, R388). -/
def applyHeld (s : State) : State :=
  s.berth.held.foldl (fun s' w => if w.words.isEmpty then writeBytes s' w.addr w.bytes else writeWords s' w.addr w.words)
    { s with berth := { s.berth with held := [] } }

/-- Whether nothing sleeps and no berth operation is in force, so that no access of a command can be held. -/
def calm (s : State) : Bool :=
  (asleep s).isEmpty && s.berth.banks.all fun e => e.2.run.isNone && e.2.queued.isNone

/-- Nothing but the wakes that a discarded attempt has started. -/
def keepWakes (s s1 : State) : State :=
  let woken := s.pow.doze.filter fun q => s1.pow.waking.contains q
  { s with pow := { s.pow with doze := s.pow.doze.filter fun q => !woken.contains q,
                               waking := woken.foldl insertNew s.pow.waking } }

/-- Whether no access between two states has reached a sleeping quay, and no write has been held. -/
def carried (s s1 : State) : Bool :=
  s1.pow.reached == s.pow.reached && decide (s1.berth.held.length ≤ s.berth.held.length)

/-- Carries out `f` unless one of its accesses reaches a sleeping quay, or one of its writes meets a declared write region
(R316, R388). Then the whole of it is held: it changes nothing but the wakes it starts (log entry 14). Says whether it was
carried out. -/
def attempt (s : State) (f : State → State) : State × Bool :=
  let s1 := f s
  if calm s || carried s s1 then (s1, true) else (keepWakes s s1, false)

/-- An action that is held whole while an access of it must wait; its row is tried again (log entry 14). -/
def whole (s : State) (f : State → State) : State := (attempt s f).1

/-- The grain a decode in normal mode would deliver, without its effects; none where it is poisoned or uncorrectable. It
stands for the value a write has just left, not for a read of it. -/
def decodedGrain (s : State) (home : Nat) : Option Grain :=
  match classify false (tget s.chk home 0) with
  | .clean => some (rawGrain s home)
  | .corrected m => some (rawGrain s home ^^^ m)
  | _ => none

/-- Reads the eight-byte word at a local address, with the effects of a decode (R326); a bad grain gives its data
symbols. -/
def read64 (s : State) (a : Nat) : State × Nat :=
  let r := readGrain s (homeAddr s.part (a / 32 * 32))
  (r.1, fieldAt (grainBytes r.2.word.data) (a % 32) 8)

/-- One atomic on eight bytes: reads, operates and writes its grain (R48, R327). None where the grain is bad (R49). -/
def atomicWord (s : State) (a : Nat) (f : Nat → Nat) : State × Option Nat :=
  let home := homeAddr s.part (a / 32 * 32)
  let r := readGrain s home
  if r.2.bad then (r.1, none)
  else
    let off := a % 32
    let old := grainBytes r.2.word.data
    let v := fieldAt old off 8
    (storeOpen r.1 home (codewordOf (bytesGrain (old.take off ++ leBytes 8 (f v) ++ old.drop (off + 8)))), some v)

/-- Draws a free byte (log entry 9). -/
def drawByte (s : State) : State × Byte := ({ s with free := s.free + 1 }, Config.freeByte s.free)

/-- Draws `n` free bytes. -/
def drawBytes : Nat → State → State × List Byte
  | 0, s => (s, [])
  | n + 1, s =>
    let r := drawByte s
    let rs := drawBytes n r.1
    (rs.1, r.2 :: rs.2)

/-! ### Objects -/

/-- A command window. -/
def winOf (s : State) (w : Nat) : Window := tget s.cmd.wins w Window.zero
def setWin (s : State) (w : Nat) (x : Window) : State :=
  { s with cmd := { s.cmd with wins := tput s.cmd.wins w x Window.zero } }

/-- A gate record. -/
def gateOf (s : State) (g : Nat) : Gate := tget s.sync.gates g Gate.zero
def setGate (s : State) (g : Nat) (x : Gate) : State :=
  { s with sync := { s.sync with gates := tput s.sync.gates g x Gate.zero } }

/-- A quay's permit scheduler. -/
def permitsOf (s : State) (q : Nat) : Permits := tget s.berth.permits q Permits.zero
def setPermits (s : State) (q : Nat) (x : Permits) : State :=
  { s with berth := { s.berth with permits := tput s.berth.permits q x Permits.zero } }

/-- A resident set. -/
def setOf? (s : State) (n : Nat) : Option Pset := tget? s.sets n
def putSet (s : State) (n : Nat) (x : Pset) : State := { s with sets := tset s.sets n x }

/-- Changes a resident set. -/
def modSet (s : State) (n : Nat) (f : Pset → Pset) : State :=
  match setOf? s n with
  | some x => putSet s n (f x)
  | none => s

/-- Whether any bank has BUSY set: an operation runs, waits for a permit or is queued (R303, Table 20-13). -/
def bankBusy (b : Bank) : Bool := b.run.isSome || b.queued.isSome

end Sys2Proof.Machine
end

