-- ==== Sys2Proof/Machine/Prot.lean ====
section
/-!
DEFINITION. The protection map (R409-R411), the owners of interleaved DRAM (R31) and the regions a command may name.
-/
namespace Sys2Proof.Machine

open Sys2Proof

/-- The four rights of Table 19-4, as bits of a nibble. -/
abbrev rightRead : Nat := 0
abbrev rightWrite : Nat := 1
abbrev rightCommand : Nat := 2
abbrev rightBerth : Nat := 3

/-- Whether the protection lock is set. -/
def locked (s : State) : Bool := fld s rHbProtLock 0 0 == 1

/-- The rights nibble of a port in a region (R409). -/
def regionRights (s : State) (p r : Nat) : Nat := bits (regW s (rHbProtPort (2 * p + r / 16))) (4 * (r % 16) + 3) (4 * (r % 16))

/-- Whether a valid region contains a 16 KiB unit. -/
def regionHolds (s : State) (r unit : Nat) : Bool :=
  fld s (rHbProtRgn r) 60 60 == 1 && decide (fld s (rHbProtRgn r) 29 0 ≤ unit ∧ unit ≤ fld s (rHbProtRgn r) 59 30)

/-- Whether a port holds a right at a 16 KiB unit: the union over the valid regions that contain it (R409). -/
def unitRight (s : State) (p need unit : Nat) : Bool :=
  (List.range 32).any fun r => regionHolds s r unit && bit (regionRights s p r) need

/-- Whether a port holds a right at every byte of [a, a+n) (R410); every right while the lock is clear (R411). -/
def hasRight (s : State) (p need a n : Nat) : Bool :=
  !locked s || n == 0 ||
    (List.range ((a % 16384 + n + 16383) / 16384)).all fun i => unitRight s p need (a / 16384 + i)

/-- A GiB. -/
def gib : Nat := 1073741824

/-- First address of the anchorage (Table 2-4). -/
def anchBase (s : State) : Nat := capacity s.part - fld s rLdAnch 6 0 * gib

/-- First address of the parameter-set arena (Table 2-4). -/
def arenaBase (s : State) : Nat := fld s rHbArena 10 0 * gib

/-- Whether [a, a+n) meets the anchorage; `a` is a home address. -/
def inAnchorage (s : State) (a n : Nat) : Bool := overlaps a n (anchBase s) (fld s rLdAnch 6 0 * gib)

/-- The resident sets' arena ranges meet [a, a+n) (R17, R431). -/
def inResidentArena (s : State) (a n : Nat) : Bool := s.sets.any fun e => overlaps a n e.2.base e.2.length

/-- The resident set whose range holds a home address, with the offset in it. -/
def arenaOf? (s : State) (a : Nat) : Option (Nat × Nat) :=
  match s.sets.find? (fun e => decide (e.2.base ≤ a ∧ a < e.2.base + e.2.length)) with
  | some e => some (e.1, a - e.2.base)
  | none => none

/-- Whether a range lies in host software's part of interleaved DRAM (Table 2-4). -/
def inHostDram (s : State) (a n : Nat) : Bool := decide (a + n ≤ min (arenaBase s) (capacity s.part))

/-- Whether a range lies in the software memory of one quay's SRAM window (R37). -/
def inQuaySoft (s : State) (a n : Nat) : Bool :=
  decide (qsramBase ≤ a ∧ (a - qsramBase) / 0x3000000 < quays s.part ∧ (a - qsramBase) % 0x3000000 + n ≤ 0x1000000)

/-- Whether a range lies in the harbour SRAM software pools (Table 2-6). -/
def inPools (a n : Nat) : Bool := decide (poolBase ≤ a ∧ a + n ≤ poolEnd)

/-- Whether a range lies in the beacons (Table 2-6). -/
def inBeacons (a n : Nat) : Bool := decide (beaconBase ≤ a ∧ a + n ≤ gateBase)

/-- Host software's part of interleaved DRAM, quay SRAM software memory or the software pools: the regions a command's
destination may lie in (R90, R271, R353). -/
def inSoftware (s : State) (a n : Nat) : Bool := inHostDram s a n || inQuaySoft s a n || inPools a n

end Sys2Proof.Machine
end

