-- ==== Sys2Proof/Machine/Cmd.lean ====
section
/-!
DEFINITION. Command packets (R66-R72, R428), completion with replies and releases (R80-R82), beacons and the waits on
them (R111-R119), and task tags (R128).
-/
namespace Sys2Proof.Machine

open Sys2Proof

/-! ### Statuses (Table 4-7) -/

abbrev stDONE : Nat := 0x00
abbrev stDONE_EMPTY : Nat := 0x01
abbrev stDONE_SKIPPED : Nat := 0x02
abbrev stFULL : Nat := 0x10
abbrev stBUSY : Nat := 0x11
abbrev stBAD_OPCODE : Nat := 0x20
abbrev stBAD_PARAM : Nat := 0x21
abbrev stBAD_DESCRIPTOR : Nat := 0x22
abbrev stSTALE_STEP_SIZE : Nat := 0x23
abbrev stDENIED : Nat := 0x30
abbrev stDATA_POISON : Nat := 0x40
abbrev stCHECK_FAIL : Nat := 0x41
abbrev stRECALLED : Nat := 0x42
abbrev stTIMEOUT : Nat := 0x50
abbrev stABORTED : Nat := 0x51
abbrev stINCOMPLETE_LANDING : Nat := 0x52
abbrev stEXPELLED : Nat := 0x60
abbrev stDISPUTED : Nat := 0x61

/-! ### Packet fields -/

/-- `n` bytes at an offset of the packet. -/
def CmdPkt.at (p : CmdPkt) (off n : Nat) : Nat := fieldAt p.bytes off n

def CmdPkt.opcode (p : CmdPkt) : Nat := p.at 0 2
def CmdPkt.len (p : CmdPkt) : Nat := p.at 4 1 % 32
def CmdPkt.wantsReply (p : CmdPkt) : Bool := bit (p.at 5 1) 0
def CmdPkt.wantsRelease (p : CmdPkt) : Bool := bit (p.at 5 1) 1
def CmdPkt.relAdd (p : CmdPkt) : Bool := bit (p.at 5 1) 2
def CmdPkt.ordered (p : CmdPkt) : Bool := bit (p.at 5 1) 3
def CmdPkt.task (p : CmdPkt) : Nat := p.at 6 2
def CmdPkt.token (p : CmdPkt) : Nat := p.at 8 8
def CmdPkt.beacon (p : CmdPkt) : Nat := p.at 16 2
def CmdPkt.value (p : CmdPkt) : Nat := p.at 24 8

/-- Whether a command's port holds a right at every byte of [a, a+n), by the lock in force at the command's start (R412):
before the lock every port holds every right, and after it the map does not change. -/
def CmdPkt.hasRight (p : CmdPkt) (s : State) (need a n : Nat) : Bool := p.unlocked || Machine.hasRight s p.port need a n

/-- Whether another port that a command names holds a right, by the same lock. -/
def CmdPkt.portRight (p : CmdPkt) (s : State) (port need a n : Nat) : Bool :=
  p.unlocked || Machine.hasRight s port need a n

/-- The release a packet orders at its completion (R82). -/
def CmdPkt.release? (p : CmdPkt) : Option Release :=
  if p.wantsRelease then some { add := p.relAdd, beacon := p.beacon, value := BitVec.ofNat 64 p.value } else none

/-- The opcodes of Table 4-6. -/
def opcodes : List Nat :=
  [0x0101, 0x0102, 0x0103, 0x0104, 0x0105, 0x0106, 0x0201, 0x0202, 0x0203, 0x0204, 0x0205, 0x0301, 0x0302, 0x0303,
   0x0304, 0x0305, 0x0401, 0x0402, 0x0403, 0x0501, 0x0502, 0x0503, 0x0601, 0x0602, 0x0701, 0x0702, 0x0703, 0x0704,
   0x0705, 0x0801, 0x0802, 0x0803, 0x0804, 0x0805, 0x0901, 0x0902, 0x0903, 0x0904, 0x0905, 0x0906, 0x0A01, 0x0A02,
   0x0B01, 0x0B02]

/-- Whether an opcode is decoded on the fast path (R77). -/
def fastOp (op : Nat) : Bool := op / 256 == 2 || op / 256 == 6 || op / 256 == 7

/-! ### Reserved bits (R428, Tables 4-1 and 4-2) -/

/-- A named field: eight-byte unit, high bit, low bit. -/
abbrev Named := Nat × Nat × Nat

/-- Mask of the named bits of one unit. -/
def unitMask (l : List Named) (u : Nat) : Nat :=
  l.foldl (fun m f => if f.1 = u then m ||| ((2 ^ (f.2.1 + 1 - f.2.2) - 1) <<< f.2.2) else m) 0

/-- The named bits of the header (Table 4-1). -/
def headerFields : List Named := [(0, 36, 0), (0, 43, 40), (0, 63, 48), (1, 63, 0), (2, 15, 0), (3, 63, 0)]

/-- A unit of the packet. -/
def CmdPkt.unit (p : CmdPkt) (u : Nat) : Nat := p.at (8 * u) 8

/-- Units of the packet before the trailer. -/
def CmdPkt.units (p : CmdPkt) : Nat := p.len * 32 - 1

/-- Whether a unit holds a non-zero bit outside a mask. -/
def strayBits (v mask : Nat) : Bool := v &&& mask != v

/-- The units that hold a non-zero reserved bit, the trailer's among them. -/
def reservedFaults (p : CmdPkt) (layout : List Named) : List (Bool × Nat) :=
  ((List.range p.units).filter fun u => strayBits (p.unit u) (unitMask (headerFields ++ layout) u)).map (fun u => (true, u)) ++
  [(strayBits (p.unit p.units) 0x1FFFFF, p.units)]

/-- The lowest unit at fault, if any fault holds (R80). -/
def firstFault : List (Bool × Nat) → Option Nat
  | [] => none
  | (b, u) :: t =>
    match firstFault t with
    | none => if b then some u else none
    | some v => if b then some (min u v) else some v

/-! ### Replies and releases -/

/-- The bytes of a reply record with its PHASE bit (Table 4-4). -/
def replyBytes (r : Reply) (phase : Bool) : List Byte :=
  leBytes 8 r.token.toNat ++ leBytes 2 r.seq ++ leBytes 1 r.win ++ leBytes 1 r.status ++ leBytes 2 r.opcode ++
  leBytes 2 (b2n phase + (r.field % 512) * 128) ++ leBytes 8 r.result.toNat ++ leBytes 6 r.tick ++ leBytes 2 0

/-- Unconsumed records of a window (R81). -/
def unconsumed (w : Window) : Nat := (w.prod + 131072 - w.cons % 131072) % 131072

/-- Whether a ring has no entry left (R81). -/
def ringFull (w : Window) : Bool := w.size != 0 && decide (2 ^ w.size ≤ unconsumed w)

/-- The home address of the ring entry that a window's next reply record takes (R81). -/
def ringEntry (s : State) (w : Window) : Nat := homeAddr s.part (w.base + (w.prod % 2 ^ w.size) * 32)

/-- Whether a reply record must wait: its ring is full (R81), or its entry lies on a sleeping quay (R388) or in the declared
write region of a berth operation (R316). -/
def ringWaits (s : State) (w : Window) : Bool :=
  ringFull w || (w.size != 0 && (regionHeld s (ringEntry s w) 32 ||
    (match quayOf s.part (ringEntry s w) with | some q => (asleep s).contains q | none => false)))

/-- A reply record that waits wakes the quay of its entry (R388). -/
def ringWake (s : State) (w : Window) : State :=
  if w.size = 0 then s else { startWake s (ringEntry s w) with pow := { (startWake s (ringEntry s w)).pow with reached := s.pow.reached } }

/-- Writes a reply record at its ring entry and counts it; with SIZE 0 it is only counted (R80, R81). -/
def writeReply (s : State) (r : Reply) : State :=
  let w := winOf s r.win
  let s1 := setWin s r.win { w with prod := (w.prod + 1) % 131072 }
  if w.size = 0 then s1
  else
    storeGrain s1 (ringEntry s w)
      (bytesGrain (replyBytes r ((w.prod >>> w.size) % 2 == 0)))

/-- The address of a beacon (Table 2-6). -/
def beaconAddr (k : Nat) : Nat := beaconBase + k * 8

/-- Whether a task names an object for the first time (R128). -/
def tagsFresh (s : State) (task : Nat) (isGate : Bool) (num : Nat) : Bool :=
  task != 0 && !s.sync.tags.any (fun t => t.isGate == isGate && t.num == num)

/-- Adds the tag of a task. -/
def addTag (s : State) (task : Nat) (isGate : Bool) (num value : Nat) : State :=
  { s with sync := { s.sync with
    tags := s.sync.tags ++ [{ isGate := isGate, num := num, task := task, value := BitVec.ofNat 64 value }] } }

/-- A tag that a task sets on a gate the first time it names it (R128). -/
def tagObject (s : State) (task : Nat) (isGate : Bool) (num value : Nat) : State :=
  if tagsFresh s task isGate num then addTag s task isGate num value else s

/-- A tag that a task sets on a beacon the first time it names it, with the value it reads there (R128). -/
def tagBeacon (s : State) (task k : Nat) : State :=
  if tagsFresh s task false k then (let r := read64 s (beaconAddr k); addTag r.1 task false k r.2) else s

/-- Pulses the outbound attention line tied to a beacon (R117, R119). DESIGN CHOICE: DIE_EN bits 2 and 3 act on Z8 too, though its
bonds have no die there (log entry 114; unsafe). -/
def attnPulse (s : State) (k v : Nat) : State :=
  if fld s rHbSigCfg 0 0 = 1 ∧ v ≠ 0 then
    let base := fld s rHbSigCfg 31 16
    if base ≤ k ∧ k < base + 256 ∧ 32 ≤ (k - base) % 64 ∧ bit (fld s rHbSigCfg 7 4) ((k - base) / 64) then
      emit s (.attn ((k - base) / 64) ((k - base) % 64 - 32))
    else s
  else s

/-- Whether a value meets a wait's condition (R113). -/
def condMet (cond x v : Nat) : Bool :=
  match cond with
  | 0 => x == v
  | 1 => decide (v ≤ x)
  | _ => x != v

/-- The started command of a context. -/
def cmdOf? (s : State) (cx : Nat) : Option Running := tget? s.cmd.running cx

/-- Replaces a started command. -/
def putCmd (s : State) (cx : Nat) (r : Running) : State :=
  { s with cmd := { s.cmd with running := tset s.cmd.running cx r } }

/-- What a change brings about: a completion, or a new value of a beacon. -/
inductive Todo where
  | fin (cx status field result : Nat)
  | changed (k v : Nat)
  deriving DecidableEq, Repr

/-- Stores to or adds to one beacon, leaving the others of its grain; nothing happens to a bad grain (R112, R49). DESIGN CHOICE:
the command's task names the beacon when the release takes effect, not when the command starts (R128; log entry 114;
unsafe). -/
def releaseBeacon (s : State) (task : Nat) (r : Release) : State × List Todo :=
  let s1 := tagBeacon s task r.beacon
  let f := fun old => if r.add then (old + r.value.toNat) % 18446744073709551616 else r.value.toNat
  match atomicWord s1 (beaconAddr r.beacon) f with
  | (s2, some old) => (s2, [.changed r.beacon (f old)])
  | (s2, none) => (s2, [])

def releaseOpt (s : State) (task : Nat) : Option Release → State × List Todo
  | some r => releaseBeacon s task r
  | none => (s, [])

/-- A reply record and then its release; held while the record must wait or earlier replies wait (R81, R82). -/
def postReply (s : State) (r : Reply) : State × List Todo :=
  if !r.post then releaseOpt s r.task r.release
  else
    let w := winOf s r.win
    if ringWaits s w || !w.held.isEmpty then (setWin (ringWake s w) r.win { w with held := w.held ++ [r] }, [])
    else releaseOpt (writeReply s r) r.task r.release

/-- Ends a started command with a status (R80, R82). -/
def finishOne (s : State) (cx status field result : Nat) : State × List Todo :=
  match cmdOf? s cx with
  | none => (s, [])
  | some run =>
    let p := run.pkt
    let s1 := { s with cmd := { s.cmd with running := terase s.cmd.running cx } }
    postReply s1
      { token := BitVec.ofNat 64 p.token, seq := p.seq, win := p.win, status := status, opcode := p.opcode, field := field,
        result := BitVec.ofNat 64 result, tick := now s, post := p.wantsReply || decide (0x10 ≤ status),
        release := p.release?, task := p.task }

/-- The BEACON_WAITs that a value of a beacon ends, with their results (R113, R114): one whose ticks have passed ends with the
value before it, which was the beacon's at its expiry. -/
def metWaits (s : State) (k v : Nat) : List Todo :=
  s.cmd.running.filterMap fun e =>
    match e.2.phase with
    | .waitBeacon b c x forever t t0 last =>
      if b ≠ k then none
      else if !forever && expired s t0 t then some (.fin e.1 stTIMEOUT 0 last)
      else if condMet c v x.toNat then some (.fin e.1 stDONE 0 v) else none
    | _ => none

/-- The waits on a beacon keep its latest value. -/
def keepLast (s : State) (k v : Nat) : State :=
  { s with cmd := { s.cmd with running := s.cmd.running.map fun e =>
      match e.2.phase with
      | .waitBeacon b c x forever t t0 _ =>
        if b = k then (e.1, { e.2 with phase := .waitBeacon b c x forever t t0 v }) else e
      | _ => e } }

/-- Works through what a change brings about, in order: what one effect brings about in turn comes after the effects that
were already due, so each wait meets the first value that satisfies it (R113). `n` bounds the number of effects. -/
def runTodo : Nat → State → List Todo → State
  | 0, s, _ => s
  | _ + 1, s, [] => s
  | n + 1, s, .fin cx st f r :: t =>
    let x := finishOne s cx st f r
    runTodo n x.1 (t ++ x.2)
  | n + 1, s, .changed k v :: t =>
    let s1 := attnPulse s k v
    runTodo n (keepLast s1 k v) (metWaits s1 k v ++ t)

/-- A bound on the effects: each completion ends one started command and changes at most one beacon. -/
def todoFuel (s : State) (l : List Todo) : Nat := (s.cmd.running.length + l.length + 2) * (s.cmd.running.length + 3)

/-- Works through a list of effects. -/
def settleTodo (s : State) (l : List Todo) : State := runTodo (todoFuel s l) s l

/-- Completes a started command. -/
def complete (s : State) (cx status result : Nat) : State := settleTodo s [.fin cx status 0 result]

/-- Completes a started command with the field at fault. -/
def completeBad (s : State) (cx status field : Nat) : State := settleTodo s [.fin cx status field 0]

/-- One atomic of an engine or host on a beacon, with the waits it meets (R112, R113). -/
def beaconAtomic (s : State) (k : Nat) (f : Nat → Nat) : State × Option Nat :=
  match atomicWord s (beaconAddr k) f with
  | (s1, some old) => (settleTodo s1 [.changed k (f old)], some old)
  | (s1, none) => (s1, none)

/-- The BEACON_WAITs on the four beacons of a grain that has become unreadable (R114). -/
def poisonedWaits (s : State) (k0 : Nat) : List Todo :=
  s.cmd.running.filterMap fun e =>
    match e.2.phase with
    | .waitBeacon b _ _ forever t t0 last =>
      if b < k0 ∨ k0 + 4 ≤ b then none
      else if !forever && expired s t0 t then some (.fin e.1 stTIMEOUT 0 last)
      else some (.fin e.1 stDATA_POISON 0 0)
    | _ => none

/-- What a write of one beacon grain brings about: each new value is tested (R111, R113, R114). -/
def beaconGrain (s : State) (a : Nat) : List Todo :=
  let k0 := (a - beaconBase) / 8
  match decodedGrain s a with
  | some g => (List.range 4).map fun i => .changed (k0 + i) (bits g.toNat (64 * i + 63) (64 * i))
  | none => poisonedWaits s k0

/-- What a write of whole grains brings about at the beacons it covers. -/
def beaconsWritten (s : State) (a : Nat) (n : Nat) : State :=
  let lo := max a beaconBase
  let hi := min (a + n) gateBase
  if lo < hi then settleTodo s ((grainsOf lo (hi - lo)).flatMap (beaconGrain s)) else s

/-! ### Launch (R69-R72) -/

/-- Address of slot k of a window (R66). -/
def slotAddr (w k : Nat) : Nat := hsramBase + w * 0x4000 + (k % 64) * 0x100

/-- The grains of L slots from a head (R67). -/
def slotGrains (w head L : Nat) : List Nat := (List.range L).flatMap fun i => grainsOf (slotAddr w (head + i)) 256

/-- Pending slots of a window. -/
def pendSlots (w : Window) : Nat := w.pend.foldl (fun n p => n + p.len) 0

/-- The answer to a packet that a full pending store refuses (R72): a reply with FULL and no release. -/
def fullReply (s : State) (w : Nat) (p : CmdPkt) : State :=
  let x := winOf s w
  let s1 := setWin s w { x with fulls := satAdd x.fulls 1 255 }
  (postReply s1
    { token := BitVec.ofNat 64 p.token, seq := p.seq, win := w, status := stFULL, opcode := p.opcode, field := 0, result := 0,
      tick := now s, post := true, release := none, task := 0 }).1

/-- Whether header and trailer at the HEAD of a window launch a packet of `L` slots (R69); a header or trailer that cannot be
read launches none (DESIGN CHOICE, log entry 113). -/
def launches (x : Window) (last : List Nat) (L : Nat) (h t : GrainRead) : Bool :=
  let hb := grainBytes h.word.data
  let tb := (grainBytes t.word.data).drop 24
  !h.bad && !t.bad && decide (1 ≤ L ∧ L ≤ 16) && last.contains ((x.head + L - 1) % 64) && fieldAt tb 0 2 == x.seq &&
  fieldAt tb 2 1 % 32 == L && fieldAt hb 2 2 == x.seq

/-- A packet launches (R70): its slots are copied, or refused where the pending store is full (R72). A grain that cannot be read
marks the copy. -/
def launch (s : State) (w port L : Nat) : State × Bool :=
  let x := winOf s w
  let r := readGrains s (slotGrains w x.head L)
  let p : CmdPkt := { win := w, port := port, seq := x.seq, stamp := s.cmd.launches, unlocked := false, bad := r.2.any (·.bad),
                      bytes := r.2.flatMap fun g => grainBytes g.word.data }
  if 64 < pendSlots x + L then (fullReply r.1 w p, false)
  else
    (setWin { r.1 with cmd := { r.1.cmd with launches := r.1.cmd.launches + 1 } } w
      { x with head := (x.head + L) % 64, seq := (x.seq + 1) % 65536, pend := x.pend ++ [p] }, true)

/-- Examines a window against one write, whose slots with their last grain written are `last`; `n` bounds the launches. The
grains of header and trailer are decoded as any read is (R326). -/
def examine : Nat → State → Nat → Nat → List Nat → State
  | 0, s, _, _, _ => s
  | n + 1, s, w, port, last =>
    let x := winOf s w
    if !x.enable || last.isEmpty then s
    else
      let h := readGrain s (slotAddr w x.head)
      let L := fieldAt (grainBytes h.2.word.data) 4 1 % 32
      let t := readGrain h.1 (slotAddr w (x.head + L - 1) + 224)
      if launches x last L h.2 t.2 then
        let r := launch t.1 w port L
        if r.2 then examine n r.1 w port last else r.1
      else t.1

/-- The slots of window w whose last grain lies in [a, a+n). -/
def lastGrains (w a n : Nat) : List Nat :=
  (List.range 64).filter fun k => decide (a ≤ slotAddr w k + 224 ∧ slotAddr w k + 256 ≤ a + n)

/-- A write of whole grains is examined at each command window it covers (R69). -/
def windowsWritten (s : State) (port a n : Nat) : State :=
  if hsramBase ≤ a ∧ a < beaconBase ∧ 0 < n then
    let w0 := (a - hsramBase) / 0x4000
    let w1 := (min (a + n) beaconBase - 1 - hsramBase) / 0x4000
    (upFrom w0 (w1 + 1 - w0)).foldl (fun s' w => examine 65 s' w port (lastGrains w a n)) s
  else s

/-! ### The checks of a started command (R76) -/

/-- What the checks find: a status with its field, or nothing. -/
def checkFail (p : CmdPkt) (layout : List Named) (params descr : List (Bool × Nat)) (denied : Bool) : Option (Nat × Nat) :=
  match firstFault (reservedFaults p layout ++ params) with
  | some u => some (stBAD_PARAM, u)
  | none =>
    match firstFault descr with
    | some u => some (stBAD_DESCRIPTOR, u)
    | none => if denied then some (stDENIED, 0) else none

/-- Firmware commands whose work has begun (R78). -/
def hmActive (s : State) : Nat := (s.cmd.running.filter fun e => !e.2.fast && e.2.phase != .started).length

/-- Firmware commands taken (R78). -/
def hmTaken (s : State) : Nat := (s.cmd.running.filter fun e => !e.2.fast).length

/-- Whether the harbourmaster takes and runs commands (R77-R79, R374, R415). -/
def hmRuns (s : State) : Bool := clocksRun s && fld s rHbHmStat 0 0 == 1 && fld s rHbHmStat 2 2 == 0 && !s.boot.halted

/-- The started command that a row acts on: its opcode is the row's and its own turn has come. Firmware commands wait for
the harbourmaster (R78, R404) and for one of its 16 places. -/
def turnOf (s : State) (cx op : Nat) : Option Running :=
  match cmdOf? s cx with
  | none => none
  | some r =>
    if r.pkt.opcode = op ∧ r.phase = .started ∧ r.pkt.bad = false ∧ (r.fast ∨ (hmRuns s ∧ hmActive s < 16)) then some r
    else none

/-- The status of a command that has no row of its own to act on it: its opcode does not exist (R83), or a grain of its slots
could not be read (DESIGN CHOICE, log entry 113). -/
def CmdPkt.status? (p : CmdPkt) : Option Nat :=
  if !opcodes.contains p.opcode then some stBAD_OPCODE else if p.bad then some stDATA_POISON else none

/-- Firmware commands that the harbourmaster has taken and that end without a row complete once it runs (R76, R78). -/
def answerBadOps (s : State) : State :=
  if hmRuns s then
    settleTodo s ((s.cmd.running.filter fun e => !e.2.fast && e.2.phase == .started).filterMap fun e =>
      e.2.pkt.status?.map fun st => .fin e.1 st 0 0)
  else s

/-- Whether a harbourmaster that HALTED answers a command with ABORTED (R79). -/
def hmHalted (s : State) : Bool := fld s rHbHmStat 2 2 == 1

end Sys2Proof.Machine
end

