-- ==== Sys2Proof/Machine/Detect.lean ====
section
/-!
DEFINITION. Check fractions and escalation (R334, R339), detection records, and the retirement of units (R346-R348).
-/
namespace Sys2Proof.Machine

open Sys2Proof

/-- The threshold of a check fraction code (Table 16-4). -/
def fracThreshold (code : Nat) : Nat :=
  match code with
  | 0 => 0
  | 1 => 256
  | 2 => 1024
  | 3 => 2048
  | 4 => 8192
  | _ => 32768

/-- Spare crane lanes of a quay (Table 0-1). -/
def craneSpares : Part → Nat
  | .z16 => 16
  | .z8 => 8

/-- The quay of a unit. -/
def UnitId.quay : UnitId → Nat
  | .lane q _ => q
  | .berth b => b / 1024
  | .linkLane q _ => q

def UnitId.isBerth : UnitId → Bool
  | .berth _ => true
  | _ => false

/-- Retired crane lanes of a quay. -/
def retiredLanes (s : State) (q : Nat) : Nat :=
  (s.integ.retired.filter fun u => match u with | .lane q' _ => q' == q | _ => false).length

/-- Retired berth units of a quay. -/
def retiredBerths (s : State) (q : Nat) : Nat :=
  (s.integ.retired.filter fun u => match u with | .berth b => b / 1024 == q | _ => false).length

/-- Spare lanes of a quay link in each direction (Table 16-17). -/
def linkSpares : Nat := 16

/-- Retired lanes of a quay link in one direction; a lane's number is even or odd by its direction (log entry 107). -/
def retiredLinks (s : State) (q d : Nat) : Nat :=
  (s.integ.retired.filter fun u => match u with | .linkLane q' l => q' == q && l % 2 == d | _ => false).length

/-- Spare quay-link lanes left per direction: of the direction that has fewer. -/
def linkSparesLeft (s : State) (q : Nat) : Nat := linkSpares - max (retiredLinks s q 0) (retiredLinks s q 1)

/-- Spare crane lanes left on a quay. -/
def sparesLeft (s : State) (q : Nat) : Nat := craneSpares s.part - retiredLanes s q

/-- Whether a berth unit is retired (R348). -/
def unitRetired (s : State) (b : Nat) : Bool := decide (UnitId.berth b ∈ s.integ.retired)

/-- The recorded total of a unit. -/
def unitTotal (s : State) (u : UnitId) : Nat :=
  match s.integ.totals.find? (fun e => e.1 == u) with
  | some e => e.2
  | none => 0

/-- Adds one detection to the total of a unit, saturating. -/
def addTotal (l : List (UnitId × Nat)) (u : UnitId) : List (UnitId × Nat) :=
  match l with
  | [] => [(u, 1)]
  | (v, n) :: t => if v = u then (v, satAdd n 1 65535) :: t else (v, n) :: addTotal t u

/-- The count that a window of retirement runs in: commits for crane lanes, operations for berth units (R347). -/
def unitClock (s : State) (u : UnitId) : Nat :=
  match u with
  | .berth b => tget s.integ.berthOps b 0
  | _ => s.integ.commits

/-- A unit's detections within the window that count as different (R347): those of residue and duplicate checks by their
operand hashes, those of field tests one by one, since each round counts as different operands (R344). -/
def windowCount (s : State) (u : UnitId) : Nat :=
  let l := s.integ.detections.filter fun d => d.unit == u &&
    decide (unitClock s u - d.count < fld s rInRetireCfg 31 8 * 1000)
  ((l.filter fun d => decide (d.kind < 2)).map (·.hash)).eraseDups.length + (l.filter fun d => decide (2 ≤ d.kind)).length

/-- Retires a unit judged permanent; a crane without spare lanes raises ALERT (R347, R348). -/
def judge (s : State) (u : UnitId) : State :=
  if fld s rInRetireCfg 0 0 = 1 ∧ fld s rInRetireCfg 7 4 ≤ windowCount s u ∧ u ∉ s.integ.retired then
    let s1 := { s with integ := { s.integ with retired := s.integ.retired ++ [u] } }
    match u with
    | .lane q _ => if sparesLeft s q = 0 then raiseAlert s1 4 else s1
    | .berth b =>
      let k := bankOf s1 b
      setBank s1 b { k with compute := false }
    | .linkLane _ _ => s1
  else s

/-- Link training retires a lane that fails it; a link without a spare lane in its direction raises ALERT (R347, R348). -/
def retireLink (s : State) (q l : Nat) : State :=
  if UnitId.linkLane q l ∈ s.integ.retired then s
  else
    let s1 := { s with integ := { s.integ with retired := s.integ.retired ++ [.linkLane q l] } }
    if linkSpares ≤ retiredLinks s q (l % 2) then raiseAlert s1 4 else s1

/-- Starts or restarts the escalation after a detection (R339). -/
def escalate (s : State) (u : UnitId) : State :=
  if fld s rInCheckCfg 8 8 = 1 then
    if u.isBerth then
      { s with integ := { s.integ with
          escBerth := tput s.integ.escBerth u.quay (fld s rInCheckCfg 39 24 * 1024) 0 } }
    else { s with integ := { s.integ with escWalks := fld s rInCheckCfg 23 16 } }
  else s

/-- Charges a detection to a unit: the logbook's ring and totals, and retirement (R346, R347). -/
def charge (s : State) (u : UnitId) (kind : Nat) (hash : BitVec 32) : State :=
  let d : Detection :=
    { unit := u, kind := kind, count := unitClock s u, hash := hash, tick := now s, wraps := s.boot.wraps }
  let l := s.integ.detections ++ [d]
  let s1 := { s with integ := { s.integ with detections := l.drop (l.length - 8192), totals := addTotal s.integ.totals u } }
  judge (bumpMirror s1 (rInUnitStat u.quay) 63 48 1) u

/-- Charges a detection found while units work, which also escalates (R339). -/
def detect (s : State) (u : UnitId) (kind : Nat) (hash : BitVec 32) : State := escalate (charge s u kind hash) u

/-- The threshold for the next walk, with its escalation counted down (R339). -/
def walkThreshold (s : State) : State × Nat :=
  if s.integ.escWalks = 0 then (s, fracThreshold (fld s rInCheckCfg 2 0))
  else ({ s with integ := { s.integ with escWalks := s.integ.escWalks - 1 } }, 32768)

/-- The threshold for a quay's next berth operation. -/
def berthThreshold (s : State) (q : Nat) : State × Nat :=
  let n := tget s.integ.escBerth q 0
  if n = 0 then (s, fracThreshold (fld s rInCheckCfg 6 4))
  else ({ s with integ := { s.integ with escBerth := tput s.integ.escBerth q (n - 1) 0 } }, 32768)

/-- The check seed in force (R349). -/
def checkSeed (s : State) : BitVec 128 := BitVec.ofNat 128 (regW s rInKwCseed0 + regW s rInKwCseed1 * 18446744073709551616)

end Sys2Proof.Machine
end

