-- ==== Sys2Proof/Machine/Fabric.lean ====
section
/-!
DEFINITION. Roadstead packets: the header (Table 9-1), its CRC-32 (R168), what leaves on the landing ports and what comes
back by loopback (R434), and the counts of acknowledgement sources (R171, R172).
-/
namespace Sys2Proof.Machine

open Sys2Proof

/-! ### Header bits (Table 9-1) -/

/-- The fields of a 256-bit header. -/
def PktHdr.ofBits (h : BitVec 256) : PktHdr :=
  let v := h.toNat
  { ver := bits v 3 0, type := bits v 7 4, dest := bits v 25 8, orig := bits v 43 26, bcast := bit v 44, rel := bit v 45,
    final := bit v 46, red := bit v 47, manValid := bit v 48, manifest := bits v 62 49, gen := bits v 78 63,
    source := bits v 102 79, target := bits v 146 103, len := bits v 154 147, fmt := bits v 158 155,
    cnt := bits v 182 159, anygen := bit v 183, reserved := bits v 191 184, arg := bits v 223 192 }

/-- Header bits [223:0] of the fields. -/
def PktHdr.lowBits (h : PktHdr) : Nat :=
  h.ver + h.type * 2 ^ 4 + h.dest * 2 ^ 8 + h.orig * 2 ^ 26 + b2n h.bcast * 2 ^ 44 + b2n h.rel * 2 ^ 45 +
  b2n h.final * 2 ^ 46 + b2n h.red * 2 ^ 47 + b2n h.manValid * 2 ^ 48 + h.manifest * 2 ^ 49 + h.gen * 2 ^ 63 +
  h.source * 2 ^ 79 + h.target * 2 ^ 103 + h.len * 2 ^ 147 + h.fmt * 2 ^ 155 + h.cnt * 2 ^ 159 + b2n h.anygen * 2 ^ 183 +
  h.reserved * 2 ^ 184 + h.arg * 2 ^ 192

/-- Eight steps of the reflected CRC-32 register. -/
def crc32Shift : Nat → BitVec 32 → BitVec 32
  | 0, r => r
  | n + 1, r => crc32Shift n (if r.getLsbD 0 then (r >>> 1) ^^^ 0xEDB88320#32 else r >>> 1)

/-- CRC-32 of IEEE 802.3 (R168). -/
def crc32 (bs : List Byte) : BitVec 32 :=
  (bs.foldl (fun r b => crc32Shift 8 (r ^^^ b.zeroExtend 32)) 0xFFFFFFFF#32) ^^^ 0xFFFFFFFF#32

/-- HCRC of header bits [223:0]. -/
def hcrcOf (low : Nat) : Nat := (crc32 (leBytes 28 low)).toNat

/-- The 256 bits of a header; version 3 carries HCRC (R168). -/
def PktHdr.toBits (h : PktHdr) : BitVec 256 :=
  BitVec.ofNat 256 (h.lowBits + (if h.ver = 3 then hcrcOf h.lowBits else 0) * 2 ^ 224)

/-- Packet types (Table 9-2). -/
abbrev tyWRITE : Nat := 0
abbrev tyTOKEN : Nat := 1
abbrev tyCONTRIB : Nat := 2
abbrev tyACK : Nat := 3
abbrev tyGATE : Nat := 4
abbrev tyPILOT : Nat := 5
abbrev tyNORM : Nat := 6
abbrev tyREFUSE : Nat := 8

/-- Acknowledgement statuses (Table 9-4). -/
abbrev akOK : Nat := 0
abbrev akUNMAPPED : Nat := 1
abbrev akPROTECTED : Nat := 2
abbrev akLATE : Nat := 3
abbrev akEXPIRED : Nat := 4
abbrev akOUTSIDE : Nat := 5
abbrev akMALFORMED : Nat := 6

/-- Why the landing engine discards a packet, by its header and source (R169). `hcrc` is header bits [255:224]; loopback
packets carry none. -/
def badPacket (s : State) (h : PktHdr) (hcrc : Nat) (loopback : Bool) : Bool :=
  (h.ver != 2 && h.ver != 3) ||
  (h.ver == 3 && !loopback && hcrc != hcrcOf h.lowBits) ||
  !(h.type ∈ [0, 1, 2, 3, 4, 5, 6, 8]) || (h.type == tyREFUSE && h.ver == 2) ||
  decide (128 < h.len) ||
  (h.ver == 2 && (h.red || h.cnt != 0 || (!loopback && hcrc != 0))) || h.reserved != 0 ||
  ((h.type == tyCONTRIB || h.type == tyREFUSE) && bits h.target 43 39 != 0) ||
  ((h.type == tyGATE || h.type == tyPILOT) && h.len != 1) || (h.type == tyNORM && h.len != 65) ||
  ((h.type == tyACK || h.type == tyREFUSE) && h.len != 0) ||
  (!h.bcast && h.dest != selfNum s)

/-- CNT as the landing engine reads it: 1 in version 2 (R168). -/
def PktHdr.count (h : PktHdr) : Nat := if h.ver = 2 then 1 else h.cnt

/-- A packet discarded without effect (R169). -/
def countBadPkt (s : State) : State := bumpMirror s rLdStat 15 0 1

/-! ### Sending -/

/-- The header of a packet that this harbour sends: version by LD_CFG.TX_V3 (R165); a CONTRIB packet carries one
contribution. -/
def newHdr (s : State) (type dest : Nat) : PktHdr :=
  let v3 := fld s rLdCfg 0 0 = 1
  { ver := if v3 then 3 else 2, type := type, dest := dest, orig := selfNum s, bcast := false, rel := false,
    final := false, red := false, manValid := false, manifest := 0, gen := 0, source := 0, target := 0, len := 0, fmt := 0,
    cnt := if v3 ∧ type = tyCONTRIB then 1 else 0, anygen := false, arg := 0, reserved := 0 }

/-- A packet leaves on a landing port, or joins the loopback when it is for this harbour (R434). The one `fabric` entry
of a broadcast stands for its copies to the other harbours, of which a roadstead of one has none; the issuing harbour's
own copy is looped back. -/
def sendPacket (s : State) (p : Packet) : State :=
  if p.hdr.bcast then
    { (if 1 < countNum s then emit s (.fabric p) else s) with land := { s.land with loop := s.land.loop ++ [p] } }
  else if p.hdr.dest = selfNum s then { s with land := { s.land with loop := s.land.loop ++ [p] } }
  else emit s (.fabric p)

/-! ### Sources (R172) -/

/-- The source number with bit 22 clear, which names the pair of counts. -/
def srcKey (source : Nat) : Nat := if bit source 22 then source - 4194304 else source

def sourceOf (s : State) (key : Nat) : Source := tget s.land.sources key Source.zero

def setSource (s : State) (key : Nat) (x : Source) : State :=
  { s with land := { s.land with sources := tput s.land.sources key x Source.zero } }

/-- Counts `n` packets sent by a source (R172). -/
def countSent (s : State) (source n : Nat) : State :=
  let x := sourceOf s (srcKey source)
  if bit source 22 then
    setSource s (srcKey source) { x with final := x.final + n, tFinal := if x.final = 0 then now s else x.tFinal }
  else
    setSource s (srcKey source) { x with plain := x.plain + n, tPlain := if x.plain = 0 then now s else x.tPlain }

/-- An ACK of `n` packets acts on a source (R172). -/
def countAck (s : State) (source n : Nat) (refused : Bool) : State :=
  let x := sourceOf s (srcKey source)
  let c := if bit source 22 then x.final else x.plain
  let c' := c - n
  let x1 := { x with flag := x.flag || refused }
  let x2 := if bit source 22 then { x1 with final := c', tFinal := now s } else { x1 with plain := c', tPlain := now s }
  let s1 := setSource s (srcKey source) x2
  if c < n ∨ c = 0 then countBadPkt s1 else s1

/-- SOURCE of a host queue (R172). -/
def queueSource (port queue : Nat) (final : Bool) : Nat := port * 64 + queue + (if final then 4194304 else 0)

/-- SOURCE of a running command: bit 23 and its context (R172). Contexts from 65,216 on are kept for the digest writes of a
set and for the subscriptions (log entry 16). -/
def cmdSource (cx : Nat) : Nat := 8388608 + cx % 65216

/-- SOURCE of the digest writes of set n (R364). -/
def digestSource (n : Nat) : Nat := 8388608 + 65216 + n

/-- SOURCE of subscription k (R273). -/
def subSource (k : Nat) : Nat := 8388608 + 65280 + k

/-- Sends a bulk packet and counts it at its source: a broadcast counts HB_ROADSTEAD.COUNT (R172). -/
def sendCounted (s : State) (p : Packet) : State :=
  sendPacket (countSent s p.hdr.source (if p.hdr.bcast then countNum s else 1)) p

/-- Both counts of a source are zero (R172). -/
def srcQuiet (s : State) (key : Nat) : Bool := let x := sourceOf s key; x.plain == 0 && x.final == 0

/-- The ACK of one packet (R171). -/
def sendAck (s : State) (h : PktHdr) (status : Nat) : State :=
  sendPacket s { hdr := { newHdr s tyACK h.orig with source := h.source, arg := status + 256 }, payload := [] }

/-- A refusal: counted as its status asks, then acknowledged (R171, Table 9-10). -/
def refusePkt (s : State) (h : PktHdr) (status : Nat) : State :=
  let s1 := if status = akLATE ∨ status = akEXPIRED ∨ status = akOUTSIDE then bump s rLdStat 31 16 1 else s
  sendAck s1 h status

/-! ### Packets that arrive -/

/-- Whether the landing ports carry packets (R9, R375, R390). -/
def landUp (s : State) : Bool := !s.land.stopped && s.pow.harbour == .active

/-- A packet that arrives while the harbour moors is held, and served after the wake (R390). -/
def keepLate (s : State) (src : LandSrc) (hdr : BitVec 256) (payload : List Codeword) : State :=
  match s.pow.harbour, src with
  | .mooring _, .port n =>
    if s.land.stopped ∨ 8 ≤ n then s else { s with land := { s.land with late := s.land.late ++ [(src, hdr, payload)] } }
  | _, _ => s

/-- A received grain as the landing engine decodes it (R327); none where it is poisoned or uncorrectable. -/
def wordData (c : Codeword) : Option Grain :=
  match classify false (deltaOf c) with
  | .clean => some c.data
  | .corrected m => some (c.data ^^^ m)
  | _ => none

/-- The decoded bytes of a payload; a bad grain reads as none. -/
def payloadGrain (p : Packet) (i : Nat) : Option Grain :=
  match p.payload[i]? with
  | some c => wordData c
  | none => some 0

/-- Whether a field of payload grain `i` is non-zero, where the grain can be read. -/
def strayField (p : Packet) (i hi lo : Nat) : Bool :=
  match payloadGrain p i with
  | some g => bits g.toNat hi lo != 0
  | none => false

/-- Whether a payload holds a non-zero reserved field (R169): bits [15:12] of an entry of a top-k contribution (Table 9-3),
bytes 24-31 of a token's header grain (Table 10-3), or the reserved bits of a pilot message (Table 3-7). -/
def badPayload (p : Packet) : Bool :=
  match p.hdr.type with
  | 1 => strayField p 0 255 192
  | 2 => p.hdr.fmt == 2 && (List.range (min (p.hdr.arg % 4096) (8 * p.payload.length))).any fun i =>
      strayField p (i / 8) (32 * (i % 8) + 15) (32 * (i % 8) + 12)
  | 5 => strayField p 0 15 8 || strayField p 0 31 26 || strayField p 0 63 48
  | _ => false

/-- A packet of one type reaches the landing engine from a landing port or by loopback, is checked under R169, and is
handled by `f`. `want` says whether the packet is the row's own; another packet is another row's. -/
def withPacket (s : State) (src : LandSrc) (hdr : BitVec 256) (payload : List Codeword) (want : Packet → Bool)
    (f : State → Packet → State) : State :=
  let p0 : Packet := { hdr := PktHdr.ofBits hdr, payload := payload }
  if !landUp s then
    (if want p0 || badPacket s p0.hdr (hdr.toNat / 2 ^ 224) false || badPayload p0 then keepLate s src hdr payload else s)
  else
    let s := rouse s 0x30
    match src with
    | .port n =>
      if 8 ≤ n then s
      else if badPacket s p0.hdr (hdr.toNat / 2 ^ 224) false || badPayload p0 then countBadPkt s
      else if want p0 then f s p0 else s
    | .loop i =>
      match s.land.loop[i]? with
      | none => s
      | some p =>
        if !want p then s
        else
          let s1 := { s with land := { s.land with loop := s.land.loop.eraseIdx i } }
          if badPacket s1 p.hdr 0 true || badPayload p then countBadPkt s1 else f s1 p

/-- A packet of one type. -/
def ofType (type : Nat) (p : Packet) : Bool := p.hdr.type == type

/-! ### Pilot messages (Table 3-7) -/

/-- The 128 bits of a pilot message. -/
def pilotBits (kind gate code : Nat) (arg : Word) : BitVec 128 :=
  BitVec.ofNat 128 (kind + gate * 65536 + code * 4294967296 + arg.toNat * 18446744073709551616)

/-- A pilot message of a harbour engine to a host port, addressed to an engine (R64). -/
def pilotPort (s : State) (port engine : Nat) (m : BitVec 128) : State :=
  if port < ports s.part then sendPort s port .pilot (.pilot engine m) else s

end Sys2Proof.Machine
end

