-- ==== Sys2Proof/Machine/Sync.lean ====
section
/-!
DEFINITION. Gates: members, arrivals, early arrivals, release and abort (R120-R127, R435), and the records they show.
-/
namespace Sys2Proof.Machine

open Sys2Proof

/-- Kinds and fields of a member descriptor (Table 6-6). -/
def mKind (d : Word) : Nat := bits d.toNat 1 0
def mEngine (d : Word) : Nat := bits d.toNat 9 2
def mPort (d : Word) : Nat := bits d.toNat 8 2
def mHostEngine (d : Word) : Nat := bits d.toNat 16 9
def mLine (d : Word) : Nat := bits d.toNat 21 17
def mLineEn (d : Word) : Bool := bit d.toNat 22
def mHarbour (d : Word) : Nat := bits d.toNat 19 2
def mGate (d : Word) : Nat := bits d.toNat 29 20

/-- A gate is in progress while its STATE is 1 or 2 (R120). -/
def Gate.inProgress (g : Gate) : Bool := g.state == 1 || g.state == 2

/-- Slots not yet arrived. -/
def Gate.remain (g : Gate) : Nat := g.members.length - g.arrived.length

/-- Whether the abort is by expiry (R122): the status of its members' commands. -/
def abortStatus (cause : Nat) : Nat := if cause = 2 then stTIMEOUT else stABORTED

/-- The payload grain of a GATE packet (Table 9-2). DESIGN CHOICE: the slot of a release or an abort is the member's slot
towards a member and the gate's own slot towards its parent (entry 19; safe: no receiver uses it). -/
def gateMsg (msg target slot round code cause sender : Nat) : Grain :=
  BitVec.ofNat 256 (msg + target * 2 ^ 16 + slot * 2 ^ 32 + round * 2 ^ 48 + code * 2 ^ 64 + cause * 2 ^ 80 + sender * 2 ^ 96)

def sendGateMsg (s : State) (dest msg target slot round code cause sender : Nat) : State :=
  sendPacket s { hdr := { newHdr s tyGATE dest with len := 1 },
                 payload := [codewordOf (gateMsg msg target slot round code cause sender)] }

/-- Discarded arrivals (R123). -/
def countStale (s : State) (n : Nat) : State := bump s rGtStat 15 0 n

/-- Quay of an engine of Table 6-7. -/
def engineQuay (e : Nat) : Option Nat := if e < 0x30 then some (e % 16) else none

/-- The harbour keeps a pilot message for quays that sleep, and those in Doze wake (R63, R388). -/
def keepPilot (s : State) (m : BitVec 128) (qs : List Nat) (pin : Bool) (req : Option (Nat × Nat)) : State :=
  if qs.isEmpty then s
  else
    { s with
      host := { s.host with pilots := s.host.pilots ++
        [{ msg := m, quays := qs, pin := pin, req := req, die := req.map fun r => r.1 / 32 }] },
      pow := if s.pow.harbour = .active then
          { s.pow with doze := s.pow.doze.filter fun q => !qs.contains q,
                       waking := (s.pow.doze.filter fun q => qs.contains q).foldl insertNew s.pow.waking }
        else s.pow }

/-- The local engines among a gate's members. -/
def localMembers (l : List Word) : List Nat := (l.filter fun d => mKind d == 0).map mEngine

/-- Sleeping quays of some engines. -/
def sleepersOf (s : State) (es : List Nat) : List Nat :=
  (asleep s).filter fun q => es.any fun e => engineQuay e == some q

/-- Tells the members of a gate of its release or abort: local engines over the signal lines or the broadcast path, for which
a sleeping quay's message is kept, and host queues by pilot message and by an attention pulse where LINE_EN is set and
the die has lines (R63, R117, R124, R126). DESIGN CHOICE: the message reaches, and wakes, only sleeping quays with a member
engine, as the words "to its members" say, though Table 6-9 names every quay (log entry 114; unsafe). -/
def tellMembers (s : State) (g : Nat) (l : List Word) (kind code : Nat) : State :=
  let m := pilotBits kind g code 0
  let es := localMembers l
  let s0 := keepPilot (es.foldl rouse s) m (sleepersOf s es) false none
  l.foldl (fun s' d =>
    if mKind d = 1 then
      let s1 := pilotPort s' (mPort d) (mHostEngine d) m
      if mLineEn d && fld s1 rHbSigCfg 0 0 == 1 && bit (fld s1 rHbSigCfg 7 4) (mPort d / 32) then
        emit s1 (.attn (mPort d / 32) (mLine d))
      else s1
    else s') s0

/-- Commands that wait at a gate for the opening in progress. -/
def gateWaiters (s : State) (g st r : Nat) : List Todo :=
  s.cmd.running.filterMap fun e =>
    match e.2.phase with
    | .waitGate g' _ _ false => if g' = g then some (.fin e.1 st 0 r) else none
    | _ => none

/-- The release of a gate (R124, R125). -/
def releaseGate (s : State) (g : Nat) : State :=
  let x := gateOf s g
  let s1 := setGate s g { x with state := 3, endTick := now s }
  let s2 := tellMembers s1 g x.members 4 0
  let s3 := x.members.zipIdx.foldl (fun s' d =>
    if mKind d.1 = 2 then sendGateMsg s' (mHarbour d.1) 1 (mGate d.1) d.2 x.round 0 0 g else s') s2
  settleTodo s3 (gateWaiters s3 g stDONE 0)

/-- What follows when slots have arrived: the release, or the arrival at the parent (R125). -/
def checkGate (s : State) (g : Nat) : State :=
  let x := gateOf s g
  if x.state = 1 ∧ x.remain = 0 then
    if bit x.parent.toNat 63 then
      sendGateMsg (setGate s g { x with state := 2 }) (bits x.parent.toNat 17 0) 0 (bits x.parent.toNat 27 18)
        (bits x.parent.toNat 35 28) x.round 0 0 g
    else releaseGate s g
  else s

/-- Whom an abort came from, so that no message goes back there (R126). -/
inductive AbortFrom where
  | here
  | parent
  | member (harbour gate : Nat)
  deriving DecidableEq, Repr

/-- The abort of a gate in progress (R126). A gate not in progress ignores it. -/
def abortGate (s : State) (g cause code : Nat) (src : AbortFrom) : State :=
  let x := gateOf s g
  if !x.inProgress then s
  else
    let s1 := setGate s g { x with state := 4, cause := cause, code := code, endTick := now s }
    let s2 := if cause = 2 ∧ src = .here then bump s1 rGtStat 31 16 1 else bump s1 rGtStat 47 32 1
    let s3 := tellMembers s2 g x.members 1 code
    let s4 := if bit x.parent.toNat 63 ∧ src ≠ .parent then
        sendGateMsg s3 (bits x.parent.toNat 17 0) 2 (bits x.parent.toNat 27 18) (bits x.parent.toNat 35 28) x.round code cause g
      else s3
    let s5 := x.members.zipIdx.foldl (fun s' d =>
      if mKind d.1 = 2 ∧ src ≠ .member (mHarbour d.1) (mGate d.1) then
        sendGateMsg s' (mHarbour d.1) 2 (mGate d.1) d.2 x.round code cause g
      else s') s4
    settleTodo s5 (gateWaiters s5 g (abortStatus cause) code)

/-- Whether a gate's DEADLINE has been reached (R126, R127, R380). -/
def gateDue (s : State) (g : Nat) : Bool :=
  let x := gateOf s g
  x.inProgress && !x.noTimeout && expired s x.openTick (ticksSince x.openTick x.deadline)

/-- Expires a gate whose DEADLINE has been reached (R126); the gate unit takes the tick before what comes later (R127). -/
def expireGate (s : State) (g : Nat) : State :=
  if gateDue s g then abortGate s g 2 (gateOf s g).code .here else s

/-- The slot of a gate arrives for its round. -/
def arriveSlot (s : State) (g slot : Nat) : State :=
  let x := gateOf s g
  checkGate (setGate s g { x with arrived := insertNew x.arrived slot }) g

/-- Commands whose early arrival at a slot for a round is discarded (R123). -/
def discardEarly (s : State) (g : Nat) (p : Nat → Nat → Bool) : List Todo :=
  s.cmd.running.filterMap fun e =>
    match e.2.phase with
    | .waitGate g' sl r true => if g' = g ∧ p sl r then some (.fin e.1 stBUSY 0 0) else none
    | _ => none

/-- Keeps an early arrival for round `r` (R123). Says whether it was kept. -/
def keepEarly (s : State) (g slot r : Nat) (remote : Bool) : State × Bool :=
  let x := gateOf s g
  let put (e k : List Nat) : Gate :=
    { x with early := e ++ [slot], earlyRemote := if remote then k ++ [slot] else k, earlyRound := r }
  if x.early.isEmpty then (setGate s g (put [] []), true)
  else if x.earlyRound = r then
    if slot ∈ x.early then (countStale s 1, false) else (setGate s g (put x.early x.earlyRemote), true)
  else if newer16 r x.earlyRound then
    let s1 := countStale (setGate s g (put [] [])) x.early.length
    (settleTodo s1 (discardEarly s1 g fun _ rr => rr != r), true)
  else (countStale s 1, false)

/-- What an arrival meets by state and round (Table 6-8a, R435). -/
inductive ArrCase where
  | counts | early | released | aborted | stale
  deriving DecidableEq, Repr

def arrCase (x : Gate) (r : Nat) : ArrCase :=
  if x.state = 0 then .early
  else if newer16 r x.round then .early
  else if r = x.round then
    (if x.inProgress then .counts else if x.state = 3 then .released else .aborted)
  else .stale

/-- The members, arrivals and early bits that an opening counts and discards (R121). -/
def earlyCounted (x : Gate) (members : List Word) (r : Nat) : List Nat :=
  if x.earlyRound ≠ r then []
  else x.early.filter fun sl =>
    match members[sl]? with
    | some d => mKind d = (if sl ∈ x.earlyRemote then 2 else 1)
    | none => false

/-- Turns the waiting commands of counted early bits into waits of the opening. -/
def adoptEarly (s : State) (g r : Nat) (counted : List Nat) : State :=
  { s with cmd := { s.cmd with running := s.cmd.running.map fun e =>
      match e.2.phase with
      | .waitGate g' sl rr true =>
        if g' = g ∧ rr = r ∧ sl ∈ counted then (e.1, { e.2 with phase := .waitGate g sl rr false }) else e
      | _ => e } }

/-- Opens a gate; gives the number of early arrivals counted (R121). The release that may follow at once is
`checkGate`. -/
def openGate (s : State) (g : Nat) (members : List Word) (round code timeout task : Nat) (noTimeout : Bool)
    (parent : Word) : State × Nat :=
  let x := gateOf s g
  let counted := earlyCounted x members round
  let s1 := setGate s g
    { members := members, arrived := counted, early := [], earlyRemote := [], state := 1, cause := 0, code := code,
      round := round, earlyRound := x.earlyRound, task := task, deadline := (now s + timeout) % tickMod, noTimeout := noTimeout,
      parent := parent, openTick := now s, endTick := x.endTick }
  let s2 := countStale s1 (x.early.length - counted.length)
  let s3 := adoptEarly s2 g round counted
  (settleTodo s3 (discardEarly s3 g fun _ _ => true), counted.length)

/-- Gates now in progress (Table 6-12). -/
def gatesInProgress (s : State) : Nat := (s.sync.gates.filter fun e => e.2.inProgress).length

/-- The bytes of a gate record (Table 6-4). -/
def gateRecord (x : Gate) : List Byte :=
  leBytes 32 (2 ^ x.members.length - 1) ++ leBytes 32 (maskOf x.arrived) ++ leBytes 32 (maskOf x.early) ++
  leBytes 2 x.remain ++ leBytes 1 x.state ++ leBytes 1 x.cause ++ leBytes 2 x.code ++ leBytes 2 x.round ++
  leBytes 2 x.earlyRound ++ leBytes 2 x.task ++ leBytes 4 0 ++
  leBytes 8 (x.deadline + b2n x.noTimeout * 2 ^ 63) ++ leBytes 8 x.parent.toNat ++ leBytes 8 x.openTick ++
  leBytes 8 x.endTick ++ leBytes 32 (maskOf x.earlyRemote) ++ leBytes 80 0

end Sys2Proof.Machine
end

