-- ==== Sys2Proof/Machine/Gates.lean ====
section
/-!
DEFINITION. The commands, messages and events of beacons and gates (chapter 6).
-/
namespace Sys2Proof.Machine

open Sys2Proof

/-- What every meaning of this model answers. -/
abbrev Answer := Host.Outcome State Fault Refusal

/-- Whether a destination of `n` bytes lies whole in one memory region. -/
def inMemory (s : State) (a n : Nat) : Bool :=
  match regionOfRange s.part a n with
  | some .dram | some .aperture | some .qsram | some .hsram => true
  | _ => false

/-- Whether host software may be written at a local address, through either view. -/
def softwareAt (s : State) (a n : Nat) : Bool :=
  if inRegion s.part a .aperture then
    (grainsOf a n).all fun x => inHostDram s (homeAddr s.part x) 32
  else inSoftware s a n

/-- A command's destination that the issuing port may not write (R75). -/
def writeDenied (s : State) (p : CmdPkt) (a n : Nat) : Bool :=
  !p.hasRight s rightWrite a n || !softwareAt s a n

/-! ### GATE_OPEN (R121) -/

def gateOpenLayout (n : Nat) : List Named :=
  [(8, 9, 0), (8, 63, 16), (9, 33, 0), (10, 63, 0)] ++ (List.range n).map fun i => (11 + i, 63, 0)

/-- Highest named bit of a descriptor by kind (Table 6-6). -/
def memberTop (d : Word) : Nat :=
  match mKind d with
  | 0 => 10
  | 1 => 23
  | _ => 30

/-- Whether an engine number is one of Table 6-7. -/
def engineListed (e : Nat) : Bool := decide (e ≤ 0x33)

/-- Whether an engine of Table 6-7 is absent on the part. -/
def engineAbsent (s : State) (e : Nat) : Bool := decide (e < 0x30 ∧ quays s.part ≤ e % 16)

/-- BAD_PARAM faults of one descriptor. -/
def memberParamFault (s : State) (d : Word) : Bool :=
  d.toNat >>> memberTop d != 0 ||
  (mKind d == 0 && engineListed (mEngine d) && engineAbsent s (mEngine d)) ||
  (mKind d == 1 && decide (ports s.part ≤ mPort d)) || (mKind d == 2 && decide (countNum s ≤ mHarbour d))

/-- Whether two descriptors name the same member (R121). -/
def sameMember (a b : Word) : Bool :=
  mKind a == mKind b &&
  (match mKind a with
   | 0 => mEngine a == mEngine b
   | 1 => mPort a == mPort b && mHostEngine a == mHostEngine b
   | 2 => mHarbour a == mHarbour b && mGate a == mGate b
   | _ => false)

/-- BAD_DESCRIPTOR faults of descriptor i of the list. -/
def memberDescrFault (l : List Word) (i : Nat) (d : Word) : Bool :=
  mKind d == 3 || (mKind d == 0 && !engineListed (mEngine d)) || (l.take i).any (sameMember d)

/-- Whether a GATE_OPEN packet holds all the members it counts. -/
def membersFit (p : CmdPkt) : Bool := decide (p.at 66 2 ≤ 256 ∧ 11 + p.at 66 2 ≤ p.units)

/-- The member descriptors of a GATE_OPEN packet. -/
def gateMembers (p : CmdPkt) : List Word :=
  (List.range (if membersFit p then p.at 66 2 else 0)).map fun i => BitVec.ofNat 64 (p.at (88 + 8 * i) 8)

/-- BAD_PARAM faults of GATE_OPEN. -/
def gateOpenParams (s : State) (p : CmdPkt) : List (Bool × Nat) :=
  let n := p.at 66 2
  let par := p.at 80 8
  [(decide (256 < n), 8), (decide (n ≤ 256 ∧ p.units < 11 + n), p.units),
   (bit (p.at 76 1) 1 && (!bit par 63 || decide (countNum s ≤ bits par 17 0) || bits par 62 36 != 0), 10)] ++
  (gateMembers p).zipIdx.map fun d => (memberParamFault s d.1, 11 + d.2)

/-- BAD_DESCRIPTOR faults of GATE_OPEN. -/
def gateOpenDescr (p : CmdPkt) : List (Bool × Nat) :=
  (p.at 66 2 == 0, 8) :: (gateMembers p).zipIdx.map fun d => (memberDescrFault (gateMembers p) d.2 d.1, 11 + d.2)

/-- GATE_OPEN (R121). With PARENT_EN clear the record's PARENT is 0 (DESIGN CHOICE, log entry 102). -/
def execGateOpen (cx : Nat) (s : State) : Answer :=
  .next <|
  match turnOf s cx 0x0701 with
  | none => s
  | some r =>
    let p := r.pkt
    match checkFail p (gateOpenLayout (if membersFit p then p.at 66 2 else 256)) (gateOpenParams s p) (gateOpenDescr p) false with
    | some (st, f) => completeBad s cx st f
    | none =>
      let g := p.at 64 2 % 1024
      let s0 := expireGate s g
      if (gateOf s0 g).inProgress then complete s0 cx stBUSY 0
      else
        let o := openGate (tagObject s0 p.task true g 0) g (gateMembers p) (p.at 68 2) (p.at 70 2) (p.at 72 4) p.task
          (bit (p.at 76 1) 0) (if bit (p.at 76 1) 1 then BitVec.ofNat 64 (p.at 80 8) else 0)
        checkGate (complete o.1 cx stDONE o.2) g

/-! ### GATE_ARRIVE, GATE_ABORT, GATE_EXPIRY -/

/-- The arrival of a GATE_ARRIVE of the gate's round while the gate is in progress (R122). -/
def gateArriveNow (s : State) (cx : Nat) (r : Running) (g slot round : Nat) (wait : Bool) : State :=
  let x := gateOf s g
  match x.members[slot]? with
  | none => completeBad s cx stBAD_PARAM 8
  | some d =>
    if mKind d ≠ 1 then completeBad s cx stBAD_PARAM 8
    else if mPort d ≠ r.pkt.port then complete s cx stDENIED 0
    else if slot ∈ x.arrived then complete s cx stBUSY 0
    else if wait then arriveSlot (putCmd s cx { r with phase := .waitGate g slot round false }) g slot
    else arriveSlot (complete s cx stDONE 0) g slot

/-- GATE_ARRIVE (R122, R123). -/
def execGateArrive (cx : Nat) (s : State) : Answer :=
  .next <|
  match turnOf s cx 0x0702 with
  | none => s
  | some r =>
    let p := r.pkt
    match checkFail p [(8, 9, 0), (8, 24, 16), (8, 47, 32)] [] [] false with
    | some (st, f) => completeBad s cx st f
    | none =>
      let g := p.at 64 2 % 1024
      let slot := p.at 66 1
      let wait := bit (p.at 67 1) 0
      let round := p.at 68 2
      let s0 := expireGate s g
      let x := gateOf s0 g
      match arrCase x round with
      | .counts => gateArriveNow s0 cx r g slot round wait
      | .early =>
        let k := keepEarly s0 g slot round false
        if !k.2 then complete k.1 cx stBUSY 0
        else if wait then putCmd k.1 cx { r with phase := .waitGate g slot round true }
        else complete k.1 cx stDONE 0
      | .released => complete s0 cx stBUSY 0
      | .aborted => complete s0 cx (abortStatus x.cause) x.code
      | .stale => complete (countStale s0 1) cx stBUSY 0

/-- GATE_ABORT (R126). -/
def execGateAbort (cx : Nat) (s : State) : Answer :=
  .next <|
  match turnOf s cx 0x0703 with
  | none => s
  | some r =>
    let p := r.pkt
    match checkFail p [(8, 9, 0), (8, 31, 16)] [] [] false with
    | some (st, f) => completeBad s cx st f
    | none =>
      let g := p.at 64 2 % 1024
      complete (abortGate (expireGate s g) g 1 (p.at 66 2) .here) cx stDONE 0

/-- GATE_EXPIRY: a gate whose DEADLINE is reached aborts with CAUSE expiry (R126). -/
def execGateExpiry (g : Nat) (s : State) : Answer := .next (expireGate s g)

/-- ENGINE_GATE_ARRIVAL (R120): a local engine's slot arrives (R124). An engine that reaches its gate point while the gate
is not in progress changes nothing: its arrival is not kept as early (DESIGN CHOICE, log entry 102). -/
def execEngineGateArrival (engine g : Nat) (s : State) : Answer :=
  .next <|
  let s0 := expireGate s g
  let x := gateOf s0 g
  if !x.inProgress then s0
  else
    match x.members.findIdx? (fun d => mKind d == 0 && mEngine d == engine) with
    | some slot => if slot ∈ x.arrived then s0 else arriveSlot s0 g slot
    | none => s0

/-! ### BEACON_WAIT, TASK_CLOSE, attention lines -/

/-- BEACON_WAIT (R113, R114). -/
def execBeaconWait (cx : Nat) (s : State) : Answer :=
  .next <|
  match turnOf s cx 0x0704 with
  | none => s
  | some r =>
    let p := r.pkt
    match checkFail p [(8, 24, 0), (8, 63, 32), (9, 63, 0)] [(decide (2 < p.at 66 1), 8)] [] false with
    | some (st, f) => completeBad s cx st f
    | none =>
      let k := p.at 64 2
      let forever := bit (p.at 67 1) 0
      let timeout := p.at 68 4
      let v := p.at 72 8
      let s0 := tagBeacon s p.task k
      let g := readGrain s0 (beaconAddr k / 32 * 32)
      let x := fieldAt (grainBytes g.2.word.data) (beaconAddr k % 32) 8
      if g.2.bad then complete g.1 cx stDATA_POISON 0
      else if condMet (p.at 66 1) x v then complete g.1 cx stDONE x
      else if !forever ∧ timeout = 0 then complete g.1 cx stTIMEOUT x
      else putCmd g.1 cx { r with phase := .waitBeacon k (p.at 66 1) (BitVec.ofNat 64 v) forever timeout (now s) x }

/-- BEACON_WAIT_TIMEOUT: TIMEOUT ticks have passed from the wait's start; RESULT is the beacon's value then, the latest that the
wait has tested (R114). -/
def execBeaconWaitTimeout (cx : Nat) (s : State) : Answer :=
  .next <|
  match cmdOf? s cx with
  | some r =>
    match r.phase with
    | .waitBeacon _ _ _ false t t0 last => if expired s t0 t then complete s cx stTIMEOUT last else s
    | _ => s
  | none => s

/-- The tags of a task by object number. -/
def sortedTags (l : List TaskTag) : List TaskTag :=
  l.foldl (fun acc t => (acc.takeWhile fun x => x.num ≤ t.num) ++ t :: acc.dropWhile fun x => x.num ≤ t.num) []

/-- The present value of each tagged object: a beacon is read, a gate gives its STATE (R129, R326). -/
def tagValues : State → List TaskTag → State × List (TaskTag × Nat)
  | s, [] => (s, [])
  | s, t :: l =>
    let r := if t.isGate then (s, (gateOf s t.num).state) else read64 s (beaconAddr t.num)
    let x := tagValues r.1 l
    (x.1, (t, r.2) :: x.2)

/-- Whether a tagged object is restored, with its present value (R129). -/
def restored (s : State) (t : TaskTag × Nat) : Bool :=
  if t.1.isGate then !(gateOf s t.1.num).inProgress else t.2 == t.1.value.toNat

/-- The list entry of an object not restored (R129). -/
def closeEntry (t : TaskTag × Nat) : List Byte := leBytes 8 (t.1.num + b2n t.1.isGate * 65536) ++ leBytes 8 t.2

/-- The tags of a task in the order of the list: beacons and then gates, by number (R129). -/
def taskTags (s : State) (task : Nat) : List TaskTag :=
  let mine := s.sync.tags.filter fun t => t.task == task
  sortedTags (mine.filter fun t => !t.isGate) ++ sortedTags (mine.filter fun t => t.isGate)

/-- The objects of a task that are not restored, with the state that their reads leave (R129). -/
def unrestored (s : State) (task : Nat) : State × List (TaskTag × Nat) :=
  let v := tagValues s (taskTags s task)
  (v.1, v.2.filter fun t => !restored v.1 t)

/-- The tags of a task are dropped. -/
def dropTags (s : State) (task : Nat) : State :=
  { s with sync := { s.sync with tags := s.sync.tags.filter fun t => t.task != task } }

/-- TASK_CLOSE (R129). -/
def execTaskClose (cx : Nat) (s : State) : Answer :=
  .next <| whole s fun s =>
  match turnOf s cx 0x0705 with
  | none => s
  | some r =>
    let p := r.pkt
    let listEn := bit (p.at 64 8) 63
    let lst := p.at 64 8 % 2 ^ 44
    let params := [(p.task == 0, 0), (listEn && (lst % 32 != 0 || !inMemory s lst 1064960), 8)]
    match checkFail p [(8, 43, 0), (8, 63, 63)] params [] (listEn && writeDenied s p lst 1064960) with
    | some (st, f) => completeBad s cx st f
    | none =>
      let u := unrestored s p.task
      let s1 := if listEn then writeBytes u.1 lst (u.2.flatMap closeEntry) else u.1
      complete (dropTags s1 p.task) cx stDONE u.2.length

/-- ATTN_LINE_EDGE: a rising edge of an inbound attention line adds 1 to its beacon in two-way mode (R117, R118), while the
clocks run (R374). -/
def execAttnLineEdge (die line : Nat) (s : State) : Answer :=
  .next <|
  if clocksRun s ∧ fld s rHbSigCfg 0 0 = 1 ∧ bit (fld s rHbSigCfg 7 4) die ∧ die < ports s.part / 32 ∧ line < 32 then
    (beaconAtomic s (fld s rHbSigCfg 31 16 + die * 64 + line) fun v => (v + 1) % 18446744073709551616).1
  else s

/-! ### Messages between gates (R125, R126, R435) -/

/-- The fields of a GATE packet's grain (Table 9-2). -/
structure GateMsg where
  msg : Nat
  target : Nat
  slot : Nat
  round : Nat
  code : Nat
  cause : Nat
  sender : Nat
  deriving DecidableEq, Repr

/-- A target gate above 1023 names the gate of its low ten bits (DESIGN CHOICE, log entry 102). -/
def GateMsg.ofGrain (g : Grain) : GateMsg :=
  let v := g.toNat
  { msg := bits v 7 0, target := bits v 25 16, slot := bits v 39 32, round := bits v 63 48, code := bits v 79 64,
    cause := bits v 87 80, sender := bits v 111 96 }

/-- An arrival message (R435). A second arrival of a slot that has arrived in the round changes nothing and is not counted
(DESIGN CHOICE, log entry 102). -/
def arrivalMsg (s : State) (orig : Nat) (m : GateMsg) : State :=
  let s0 := expireGate s m.target
  let x := gateOf s0 m.target
  match arrCase x m.round with
  | .counts =>
    match x.members[m.slot]? with
    | some d =>
      if mKind d = 2 ∧ mHarbour d = orig ∧ mGate d = m.sender then arriveSlot s0 m.target m.slot else countStale s0 1
    | none => countStale s0 1
  | .early => (keepEarly s0 m.target m.slot m.round true).1
  | _ => countStale s0 1

/-- A release message: a gate in STATE 2 releases when it comes from its parent for its round (R125). -/
def releaseMsg (s : State) (orig : Nat) (m : GateMsg) : State :=
  let s0 := expireGate s m.target
  let x := gateOf s0 m.target
  if x.state = 2 ∧ m.round = x.round ∧ bits x.parent.toNat 17 0 = orig ∧ bits x.parent.toNat 27 18 = m.sender then
    releaseGate s0 m.target
  else s0

/-- Whom a message comes from, as the gate knows it. -/
def senderOf (x : Gate) (orig sender : Nat) : Option AbortFrom :=
  if bit x.parent.toNat 63 ∧ bits x.parent.toNat 17 0 = orig ∧ bits x.parent.toNat 27 18 = sender then some .parent
  else if x.members.any (fun d => mKind d == 2 && mHarbour d == orig && mGate d == sender) then some (.member orig sender)
  else none

/-- An abort message from a parent or child: one of another round is discarded (R123, R126). One of the round from a gate
that is neither changes nothing and is not counted (DESIGN CHOICE, log entry 102). -/
def abortMsg (s : State) (orig : Nat) (m : GateMsg) : State :=
  let s0 := expireGate s m.target
  let x := gateOf s0 m.target
  if m.round ≠ x.round then countStale s0 1
  else
    match senderOf x orig m.sender with
    | some f => abortGate s0 m.target m.cause m.code f
    | none => s0

/-- The message of a GATE packet; none where its grain is bad. -/
def gateMsgOf (p : Packet) : Option GateMsg := (payloadGrain p 0).map GateMsg.ofGrain

/-- A GATE packet with one MSG. -/
def onGateMsg (s : State) (src : LandSrc) (hdr : BitVec 256) (payload : List Codeword) (msg : Nat)
    (f : State → Nat → GateMsg → State) : State :=
  withPacket s src hdr payload (fun p => ofType tyGATE p && (gateMsgOf p).any (fun m => m.msg == msg)) fun s1 p =>
    match gateMsgOf p with
    | some m => f s1 p.hdr.orig m
    | none => s1

/-- GATE_ARRIVAL_MSG (R435). -/
def execGateArrivalMsg (src : LandSrc) (hdr : BitVec 256) (payload : List Codeword) (s : State) : Answer :=
  .next (onGateMsg s src hdr payload 0 arrivalMsg)

/-- GATE_RELEASE_MSG (R125). -/
def execGateReleaseMsg (src : LandSrc) (hdr : BitVec 256) (payload : List Codeword) (s : State) : Answer :=
  .next (onGateMsg s src hdr payload 1 releaseMsg)

/-- GATE_ABORT_MSG (R126). -/
def execGateAbortMsg (src : LandSrc) (hdr : BitVec 256) (payload : List Codeword) (s : State) : Answer :=
  .next (onGateMsg s src hdr payload 2 abortMsg)

end Sys2Proof.Machine
end

