-- ==== Sys2Proof/Machine/Kewen.lean ====
section
/-!
DEFINITION. The Kewen generator: a keyed permutation of a 128-bit counter (R151), its counter (R152) and what is offered
from its output (R156, R157).
-/
namespace Sys2Proof.Machine

/-- Four 32-bit words, word 0 first. -/
structure KwWords where
  x0 : BitVec 32
  x1 : BitVec 32
  x2 : BitVec 32
  x3 : BitVec 32
  deriving DecidableEq, Repr

/-- Word i of a 128-bit value. -/
def kwWord (v : BitVec 128) (i : Nat) : BitVec 32 := v.extractLsb' (32 * i) 32

def kwSplit (v : BitVec 128) : KwWords := ⟨kwWord v 0, kwWord v 1, kwWord v 2, kwWord v 3⟩

def kwJoin (w : KwWords) : BitVec 128 := w.x3 ++ w.x2 ++ w.x1 ++ w.x0

/-- Rotation p of a round (Table 8-1). -/
def kwP (r : Nat) : Nat := [7, 19, 11, 25, 3, 14, 21, 9, 28, 5].getD r 0

/-- Rotation q of a round (Table 8-1). -/
def kwQ (r : Nat) : Nat := [23, 10, 17, 4, 27, 12, 6, 20, 15, 30].getD r 0

/-- The round constant (r + 1) × 0x6A1D_4C37. -/
def kwRc (r : Nat) : BitVec 32 := BitVec.ofNat 32 ((r + 1) * 0x6A1D4C37)

/-- One round (R151). -/
def kwRound (key : BitVec 128) (r : Nat) (w : KwWords) : KwWords :=
  let a0 := w.x0 + (kwWord key (r % 4) ^^^ kwRc r)
  let a1 := w.x1 ^^^ kwWord key ((r + 1) % 4)
  let b0 := a0 + a1
  let b3 := (w.x3 ^^^ b0).rotateLeft (kwP r)
  let b2 := w.x2 + b3
  let b1 := (a1 ^^^ b2).rotateLeft (kwQ r)
  ⟨b1, b2, b3, b0⟩

/-- The output whitening. -/
def kwWhiten (key : BitVec 128) (w : KwWords) : KwWords :=
  ⟨w.x0 ^^^ kwWord key 2, w.x1 ^^^ kwWord key 3, w.x2 ^^^ kwWord key 0, w.x3 ^^^ kwWord key 1⟩

/-- O of counter C under key S (R151). -/
def kewen (c key : BitVec 128) : BitVec 128 :=
  kwJoin (kwWhiten key ((List.range 10).foldl (fun w r => kwRound key r w) (kwSplit c)))

/-- The counter of five fields (Table 8-2). -/
def kwCounter (tensor step index purpose draw : Nat) : BitVec 128 :=
  BitVec.ofNat 16 tensor ++ BitVec.ofNat 48 step ++ BitVec.ofNat 48 index ++ BitVec.ofNat 8 purpose ++ BitVec.ofNat 8 draw

/-- An element's 32-bit draw (R156). -/
def kwDraw (seed : BitVec 128) (tensor step index purpose : Nat) : Nat :=
  (kewen (kwCounter tensor step index purpose 0) seed).toNat % 4294967296

/-- A yes/no mask with probability k / 65536 (R157). -/
def kwMask (seed : BitVec 128) (tensor step index k : Nat) : Bool :=
  decide ((kewen (kwCounter tensor step index 0x07 0) seed).toNat % 65536 < k)

/-- Selection for sampled duplicate execution (R334). -/
def kwSelected (cseed : BitVec 128) (tensor step index threshold : Nat) : Bool :=
  decide ((kewen (kwCounter tensor step index 0x10 0) cseed).toNat % 65536 < threshold)

end Sys2Proof.Machine
end

