-- ==== Sys2Proof/Machine/Num.lean ====
section
/-!
DEFINITION. Number formats, the internal form, exact arithmetic rounded once to F32, and conversions (R132-R145, R430).

A value is a NaN, an infinity, or a sign with `m × 2^e`, which is exact; every result rule rounds it once.
-/
namespace Sys2Proof.Machine

/-- A decoded value (R135). `fin neg 0 e` is a signed zero. -/
inductive Val where
  | nan
  | inf (neg : Bool)
  | fin (neg : Bool) (m : Nat) (e : Int)
  deriving DecidableEq, Repr

/-- The format codes (Table 7-1). -/
abbrev fF32 : Nat := 0
abbrev fB16 : Nat := 1
abbrev fH16 : Nat := 2
abbrev fE5M2 : Nat := 3
abbrev fE4M3 : Nat := 4
abbrev fI8 : Nat := 5
abbrev fL8 : Nat := 6
abbrev fK4 : Nat := 7

/-- Zeros. -/
def Val.zero : Val := .fin false 0 0

def Val.one : Val := .fin false 1 0

def Val.isZero : Val → Bool
  | .fin _ m _ => m == 0
  | _ => false

def Val.isFinite : Val → Bool
  | .fin _ _ _ => true
  | _ => false

def Val.isNan : Val → Bool
  | .nan => true
  | _ => false

/-- The sign; a NaN's sign has no effect. -/
def Val.isNeg : Val → Bool
  | .nan => false
  | .inf n => n
  | .fin n _ _ => n

def Val.neg : Val → Val
  | .nan => .nan
  | .inf n => .inf (!n)
  | .fin n m e => .fin (!n) m e

def Val.abs : Val → Val
  | .nan => .nan
  | .inf _ => .inf false
  | .fin _ m e => .fin false m e

/-- `m × 2^d` for a signed shift, exact for `d ≥ 0`, floor below. -/
def shiftI (m : Nat) (d : Int) : Nat := if 0 ≤ d then m <<< d.toNat else m >>> (-d).toNat

/-- Comparison of magnitudes `m1 × 2^e1` and `m2 × 2^e2`. -/
def magCmp (m1 : Nat) (e1 : Int) (m2 : Nat) (e2 : Int) : Ordering :=
  let e := min e1 e2
  compare (shiftI m1 (e1 - e)) (shiftI m2 (e2 - e))

/-- Signed numeric comparison of values that are not NaN. -/
def Val.lt : Val → Val → Bool
  | .nan, _ => false
  | _, .nan => false
  | .inf a, .inf b => a && !b
  | .inf a, .fin _ _ _ => a
  | .fin _ _ _, .inf b => !b
  | .fin n1 m1 e1, .fin n2 m2 e2 =>
    if m1 = 0 ∧ m2 = 0 then false
    else if m1 = 0 then !n2
    else if m2 = 0 then n1
    else match n1, n2 with
      | true, false => true
      | false, true => false
      | false, false => magCmp m1 e1 m2 e2 == .lt
      | true, true => magCmp m1 e1 m2 e2 == .gt

def Val.le (a b : Val) : Bool := !a.isNan && !b.isNan && !(b.lt a)

/-- Exponent of the leading bit of `m × 2^e`, `m ≠ 0`. -/
def msbExp (m : Nat) (e : Int) : Int := (Nat.log2 m : Int) + e

/-- Nearest, ties to even, of `m × 2^e` in units of `2^q`. -/
def rneUnits (m : Nat) (e q : Int) : Nat :=
  if q ≤ e then m <<< (e - q).toNat
  else
    let d := (q - e).toNat
    let t := m >>> d
    let r := m % 2 ^ d
    let h := 2 ^ (d - 1)
    if r > h ∨ (r = h ∧ t % 2 = 1) then t + 1 else t

/-- Stochastic rounding of `m × 2^e` in units of `2^q` with a 32-bit draw (R142): the significand has 24 positions from
its leading bit (R135). -/
def stochUnits (m : Nat) (e q : Int) (draw : Nat) : Nat :=
  if q ≤ e then m <<< (e - q).toNat
  else
    let d := (q - e).toNat
    let t := m >>> d
    let r := m % 2 ^ d
    if r = 0 then t
    else
      let dd := (q - (msbExp m e - 23)).toNat
      let n := min dd 32
      let f := (r <<< n) >>> d
      if draw % 2 ^ n < f then t + 1 else t

/-- Layout of the sign, exponent and fraction formats: fraction bits, bias, total bits. -/
structure FloatFmt where
  frac : Nat
  bias : Nat
  bits : Nat
  deriving DecidableEq, Repr

def floatFmt (f : Nat) : FloatFmt :=
  match f with
  | 0 => ⟨23, 127, 32⟩
  | 1 => ⟨7, 127, 16⟩
  | 2 => ⟨10, 15, 16⟩
  | 3 => ⟨2, 15, 8⟩
  | 4 => ⟨3, 7, 8⟩
  | _ => ⟨1, 1, 4⟩

/-- Bits of an element (Table 7-1). -/
def fmtBits (f : Nat) : Nat :=
  match f with
  | 0 => 32
  | 1 | 2 => 16
  | 7 => 4
  | _ => 8

/-- The significand table of L8 in units of 2^-23 (R134, Table 7-4). -/
def l8T (k : Nat) : Nat :=
  match k with
  | 0 => 8388608
  | 1 => 9147842
  | 2 => 9975792
  | 3 => 10878679
  | 4 => 11863283
  | 5 => 12937002
  | 6 => 14107901
  | _ => 15384775

/-- The magnitude of an L8 code from 0x01; 0xFF stands for the position after 0xFE (Table 7-6a). -/
def l8Mag (c : Nat) : Nat × Int :=
  let j : Int := (c : Int) - 128
  (l8T (j.emod 8).toNat, j.ediv 8 - 23)

/-- Decodes a code of a sign, exponent and fraction format. -/
def decodeFloat (f code : Nat) : Val :=
  let L := floatFmt f
  let eb := L.bits - 1 - L.frac
  let fr := code % 2 ^ L.frac
  let ex := (code >>> L.frac) % 2 ^ eb
  let sg := (code >>> (L.bits - 1)) % 2 = 1
  if f ≤ fE5M2 ∧ ex = 2 ^ eb - 1 then (if fr = 0 then .inf sg else .nan)
  else if f = fE4M3 ∧ ex = 15 ∧ fr = 7 then .nan
  else if f = fK4 ∧ code % 16 = 8 then .nan
  else if ex = 0 then .fin sg fr (1 - (L.bias : Int) - L.frac)
  else .fin sg (fr + 2 ^ L.frac) ((ex : Int) - L.bias - L.frac)

/-- Decodes an unscaled code (R132-R134). -/
def decodeCode (f code : Nat) : Val :=
  if f = fI8 then
    let c := code % 256
    if c = 128 then .nan else if c < 128 then .fin false c 0 else .fin true (256 - c) 0
  else if f = fL8 then
    let c := code % 256
    if c = 0 then .fin false 0 0 else if c = 255 then .nan else .fin false (l8Mag c).1 (l8Mag c).2
  else decodeFloat f code

/-- Multiplies exactly by a power of two. -/
def Val.scale (x : Val) (k : Int) : Val :=
  match x with
  | .fin n m e => .fin n m (e + k)
  | v => v

/-- Decodes a scaled element (R133). -/
def decodeScaled (f code s : Nat) : Val :=
  if s = 255 then .nan else (decodeCode f code).scale ((s : Int) - 127)

/-- Whether a code is subnormal in its own format (R138): K4, I8 and L8 have none. -/
def isSubnormalCode (f code : Nat) : Bool :=
  if f ≤ fE4M3 then
    let L := floatFmt f
    let eb := L.bits - 1 - L.frac
    (code >>> L.frac) % 2 ^ eb == 0 && code % 2 ^ L.frac != 0
  else false

/-- Smallest quantum exponent of a format. -/
def qMin (f : Nat) : Int := let L := floatFmt f; 1 - (L.bias : Int) - L.frac

/-- Largest finite magnitude of a format, unscaled (Table 7-2). -/
def fmax (f : Nat) : Nat × Int :=
  match f with
  | 0 => (16777215, 104)
  | 1 => (255, 120)
  | 2 => (2047, 5)
  | 3 => (7, 13)
  | 4 => (14, 5)
  | 5 => (127, 0)
  | 6 => l8Mag 254
  | _ => (3, 1)

/-- Code of the finite magnitude `n × 2^q` of a float format, `n` in range. -/
def encodeMag (f : Nat) (n : Nat) (q : Int) : Nat :=
  let L := floatFmt f
  if n = 0 then 0
  else
    let ex := msbExp n q + L.bias
    if ex ≤ 0 then shiftI n (q - qMin f)
    else ex.toNat * 2 ^ L.frac + (shiftI n (q - (msbExp n q - L.frac)) - 2 ^ L.frac)

/-- F32 bits of a value that is already rounded (R137). -/
def toF32 (v : Val) : F32 :=
  match v with
  | .nan => 0x7FC00000#32
  | .inf n => BitVec.ofNat 32 (0x7F800000 + (if n then 0x80000000 else 0))
  | .fin n m e => BitVec.ofNat 32 (encodeMag 0 m e + (if n then 0x80000000 else 0))

/-- The value of F32 bits. -/
def ofF32 (x : F32) : Val := decodeCode fF32 x.toNat

/-- Rounds `m × 2^e` to F32, nearest even, in lowest terms of its quantum (R136, R137). -/
def roundF32 (neg : Bool) (m : Nat) (e : Int) : Val :=
  if m = 0 then .fin neg 0 0
  else
    let q := max (msbExp m e - 23) (-149)
    let n := rneUnits m e q
    if n = 0 then .fin neg 0 0
    else if 128 ≤ msbExp n q then .inf neg
    else .fin neg n q

/-- Rounds a value to F32. -/
def Val.round : Val → Val
  | .fin n m e => roundF32 n m e
  | v => v

/-- Exact product (Table 7-5), before rounding. -/
def mulExact : Val → Val → Val
  | .nan, _ => .nan
  | _, .nan => .nan
  | .inf a, .inf b => .inf (a != b)
  | .inf a, .fin b m _ => if m = 0 then .nan else .inf (a != b)
  | .fin a m _, .inf b => if m = 0 then .nan else .inf (a != b)
  | .fin a m1 e1, .fin b m2 e2 => .fin (a != b) (m1 * m2) (e1 + e2)

/-- Exact sum (Table 7-5), before rounding. -/
def addExact : Val → Val → Val
  | .nan, _ => .nan
  | _, .nan => .nan
  | .inf a, .inf b => if a = b then .inf a else .nan
  | .inf a, .fin _ _ _ => .inf a
  | .fin _ _ _, .inf b => .inf b
  | .fin a m1 e1, .fin b m2 e2 =>
    if m1 = 0 ∧ m2 = 0 then .fin (a && b) 0 0
    else
      let e := min e1 e2
      let x1 := shiftI m1 (e1 - e)
      let x2 := shiftI m2 (e2 - e)
      if a = b then .fin a (x1 + x2) e
      else if x1 = x2 then .fin false 0 0
      else if x1 > x2 then .fin a (x1 - x2) e
      else .fin b (x2 - x1) e

/-- Quotient with a sticky bit, rounded once (R430). -/
def divRound (neg : Bool) (m1 : Nat) (e1 : Int) (m2 : Nat) (e2 : Int) : Val :=
  let s := Nat.log2 m2 + 30
  let num := m1 <<< s
  let q := num / m2
  let st := if num % m2 = 0 then 0 else 1
  roundF32 neg (2 * q + st) (e1 - e2 - s - 1)

/-- Division (Table 7-5a). -/
def divVal : Val → Val → Val
  | .nan, _ => .nan
  | _, .nan => .nan
  | .inf _, .inf _ => .nan
  | .inf a, .fin b _ _ => .inf (a != b)
  | .fin a _ _, .inf b => .fin (a != b) 0 0
  | .fin a m1 e1, .fin b m2 e2 =>
    if m2 = 0 then (if m1 = 0 then .nan else .inf (a != b))
    else if m1 = 0 then .fin (a != b) 0 0
    else divRound (a != b) m1 e1 m2 e2

/-- Integer square root by bits, from bit `n - 1` down. -/
def isqrtN : Nat → Nat → Nat → Nat
  | 0, _, r => r
  | n + 1, x, r =>
    let c := r + 2 ^ n
    isqrtN n x (if c * c ≤ x then c else r)

/-- Integer square root, floor. -/
def isqrt (x : Nat) : Nat := isqrtN (Nat.log2 x / 2 + 1) x 0

/-- Square root (Table 7-5a). -/
def sqrtVal : Val → Val
  | .nan => .nan
  | .inf n => if n then .nan else .inf false
  | .fin n m e =>
    if m = 0 then .fin n 0 0
    else if n then .nan
    else
      let e' : Int := if e.emod 2 = 0 then e else e - 1
      let m' := if e.emod 2 = 0 then m else 2 * m
      let x := m' <<< 60
      let r := isqrt x
      let st := if r * r = x then 0 else 1
      roundF32 false (2 * r + st) (e' / 2 - 31)

/-- Maximum and minimum of two values; a NaN operand gives NaN. -/
def maxVal (a b : Val) : Val := if a.isNan || b.isNan then .nan else if a.lt b then b else a
def minVal (a b : Val) : Val := if a.isNan || b.isNan then .nan else if b.lt a then b else a

/-! ### Arithmetic with the FTZ bit (R138). The state counts the values replaced. -/

/-- A computation that counts flushed values. -/
abbrev Fl (α : Type) := StateM Nat α

/-- Counts one replaced value. -/
def countFlush : Fl Unit := modify (· + 1)

/-- A rounded product or sum below 2^-126 becomes zero under FTZ. -/
def flushSmall (z : Bool) (v : Val) : Fl Val :=
  match v with
  | .fin n m e =>
    if z ∧ m ≠ 0 ∧ msbExp m e < -126 then do countFlush; pure (.fin n 0 0) else pure v
  | v => pure v

/-- Product rounded to F32 (R136). -/
def fmul (z : Bool) (a b : Val) : Fl Val := flushSmall z (mulExact a b).round

/-- Sum rounded to F32 (R136). -/
def fadd (z : Bool) (a b : Val) : Fl Val := flushSmall z (addExact a b).round

/-- Difference, the sum with the negated value. -/
def fsub (z : Bool) (a b : Val) : Fl Val := fadd z a b.neg

/-- An F32 operand under FTZ: a subnormal encoding counts as zero of its sign. -/
def flushIn (z : Bool) (v : Val) : Fl Val :=
  match v with
  | .fin n m e => if z ∧ m ≠ 0 ∧ msbExp m e < -126 then do countFlush; pure (.fin n 0 0) else pure v
  | v => pure v

/-- Quotient (R430). -/
def fdiv (z : Bool) (a b : Val) : Fl Val := flushSmall z (divVal a b)

/-- Square root (R430). -/
def fsqrt (z : Bool) (a : Val) : Fl Val := flushSmall z (sqrtVal a)

/-- Decodes an element under FTZ (R138). -/
def fdecode (z : Bool) (f code s : Nat) : Fl Val :=
  if z && isSubnormalCode f code then do
    countFlush
    pure (if s = 255 then .nan else .fin (decide ((code >>> (fmtBits f - 1)) % 2 = 1)) 0 0)
  else pure (decodeScaled f code s)

/-- Decodes an unscaled element under FTZ. -/
def fdecode1 (z : Bool) (f code : Nat) : Fl Val := fdecode z f code 127

/-! ### Conversion (R140-R142) -/

/-- What a conversion stores, and whether it counts a saturation. -/
structure Conv where
  code : Nat
  sat : Bool
  deriving DecidableEq, Repr

/-- Sign bit of a format as a number. -/
def signBit (f : Nat) (neg : Bool) : Nat := if neg then 2 ^ (fmtBits f - 1) else 0

/-- NaN code (Table 7-6). -/
def nanCode (f : Nat) : Nat :=
  match f with
  | 0 => 0x7FC00000
  | 1 => 0x7FC0
  | 2 => 0x7E00
  | 3 | 4 => 0x7F
  | 5 => 0x80
  | 6 => 0xFF
  | _ => 8

/-- Code of an infinity of a format that has one. -/
def infCode (f : Nat) (neg : Bool) : Nat :=
  let L := floatFmt f
  (2 ^ (L.bits - 1 - L.frac) - 1) * 2 ^ L.frac + signBit f neg

/-- An infinite y (Table 7-6). -/
def convInf (f : Nat) (sat neg : Bool) : Nat :=
  match f with
  | 0 | 1 | 2 => infCode f neg
  | 3 => if sat then 0x7B + signBit 3 neg else infCode 3 neg
  | 4 => 0x7F + signBit 4 neg
  | 5 => 0x80
  | 6 => 0xFF
  | _ => 8

/-- A finite y that overflows (Table 7-6). -/
def convOver (f : Nat) (sat neg : Bool) : Nat :=
  match f with
  | 0 | 1 | 2 => infCode f neg
  | 3 => if sat then 0x7B + signBit 3 neg else infCode 3 neg
  | 4 => 0x7E + signBit 4 neg
  | 5 => if neg then 0x81 else 0x7F
  | 6 => 0xFE
  | _ => if neg then 15 else 7

/-- The largest L8 code from 0 to 255 whose value is at most `m × 2^e`; `n` counts codes still to try. -/
def l8Floor (m : Nat) (e : Int) : Nat → Nat
  | 0 => 0
  | n + 1 => if magCmp (l8Mag (n + 1)).1 (l8Mag (n + 1)).2 m e != .gt then n + 1 else l8Floor m e n

/-- The L8 value of a position 0 to 255 as a dyadic. -/
def l8Pos (c : Nat) : Nat × Int := if c = 0 then (0, -40) else l8Mag c

/-- Rounds a positive magnitude to an L8 position, 255 meaning overflow (R140, R142). -/
def l8Round (m : Nat) (e : Int) (draw : Option Nat) : Nat :=
  let c := l8Floor m e 255
  if c = 255 then 255
  else
    let a := l8Pos c
    let b := l8Pos (c + 1)
    let e0 := min e (min a.2 b.2)
    let y := shiftI m (e - e0)
    let av := shiftI a.1 (a.2 - e0)
    let bv := shiftI b.1 (b.2 - e0)
    match draw with
    | some d => if d % 65536 < ((y - av) * 65536) / (bv - av) then c + 1 else c
    | none =>
      if 2 * y < av + bv then c
      else if 2 * y > av + bv then c + 1
      else if c % 2 = 0 then c else c + 1

/-- Rounds a finite non-zero magnitude to a float format, I8 or K4: units and quantum. -/
def roundUnits (f : Nat) (m : Nat) (e : Int) (draw : Option Nat) : Nat × Int :=
  let q : Int := if f = fI8 then 0 else max (msbExp m e - (floatFmt f).frac) (qMin f)
  (match draw with | some d => stochUnits m e q d | none => rneUnits m e q, q)

/-- Conversion of `y` (already scaled) to an unscaled code (R140-R142, Table 7-6), with flushing under FTZ (R138). `draw`
is the element's 32-bit draw when rounding is stochastic. -/
def convertCode (z : Bool) (f : Nat) (sat : Bool) (draw : Option Nat) (y : Val) : Fl Conv :=
  match y with
  | .nan => pure ⟨nanCode f, false⟩
  | .inf n => pure ⟨convInf f sat n, false⟩
  | .fin n m e =>
    if m = 0 then pure ⟨if f ≤ fE4M3 then signBit f n else 0, false⟩
    else if f = fL8 then
      if n then pure ⟨0xFF, false⟩
      else
        let c := l8Round m e draw
        pure (if c = 255 then ⟨0xFE, true⟩ else ⟨c, false⟩)
    else
      let r := roundUnits f m e draw
      if magCmp r.1 r.2 (fmax f).1 (fmax f).2 == .gt then pure ⟨convOver f sat n, true⟩
      else if r.1 = 0 then pure ⟨if f ≤ fE4M3 then signBit f n else 0, false⟩
      else if f = fI8 then pure ⟨if n then 256 - r.1 else r.1, false⟩
      else
        let c := encodeMag f r.1 r.2
        if z && isSubnormalCode f c then do countFlush; pure ⟨signBit f n, false⟩
        else pure ⟨c + signBit f n, false⟩

/-- Conversion with the scale 2^-k: y = x × 2^k (R139). -/
def convert (z : Bool) (f : Nat) (sat : Bool) (draw : Option Nat) (k : Int) (x : Val) : Fl Conv :=
  convertCode z f sat draw (x.scale k)

/-- The largest k with M × 2^k ≤ fmax / 2^margin, clamped; 0 for M = 0 (R145). -/
def fitK (f margin : Nat) (mx : Val) : Int :=
  match mx with
  | .fin _ m e =>
    if m = 0 then 0
    else
      let F := fmax f
      let k0 : Int := msbExp F.1 F.2 - margin - msbExp m e
      let k := if magCmp m (e + k0) F.1 (F.2 - margin) == .gt then k0 - 1 else k0
      max (-127) (min 127 k)
  | _ => 0

/-- The scale byte of 2^-k (R145). -/
def scaleByteOf (k : Int) : Nat := (127 - k).toNat

/-- The magnitude of a source rounded upwards to F32 (R144). -/
def absUpF32 (x : Val) : Val :=
  match x with
  | .fin _ m e =>
    if m = 0 then .fin false 0 0
    else
      let q := max (msbExp m e - 23) (-149)
      let n := if q ≤ e then m <<< (e - q).toNat else (m + 2 ^ (q - e).toNat - 1) >>> (q - e).toNat
      if 128 ≤ msbExp n q then .inf false else .fin false n q
  | v => v.abs

end Sys2Proof.Machine
end

