-- ==== Sys2Proof/Machine/Rules.lean ====
section
/-!
DEFINITION. The update rules of the crane: powers and group factors (R245), ADW, MOM, SGN and TPC per element and per tile
(R246-R251), storing weights and moments (R252-R254), norm buckets (R189) and CRC-64 (R223).
-/
namespace Sys2Proof.Machine

/-- Rule codes (Table 12-1). -/
abbrev rADW : Nat := 1
abbrev rMOM : Nat := 2
abbrev rSGN : Nat := 3
abbrev rTPC : Nat := 4

/-! ### CRC-64 (R223) -/

/-- Eight shift steps of the CRC register. -/
def crcShift : Nat → BitVec 64 → BitVec 64
  | 0, r => r
  | n + 1, r => crcShift n (if r.getMsbD 0 then (r <<< 1) ^^^ 0x42F0E1EBA9EA3693#64 else r <<< 1)

/-- One byte into the CRC. -/
def crcByte (r : BitVec 64) (b : Byte) : BitVec 64 := crcShift 8 (r ^^^ (b.zeroExtend 64 <<< 56))

/-- CRC-64 of ECMA-182, initial value 0, no reflection, no final XOR (R223). -/
def crc64 (bs : List Byte) : BitVec 64 := bs.foldl crcByte 0

/-! ### Norm buckets (R189, R190) -/

/-- Significand and step of an H16 or B16 code (Table 9-7); none for zeros and non-finite codes. -/
def bucketOf (f code : Nat) : Option (Nat × Nat) :=
  let fr := if f = fH16 then 10 else 7
  let ebits := if f = fH16 then 5 else 8
  let off := if f = fH16 then 25 else 134
  let ex := (code >>> fr) % 2 ^ ebits
  let fc := code % 2 ^ fr
  if ex = 2 ^ ebits - 1 then none
  else if ex = 0 then (if fc = 0 then none else some (133 + 1 - off, fc * fc))
  else some (133 + ex - off, (fc + 2 ^ fr) * (fc + 2 ^ fr))

/-- N of a vector in units of 2^(-266): Σ S_b × 2^(2b) (R189). -/
def normUnits (t : Table Nat) : Nat := t.foldl (fun n e => n + e.2 * 4 ^ (e.1 % 256)) 0

/-- √N rounded once to F32 (R189), from units of 2^(-266). -/
def normVal (units : Nat) : Val := sqrtVal (.fin false units (-266))

/-- The buckets of a vector as a list of 256 sums. -/
def bucketList (t : Table Nat) : List Nat := (List.range 256).map fun b => tget t b 0

/-- Normalisation with a carry into the next bucket, and whether bucket 255 saturates (R190). -/
def normCarry : Nat → List Nat → List Nat × Bool
  | _, [] => ([], false)
  | c, [x] => if x + c ≥ 70368744177664 then ([70368744177663], true) else ([x + c], false)
  | c, x :: y :: t =>
    let r := normCarry (((x + c) / 70368744177664) * 17592186044416) (y :: t)
    ((x + c) % 70368744177664 :: r.1, r.2)

/-- The sent vector and the count it adds to the non-finite word (R190). -/
def normalise (v : List Nat) : List Nat × Bool := normCarry 0 v

/-! ### Constants and factors -/

/-- What the rule reads for one group and tensor. -/
structure RuleIn where
  rule : Nat
  z : Bool                 -- HB_FTZ.CRANE
  nesterov : Bool
  beta1 : Val
  beta2 : Val
  eps : Val
  lam : Val
  delta : Val
  pivot : Val
  eta : Val
  c : Val
  ls : Nat
  ob1 : Val
  ob2 : Val
  a1 : Val
  a2 : Val
  d1 : Val
  d2 : Val
  dw : Val
  deriving DecidableEq, Repr

/-- The steps of pow_f32 from bit `n - 1` down (R245). -/
def powSteps (z : Bool) (b : Val) (k : Nat) : Nat → Val → Fl Val
  | 0, r => pure r
  | n + 1, r => do
    let r1 ← fmul z r r
    let r2 ← if bit k n then fmul z r1 b else pure r1
    powSteps z b k n r2

/-- pow_f32(b, k) (R245). -/
def powF32 (z : Bool) (b : Val) (k : Nat) : Fl Val := powSteps z b k 32 .one

/-- A bias correction factor: rne(1 / rne(1 − pow_f32(β, T'))) (Table 12-5). -/
def biasFactor (z : Bool) (b : Val) (t : Nat) : Fl Val := do
  let p ← powF32 z b t
  let d ← fsub z .one p
  fdiv z .one d

/-- The decay factor DW (Table 12-5). -/
def decayFactor (z : Bool) (eta lam : Val) (k : Nat) : Fl Val := do
  let p ← fmul z eta lam
  let b ← fsub z .one p
  powF32 z b k

/-! ### Element rules -/

/-- New moments and weight of an element. -/
structure ElemOut where
  wn : Val
  mn : Val
  vn : Val
  deriving DecidableEq, Repr

/-- wn := rne(w − rne(η × d)). -/
def stepWeight (k : RuleIn) (w d : Val) : Fl Val := do
  let p ← fmul k.z k.eta d
  fsub k.z w p

/-- ADW (R246). -/
def adw (k : RuleIn) (w m v gh : Val) : Fl ElemOut := do
  let m1 ← fmul k.z k.beta1 m
  let m2 ← fmul k.z k.ob1 gh
  let mn ← fadd k.z m1 m2
  let gg ← fmul k.z gh gh
  let v1 ← fmul k.z k.beta2 v
  let v2 ← fmul k.z k.ob2 gg
  let vn ← fadd k.z v1 v2
  let mh ← fmul k.z mn k.a1
  let vh ← fmul k.z vn k.a2
  let sq ← fsqrt k.z vh
  let den ← fadd k.z sq k.eps
  let q ← fdiv k.z mh den
  let lw ← fmul k.z k.lam w
  let d ← fadd k.z q lw
  let wn ← stepWeight k w d
  pure ⟨wn, mn, vn⟩

/-- MOM (R247). -/
def mom (k : RuleIn) (w m gh : Val) : Fl ElemOut := do
  let m1 ← fmul k.z k.beta1 m
  let mn ← fadd k.z m1 gh
  let d ← if k.nesterov then do
      let b ← fmul k.z k.beta1 mn
      fadd k.z gh b
    else pure mn
  let lw ← fmul k.z k.lam w
  let e ← fadd k.z d lw
  let wn ← stepWeight k w e
  pure ⟨wn, mn, .zero⟩

/-- The sign of q as a value (R248). -/
def signVal (q : Val) : Val :=
  if q.isNan then .nan else if q.isZero then .zero else if q.isNeg then Val.one.neg else .one

/-- SGN (R248). -/
def sgn (k : RuleIn) (w m gh : Val) : Fl ElemOut := do
  let q1 ← fmul k.z k.beta1 m
  let q2 ← fmul k.z k.ob1 gh
  let q ← fadd k.z q1 q2
  let m1 ← fmul k.z k.beta2 m
  let m2 ← fmul k.z k.ob2 gh
  let mn ← fadd k.z m1 m2
  let lw ← fmul k.z k.lam w
  let e ← fadd k.z (signVal q) lw
  let wn ← stepWeight k w e
  pure ⟨wn, mn, .zero⟩

/-! ### TPC (R249-R251) -/

/-- Element of a list of values. -/
def vAt (l : List Val) (i : Nat) : Val := l.getD i .zero

/-- Index of entry (i, j), i ≤ j, of an upper triangle of eight rows (R242). -/
def triIdx (i j : Nat) : Nat := 8 * i - i * (i - 1) / 2 + (j - i)

/-- Entry of a symmetric matrix held as its upper triangle. -/
def symAt (f : List Val) (i j : Nat) : Val := vAt f (triIdx (min i j) (max i j))

/-- The pairs (i, j), i ≤ j, in the order of `triIdx`. -/
def triPairs : List (Nat × Nat) := (List.range 8).flatMap fun i => (upFrom i (8 - i)).map fun j => (i, j)

/-- A sum in list order (R244). -/
def sumFrom (z : Bool) : Val → List Val → Fl Val
  | a, [] => pure a
  | a, x :: t => do
    let b ← fadd z a x
    sumFrom z b t

def sumVals (z : Bool) : List Val → Fl Val
  | [] => pure .zero
  | x :: t => sumFrom z x t

/-- Sum of rounded products in increasing index order. -/
def dotVals (z : Bool) (a b : List Val) : Fl Val := do
  let ps ← (a.zip b).mapM fun p => fmul z p.1 p.2
  sumVals z ps

/-- β F + ob G, rounded as R247 does. -/
def blend (z : Bool) (b f ob g : Val) : Fl Val := do
  let x ← fmul z b f
  let y ← fmul z ob g
  fadd z x y

def rowOf (m : List Val) (i : Nat) : List Val := (List.range 8).map fun j => vAt m (8 * i + j)
def colOf (m : List Val) (j : Nat) : List Val := (List.range 8).map fun i => vAt m (8 * i + j)

/-- B16 of a factor entry, nearest even; an overflow is stored as the largest finite B16 (R249, R252). -/
def factorCode (z : Bool) (v : Val) : Fl Conv := do
  let r ← convert z fB16 false none 0 v
  pure (if r.code = 0x7F80 ∨ r.code = 0xFF80 then ⟨r.code - 1, true⟩ else r)

/-- One diagonal or off-diagonal reduction: x := rne(x − rne(a_k × b_k)) for rising k. -/
def reduceBy (z : Bool) : Val → List (Val × Val) → Fl Val
  | x, [] => pure x
  | x, (a, b) :: t => do
    let p ← fmul z a b
    let y ← fsub z x p
    reduceBy z y t

/-- A lower triangle by rows, as a list of rows built so far (row i has entries 0..i filled as columns complete). The
columns are formed in order j = 0..7 (R250): `l` holds columns; column j holds rows j..7. -/
abbrev Cols := List (List Val)

/-- l[i][k] from the columns. -/
def lAt (l : Cols) (i k : Nat) : Val := vAt (l.getD k []) (i - k)

/-- One column of the factorisation; none where it fails (R250). -/
def cholCol (z : Bool) (a : Nat → Nat → Val) (tau : Val) (l : Cols) (j : Nat) : Fl (Option (List Val)) := do
  let dj ← reduceBy z (a j j) ((List.range j).map fun k => (lAt l j k, lAt l j k))
  if dj.isNan || dj.lt tau then pure none
  else do
    let d ← fsqrt z dj
    let rest ← (upFrom (j + 1) (7 - j)).mapM fun i => do
      let x ← reduceBy z (a i j) ((List.range j).map fun k => (lAt l i k, lAt l j k))
      fdiv z x d
    pure (some (d :: rest))

/-- The columns from j on; `n` counts those left. -/
def cholFrom (z : Bool) (a : Nat → Nat → Val) (tau : Val) : Nat → Cols → Fl (Option Cols)
  | 0, l => pure (some l)
  | n + 1, l => do
    let c ← cholCol z a tau l l.length
    match c with
    | none => pure none
    | some col => cholFrom z a tau n (l ++ [col])

/-- Attempts a, … , 3 with δ 2^a (R250); `n` counts those left. -/
def attempts (z : Bool) (f : List Val) (delta tau : Val) : Nat → Nat → Fl (Option Cols)
  | 0, _ => pure none
  | n + 1, a => do
    let d := delta.scale a
    let diag ← (List.range 8).mapM fun i => fadd z (symAt f i i) d.round
    let r ← cholFrom z (fun i j => if i = j then vAt diag i else symAt f i j) tau 8 []
    match r with
    | some l => pure (some l)
    | none => attempts z f delta tau n (a + 1)

/-- Factors one of P′, Q′; none where it falls back (R250, R251). -/
def factorize (k : RuleIn) (f : List Val) : Fl (Option Cols) := do
  let tr ← sumVals k.z ((List.range 8).map fun i => symAt f i i)
  let t8 ← fdiv k.z tr (.fin false 8 0)
  if t8.isZero || !t8.isFinite then pure none
  else do
    let d ← fmul k.z k.delta t8
    let tau ← fmul k.z k.pivot t8
    attempts k.z f d tau 4 0

/-- Forward solve L y = b, i ascending. -/
def fwdSolve (z : Bool) (l : Cols) : List Val → List Val → Fl (List Val)
  | [], y => pure y
  | b :: t, y => do
    let i := y.length
    let x ← reduceBy z b ((List.range i).map fun k => (lAt l i k, vAt y k))
    let q ← fdiv z x (lAt l i i)
    fwdSolve z l t (y ++ [q])

/-- Backward solve Lᵀ x = y, i descending; `n` rows are left and `x` holds rows n..7. -/
def bwdSolve (z : Bool) (l : Cols) (y : List Val) : Nat → List Val → Fl (List Val)
  | 0, x => pure x
  | n + 1, x => do
    let v ← reduceBy z (vAt y n) ((List.range (7 - n)).map fun d => (lAt l (n + 1 + d) n, vAt x d))
    let q ← fdiv z v (lAt l n n)
    bwdSolve z l y n (q :: x)

/-- Solves L Lᵀ x = b. -/
def cholSolve (z : Bool) (l : Cols) (b : List Val) : Fl (List Val) := do
  let y ← fwdSolve z l b []
  bwdSolve z l y 8 []

/-- Transposes an 8×8 matrix held by rows. -/
def transpose8 (m : List Val) : List Val := (List.range 64).map fun i => vAt m (8 * (i % 8) + i / 8)

/-- Scales U to unit RMS (R250). A non-finite RMS is a non-finite value that the scaling produces (R251): every entry is then
NaN. -/
def unitRms (z : Bool) (u : List Val) : Fl (List Val) := do
  let s ← dotVals z u u
  let q ← fdiv z s (.fin false 64 0)
  let rms ← fsqrt z q
  if rms.isZero then pure (List.replicate 64 .zero)
  else if !rms.isFinite then pure (List.replicate 64 .nan)
  else do
    let r ← fdiv z .one rms
    u.mapM fun x => fmul z x r

/-- The fallback U (R251). -/
def fallbackU (k : RuleIn) (p q m : List Val) : Fl (List Val) := do
  let u ← (List.range 64).mapM fun x => do
    let sp ← fsqrt k.z (symAt p (x / 8) (x / 8))
    let sq ← fsqrt k.z (symAt q (x % 8) (x % 8))
    let h ← fmul k.z sp sq
    let sh ← fsqrt k.z h
    let den ← fadd k.z sh k.eps
    fdiv k.z (vAt m x) den
  let v ← unitRms k.z u
  pure (if v.all (·.isFinite) then v else List.replicate 64 .zero)

/-- What TPC gives for one tile. -/
structure TileOut where
  w : List Val             -- new weights
  m : List Val             -- M′
  p : List Conv            -- P′ codes
  q : List Conv
  fell : Bool
  deriving DecidableEq, Repr

/-- One tile under TPC (R249-R251). `w`, `m`, `g` hold 64 values, `p` and `q` 36. -/
def tpcTile (k : RuleIn) (w m p q g : List Val) : Fl TileOut := do
  let mn ← (m.zip g).mapM fun x => blend k.z k.beta1 x.1 k.ob1 x.2
  let pn ← triPairs.mapM fun ij => do
    let s ← dotVals k.z (rowOf g ij.1) (rowOf g ij.2)
    blend k.z k.beta2 (symAt p ij.1 ij.2) k.ob2 s
  let qn ← triPairs.mapM fun ij => do
    let s ← dotVals k.z (colOf g ij.1) (colOf g ij.2)
    blend k.z k.beta2 (symAt q ij.1 ij.2) k.ob2 s
  let pc ← pn.mapM (factorCode k.z)
  let qc ← qn.mapM (factorCode k.z)
  let pd := pc.map fun c => decodeCode fB16 c.code
  let qd := qc.map fun c => decodeCode fB16 c.code
  let lp ← factorize k pd
  let lq ← factorize k qd
  let solved ← match lp, lq with
    | some a, some b => do
      let xc ← (List.range 8).mapM fun j => cholSolve k.z a (colOf mn j)
      let x := transpose8 xc.flatten
      let yr ← (List.range 8).mapM fun i => cholSolve k.z b (rowOf x i)
      let u := yr.flatten
      let v ← unitRms k.z u
      pure (if x.all (·.isFinite) && u.all (·.isFinite) && v.all (·.isFinite) then some v else none)
    | _, _ => pure none
  let u ← match solved with
    | some v => pure v
    | none => fallbackU k pd qd mn
  let wn ← (w.zip u).mapM fun x => do
    let lw ← fmul k.z k.lam x.1
    let e ← fadd k.z x.2 lw
    stepWeight k x.1 e
  pure ⟨wn, mn, pc, qc, solved.isNone⟩

/-! ### Storing (R252-R254) -/

/-- A new weight to B16, stochastically; a result that would be infinite takes the largest finite B16 (R252). A NaN kept by
the guard is 0x7FC0 (R254). -/
def weightCode (z : Bool) (draw : Nat) (wn : Val) : Fl Conv := do
  let r ← convert z fB16 false (some draw) 0 wn
  pure (if r.code = 0x7F80 ∨ r.code = 0xFF80 then ⟨r.code - 1, true⟩ else r)

/-- A moment's code: no NaN code is stored, an overflow takes the largest finite code (R253, R254). -/
def momentCode (z : Bool) (f : Nat) (draw : Option Nat) (k : Int) (v : Val) : Fl Conv :=
  match v with
  | .nan => pure ⟨0, false⟩
  | .inf n => pure ⟨if f = fL8 then 0xFE else if n then 0x81 else 0x7F, true⟩
  | v => convert z f false draw k v

/-- The largest finite magnitude of a list; NaN and infinities stay out (R145, R254). -/
def largestFinite (l : List Val) : Val :=
  l.foldl (fun a x => match x with | .fin _ _ _ => if a.lt x.abs then x.abs else a | _ => a) .zero

/-- The scale exponent fitted over a parcel (R145). -/
def fitParcel (f margin : Nat) (l : List Val) : Int := fitK f margin (largestFinite l)

/-- u of an element (R235): new weight minus old, exact, rounded once to B16; magnitudes beyond take the largest
finite B16. -/
def updateCode (wOld wNew : Val) : Nat :=
  let r := ((convert false fB16 false none 0 (addExact wNew wOld.neg)).run 0).1.code
  if r = 0x7F80 ∨ r = 0xFF80 then r - 1 else r

end Sys2Proof.Machine
end

