-- ==== Sys2Proof/Machine/Tensor.lean ====
section
/-!
DEFINITION. Tensor descriptors: their creation and end, running maxima and turns (R143-R146), and convert-on-store (R147).
-/
namespace Sys2Proof.Machine

open Sys2Proof

/-! ### Shared helpers of the arithmetic engines -/

/-- The engine classes of HB_FTZ (Table 7-9). -/
abbrev clCrane : Nat := 0
abbrev clTug : Nat := 1
abbrev clBerth : Nat := 2
abbrev clExport : Nat := 3
abbrev clLanding : Nat := 4
abbrev clDispatch : Nat := 5

/-- The FTZ bit of a class in a value of HB_FTZ (Table 7-9). -/
def ftzAt (v cl : Nat) : Bool := bits v cl cl == 1

/-- The FTZ bit of a class. -/
def ftzOf (s : State) (cl : Nat) : Bool := ftzAt (regW s rHbFtz) cl

/-- Records that a class flushed `n` values (R138, Table 7-10). -/
def noteFlush (s : State) (cl n : Nat) : State := if n = 0 then s else setFld s rHbFlushed cl cl 1

/-- The job seed in force (R159). -/
def jobSeed (s : State) : BitVec 128 := BitVec.ofNat 128 (regW s rHbKwSeed0 + regW s rHbKwSeed1 * 18446744073709551616)

/-- A free number below a bound, and the value drawn for the choice (log entry 12). -/
def pickFree (s : State) (bound : Nat) (used : List Nat) : State × Option Nat :=
  let l := (List.range bound).filter fun n => n ∉ used
  if l.isEmpty then (s, none) else ({ s with free := s.free + 1 }, l[Config.pick s.free % l.length]?)

/-! ### Turns (R145, R146) -/

/-- The per-tensor scale byte of a history (R145). -/
def TDesc.fitScale (d : TDesc) : Byte :=
  BitVec.ofNat 8 (scaleByteOf (fitK d.format d.margin (d.hist.foldl (fun m x => maxVal m (ofF32 x)) .zero)))

/-- The bytes of a turn record (Table 7-8) for the round that ended and the scale and round now in force. -/
def turnRecord (old new : TDesc) : List Byte :=
  leBytes 4 old.rmax.toNat ++ [new.scaleByte, old.scaleByte] ++ leBytes 2 0 ++ leBytes 8 new.round ++
  leBytes 8 old.converted ++ leBytes 4 (min old.saturated 4294967295) ++ leBytes 4 (min old.nonfinite 4294967295)

/-- The descriptor after a turn. -/
def TDesc.turned (d : TDesc) : TDesc :=
  let d1 := { d with hist := d.rmax :: d.hist.take 15, round := d.round + 1, rmax := 0, converted := 0, saturated := 0,
                     nonfinite := 0 }
  { d1 with scaleByte := d1.fitScale }

/-- Turns a descriptor (R146). One that does not exist is left alone. -/
def turnTd (s : State) (n : Nat) : State :=
  match tget? s.tds n with
  | none => s
  | some d =>
    let s1 := { s with tds := tset s.tds n d.turned }
    if d.statusEn then writeBytes s1 d.status (turnRecord d d.turned) else s1

/-- The turns at each commit or skip of a set (TURN 0, R143). -/
def turnSet (s : State) (n : Nat) : State :=
  (s.tds.filter fun e => e.2.turn == 0 && e.2.pset == n).foldl (fun s' e => turnTd s' e.1) s

/-! ### Convert-on-store (R147) -/

/-- Bytes of a window: two for each element, in whole grains. -/
def TDesc.windowBytes (d : TDesc) : Nat := ceilDiv (2 * d.elements) 32 * 32

/-- The descriptor whose window holds a home address. -/
def cosAt? (s : State) (home : Nat) : Option (Nat × TDesc) :=
  s.tds.find? fun e => e.2.cos && decide (e.2.window ≤ home ∧ home < e.2.window + e.2.windowBytes)

/-- Converts one element into a descriptor's tensor: its code, the descriptor with its counts, and the values flushed
(R140-R145). -/
def convertElem (ftz : Bool) (seed : BitVec 128) (d : TDesc) (i : Nat) (x : Val) : Fl (Nat × TDesc) := do
  let draw := if d.stoch then some (kwDraw seed d.tensorId (d.round % 2 ^ 48) i 0x01) else none
  let c ← convert ftz d.format d.sat draw (127 - (d.scaleByte.toNat : Int)) x
  let fin := x.isFinite
  pure (c.code,
    { d with rmax := if fin then toF32 (maxVal (ofF32 d.rmax) (absUpF32 x)) else d.rmax,
             nonfinite := if fin then d.nonfinite else d.nonfinite + 1,
             saturated := if c.sat then d.saturated + 1 else d.saturated,
             converted := d.converted + 1 })

/-- What the conversion of one source grain leaves: codes, the scale byte of the last conversion, the descriptor, and the
turn records that fell due. -/
structure CosOut where
  codes : List Nat
  scale : Byte
  desc : TDesc
  turns : List (List Byte)
  deriving DecidableEq, Repr

/-- Converts the elements i, i+1, … in order; under TURN 1 the conversion that reaches ELEMENTS ends its round (R146). -/
def convertElems (ftz : Bool) (seed : BitVec 128) : List Val → Nat → CosOut → Fl CosOut
  | [], _, o => pure o
  | x :: t, i, o => do
    let r ← convertElem ftz seed o.desc i x
    let o1 := { o with codes := o.codes ++ [r.1], scale := o.desc.scaleByte, desc := r.2 }
    let o2 :=
      if r.2.turn = 1 ∧ r.2.converted = r.2.elements then
        { o1 with desc := r.2.turned, turns := o.turns ++ [turnRecord r.2 r.2.turned] }
      else o1
    convertElems ftz seed t (i + 1) o2

/-- Packs K4 codes two to a byte; `keep` is the high nibble kept beside an odd last code (R132). -/
def packK4 : List Nat → Nat → List Byte
  | [], _ => []
  | [a], keep => [BitVec.ofNat 8 (a + 16 * keep)]
  | a :: b :: t, keep => BitVec.ofNat 8 (a + 16 * b) :: packK4 t keep

/-- One byte as a decode would deliver it, without effects. -/
def peekByte (s : State) (a : Nat) : Nat :=
  let home := homeAddr s.part (a / 32 * 32)
  (grainByte ((decodedGrain s home).getD (rawGrain s home)) (a % 32)).toNat

/-- First byte of element i of a descriptor's tensor. -/
def TDesc.elemAddr (d : TDesc) (i : Nat) : Nat := d.base + i * fmtBits d.format / 8

/-- The bytes of codes stored from element i on. -/
def cosBytes (s : State) (d : TDesc) (i : Nat) (codes : List Nat) : List Byte :=
  if d.format = fK4 then packK4 codes (peekByte s (d.elemAddr (i + codes.length - 1)) / 16)
  else codes.map (BitVec.ofNat 8)

/-- Makes the grains that [a, a+n) touches poison (R147, R49). -/
def poisonRange (s : State) (a n : Nat) : State :=
  (grainsOf a n).foldl (fun s' g => storePoison s' (homeAddr s'.part g)) s

/-- Writes one source grain of a descriptor's window (R147). A poisoned source grain stores poison and nothing else: it adds
nothing to CONVERTED, RMAX or NONFINITE, and the scale byte of its parcel stays as it is (DESIGN CHOICE, log entry 103). -/
def cosWriteGrain (s : State) (n : Nat) (d : TDesc) (home : Nat) (w : Codeword) : State :=
  let i := (home - d.window) / 2
  let cnt := min 16 (d.elements - i)
  if cnt = 0 then s
  else
    match classify false (deltaOf w) with
    | .uncorrectable | .poison => poisonRange s (d.elemAddr i) (ceilDiv (cnt * fmtBits d.format) 8)
    | cl =>
      let g := match cl with | .corrected m => w.data ^^^ m | _ => w.data
      let z := ftzOf s clTug
      let xs : Fl (List Val) := (List.range cnt).mapM fun j => fdecode1 z fB16 (bits g.toNat (16 * j + 15) (16 * j))
      let r := (do
        let vs ← xs
        convertElems z (jobSeed s) vs i { codes := [], scale := d.scaleByte, desc := d, turns := [] }).run 0
      let s1 := writeBytes s (d.elemAddr i) (cosBytes s d i r.1.codes)
      let s2 := writeBytes s1 (d.scales + i / 32) [r.1.scale]
      let s3 := noteFlush { s2 with tds := tset s2.tds n r.1.desc } clTug r.2
      if d.statusEn then r.1.turns.foldl (fun s' b => writeBytes s' d.status b) s3 else s3

/-- Whether the elements i … i+cnt-1 and their scale byte can be read. -/
def cosReadable (s : State) (d : TDesc) (i cnt : Nat) : State × Bool :=
  let r := readBytes s (d.elemAddr i) (ceilDiv (cnt * fmtBits d.format) 8)
  let q := readBytes r.1 (d.scales + i / 32) 1
  (q.1, !r.2.2 && !q.2.2)

/-- The code of element i of a descriptor's tensor. -/
def TDesc.codeAt (s : State) (d : TDesc) (i : Nat) : Nat :=
  let b := peekByte s (d.elemAddr i)
  if d.format = fK4 then (if i % 2 = 0 then b % 16 else b / 16) else b

/-- Reads one grain of a descriptor's window: each element decoded and rounded to B16 (R147). Bytes of the last grain beyond
element ELEMENTS - 1 read as zero (DESIGN CHOICE, log entry 103). -/
def cosReadGrain (s : State) (d : TDesc) (home : Nat) : State × GrainRead :=
  let i := (home - d.window) / 2
  let cnt := min 16 (d.elements - i)
  let r := cosReadable s d i cnt
  if !r.2 then (r.1, ⟨poisonOf 0, true⟩)
  else
    let z := ftzOf s clTug
    let sc := peekByte s (d.scales + i / 32)
    let cs := ((List.range cnt).mapM fun j => do
      let x ← fdecode z d.format (d.codeAt s (i + j)) sc
      convert z fB16 false none 0 x).run 0
    (noteFlush r.1 clTug cs.2, ⟨codewordOf (bytesGrain (cs.1.flatMap fun c => leBytes 2 c.code)), false⟩)

/-! ### TD_CREATE and TD_DESTROY (R143) -/

def tdCreateLayout : List Named :=
  [(8, 39, 0), (9, 43, 0), (10, 43, 0), (11, 43, 0), (11, 63, 63), (12, 43, 0), (12, 63, 63), (13, 2, 0), (13, 17, 8),
   (13, 27, 24), (13, 63, 32), (14, 31, 0)]

/-- The descriptor that TD_CREATE parameters describe (Table 7-7, R144). -/
def tdOfPacket (p : CmdPkt) : TDesc :=
  let d : TDesc :=
    { elements := p.at 64 5, base := p.at 72 8 % 2 ^ 44, scales := p.at 80 8 % 2 ^ 44, window := p.at 88 8 % 2 ^ 44,
      cos := bit (p.at 88 8) 63, status := p.at 96 8 % 2 ^ 44, statusEn := bit (p.at 96 8) 63,
      format := p.at 104 1 % 8, scaling := p.at 105 1, margin := p.at 106 1 % 4, stoch := bit (p.at 107 1) 0,
      sat := bit (p.at 107 1) 1, turn := bits (p.at 107 1) 3 2, tensorId := p.at 108 2, pset := p.at 110 2,
      hist := BitVec.ofNat 32 (p.at 112 4) :: List.replicate 15 0, rmax := 0, round := 0, converted := 0, saturated := 0,
      nonfinite := 0, scaleByte := 0x7F }
  { d with scaleByte := d.fitScale }

/-- Bytes that a descriptor's elements and scale bytes take. -/
def TDesc.dataBytes (d : TDesc) : Nat := ceilDiv (d.elements * fmtBits d.format) 8
def TDesc.scaleBytes (d : TDesc) : Nat := ceilDiv d.elements 32

/-- Whether a range leaves its region (R29). -/
def leavesRegion (s : State) (a n : Nat) : Bool := (regionOfRange s.part a n).isNone

/-- BAD_PARAM faults of TD_CREATE. -/
def tdParams (s : State) (p : CmdPkt) (d : TDesc) : List (Bool × Nat) :=
  let im := ofF32 (BitVec.ofNat 32 (p.at 112 4))
  [(decide (d.base % 32 ≠ 0) || leavesRegion s d.base d.dataBytes, 9),
   (d.scaling != 0 && leavesRegion s d.scales d.scaleBytes, 10),
   (d.cos && (decide (d.window % 32 ≠ 0) || leavesRegion s d.window d.windowBytes), 11),
   (d.statusEn && (decide (d.status % 32 ≠ 0) || leavesRegion s d.status 32), 12),
   (decide (2 < d.scaling) || d.turn == 3 || (d.turn == 0 && (setOf? s d.pset).isNone), 13),
   (!im.isFinite || (im.isNeg && !im.isZero), 14)]

/-- BAD_DESCRIPTOR faults of TD_CREATE. -/
def tdDescr (s : State) (d : TDesc) : List (Bool × Nat) :=
  [(d.elements == 0, 8),
   (d.cos && (!inHostDram s d.window d.windowBytes ||
      s.tds.any (fun e => e.2.cos && overlaps e.2.window e.2.windowBytes d.window d.windowBytes)), 11),
   ((decide (d.format ≤ fH16) && d.scaling != 0) || (decide (fI8 ≤ d.format) && d.scaling == 0) ||
      (d.sat && d.format != fE5M2) ||
      (d.cos && (!(d.format ∈ [fE5M2, fE4M3, fK4]) || d.scaling != 1)), 13)]

/-- Whether TD_CREATE lacks a right (R143, R75). -/
def tdDenied (s : State) (p : CmdPkt) (d : TDesc) : Bool :=
  writeDenied s p d.base d.dataBytes || (d.scaling != 0 && writeDenied s p d.scales d.scaleBytes) ||
  (d.statusEn && writeDenied s p d.status 32) || (d.cos && !p.hasRight s rightWrite d.window d.windowBytes)

/-- TD_CREATE (R143). -/
def execTdCreate (cx : Nat) (s : State) : Answer :=
  .next <|
  match turnOf s cx 0x0104 with
  | none => s
  | some r =>
    let d := tdOfPacket r.pkt
    match checkFail r.pkt tdCreateLayout (tdParams s r.pkt d) (tdDescr s d) (tdDenied s r.pkt d) with
    | some (st, f) => completeBad s cx st f
    | none =>
      match pickFree s 65536 (s.tds.map (·.1)) with
      | (s1, none) => complete s1 cx stFULL 0
      | (s1, some n) => complete { s1 with tds := tset s1.tds n d } cx stDONE n

/-- TD_DESTROY (R143): BUSY while a set uses the descriptor, that is, while it turns at the commits of a resident set. -/
def execTdDestroy (cx : Nat) (s : State) : Answer :=
  .next <|
  match turnOf s cx 0x0105 with
  | none => s
  | some r =>
    let n := r.pkt.at 64 2
    match checkFail r.pkt [(8, 15, 0)] [((tget? s.tds n).isNone, 8)] [] false with
    | some (st, f) => completeBad s cx st f
    | none =>
      match tget? s.tds n with
      | none => s
      | some d =>
        if d.turn = 0 ∧ (setOf? s d.pset).isSome then complete s cx stBUSY 0
        else complete { s with tds := terase s.tds n } cx stDONE 0

end Sys2Proof.Machine
end

