-- ==== Sys2Proof/Machine/Store.lean ====
section
/-!
DEFINITION. Reads and writes of memory as a host port or a landing sees them: convert-on-store windows, beacons, command
windows; landed-notices and their watches (R108-R110).
-/
namespace Sys2Proof.Machine

open Sys2Proof

/-! ### Writes -/

/-- Performs a write of one grain at its home (R47, R49, R147). -/
def writeGrain (s : State) (a : Nat) (c : Codeword) : State :=
  let home := homeAddr s.part a
  match cosAt? s home with
  | some (n, d) => cosWriteGrain s n d home c
  | none => storeWord s home c

/-- Performs a write grain by grain. -/
def writeGrains : State → Nat → List Codeword → State
  | s, _, [] => s
  | s, a, c :: t => writeGrains (writeGrain s a c) (a + 32) t

/-- A write to memory, with the waits it meets on beacons and the packets it launches (R69, R113). -/
def writeMem (s : State) (port a : Nat) (ws : List Codeword) : State :=
  let s1 := writeGrains s a ws
  windowsWritten (beaconsWritten s1 a (32 * ws.length)) port a (32 * ws.length)

/-! ### Landed-notices (R108-R110) -/

/-- Sends a landed-notice, or widens the one of the same watch that waits for a credit (R109). Says whether one was
added. DESIGN CHOICE: a subscriber that a watch lists twice gets one notice, with MERGED set, while its port lacks a credit
(log entry 115; unsafe). -/
def sendNotice (s : State) (w a n : Nat) (sub : Nat × Nat) : State × Bool :=
  let old := s.host.egress.find? fun e =>
    match e.msg with
    | .notice en w' _ _ _ => e.port == sub.1 && en == sub.2 && w' == w
    | _ => false
  match old with
  | some e =>
    match e.msg with
    | .notice en w' a' n' _ =>
      let lo := min a a'
      let hi := max (a + 32 * n) (a' + 32 * n')
      let e1 := { e with msg := .notice en w' lo ((hi - lo) / 32) true }
      ({ s with host := { s.host with egress := s.host.egress.map fun x => if x = e then e1 else x } }, false)
    | _ => (s, false)
  | none => (sendPort s sub.1 .control (.notice sub.2 w a n false), true)

/-- Sends the notices of one watch to its subscribers. -/
def watchNotices (s : State) (w : Nat) (x : Watch) (a n : Nat) : State :=
  let r := x.subs.foldl (fun (p : State × Nat) sub =>
    let q := sendNotice p.1 w a n sub
    (q.1, p.2 + b2n q.2)) (s, 0)
  { r.1 with sync := { r.1.sync with watches := tset r.1.sync.watches w { x with sent := x.sent + r.2 } } }

/-- The notices of a landing at [a, a+n) of home addresses: one for each armed watch that it lies in (R109). -/
def noticeAt (s : State) (a n : Nat) : State :=
  s.sync.watches.foldl (fun s' e =>
    if overlaps a n e.2.base e.2.length then
      let lo := max a e.2.base
      let hi := min (a + n) (e.2.base + e.2.length)
      watchNotices s' e.1 e.2 lo ((hi - lo) / 32)
    else s') s

/-- A write that the landing engine performs (R109). -/
def landWrite (s : State) (a : Nat) (ws : List Codeword) : State :=
  noticeAt (beaconsWritten (writeGrains s a ws) a (32 * ws.length)) a (32 * ws.length)

/-! ### WATCH_SET and WATCH_CLEAR -/

def watchSetLayout : List Named := [(8, 11, 0), (9, 43, 0), (10, 43, 0), (11, 63, 0), (12, 63, 0)]

/-- Subscriber i: PORT and ENGINE (Table 5-2). -/
def watchSub (p : CmdPkt) (i : Nat) : Nat × Nat := let v := p.at (88 + 2 * i) 2; (bits v 6 0, bits v 14 7)

/-- Whether [a, a+n) is a region a watch or manifest may cover: wholly interleaved DRAM or wholly beacons. -/
def watchable (s : State) (a n : Nat) : Bool := regionOfRange s.part a n == some .dram || inBeacons a n

/-- BAD_PARAM faults of WATCH_SET (R108). -/
def watchParams (s : State) (p : CmdPkt) : List (Bool × Nat) :=
  let n := p.at 65 1 % 16
  let base := p.at 72 8 % 2 ^ 44
  let len := p.at 80 8 % 2 ^ 44
  let sub (i : Nat) : Bool :=
    bit (p.at (88 + 2 * i) 2) 15 ||
    (if n ≤ i then p.at (88 + 2 * i) 2 != 0 else decide (ports s.part ≤ (watchSub p i).1))
  [(decide (8 < n), 8), (decide (base % 512 ≠ 0) || !watchable s base len, 9), (decide (len % 512 ≠ 0), 10)] ++
  (List.range 8).map fun i => (sub i, 11 + i / 4)

/-- WATCH_SET (R108). -/
def execWatchSet (cx : Nat) (s : State) : Answer :=
  .next <|
  match turnOf s cx 0x0204 with
  | none => s
  | some r =>
    let p := r.pkt
    let n := p.at 65 1 % 16
    let base := p.at 72 8 % 2 ^ 44
    let len := p.at 80 8 % 2 ^ 44
    let subs := (List.range n).map (watchSub p)
    let denied := !p.hasRight s rightRead base len || subs.any (fun x => !p.portRight s x.1 rightRead base len)
    match checkFail p watchSetLayout (watchParams s p) [] denied with
    | some (st, f) => completeBad s cx st f
    | none =>
      if n = 0 ∨ len = 0 then complete s cx stDONE_EMPTY 0
      else if (tget? s.sync.watches (p.at 64 1)).isSome then complete s cx stBUSY 0
      else
        complete { s with sync := { s.sync with
          watches := tset s.sync.watches (p.at 64 1) { base := base, length := len, subs := subs, sent := 0 } } } cx stDONE 0

/-- Whether a notice of a watch still waits for a credit. -/
def noticeWaits (s : State) (w : Nat) : Bool :=
  s.host.egress.any fun e => match e.msg with | .notice _ w' _ _ _ => w' == w | _ => false

/-- WATCH_CLEAR: it waits until every notice of the watch has been sent (R110). -/
def execWatchClear (cx : Nat) (s : State) : Answer :=
  .next <|
  match turnOf s cx 0x0205 with
  | none => s
  | some r =>
    let p := r.pkt
    match checkFail p [(8, 7, 0)] [] [] false with
    | some (st, f) => completeBad s cx st f
    | none =>
      match tget? s.sync.watches (p.at 64 1) with
      | none => complete s cx stDONE 0
      | some x =>
        if noticeWaits s (p.at 64 1) then s
        else
          complete { s with sync := { s.sync with watches := terase s.sync.watches (p.at 64 1) } } cx stDONE x.sent

end Sys2Proof.Machine
end

