-- ==== Sys2Proof/Machine/Pset.lean ====
section
/-!
DEFINITION. Parameter sets: tensors and consignments (R241), slip layouts (R242), records and their rounds (R182, R211),
tallies (R180-R183) and finalisation (R178, R188, R189).
-/
namespace Sys2Proof.Machine

open Sys2Proof

/-! ### Sparse tables and dense lists -/

/-- The dense list of `n` entries from key `i` on. -/
def tdense {α : Type} : Table α → Nat → Nat → (Nat → α) → List α
  | _, _, 0, _ => []
  | [], i, n + 1, d => d i :: tdense [] (i + 1) n d
  | (k, v) :: t, i, n + 1, d =>
    if k = i then v :: tdense t (i + 1) n d
    else if k < i then d i :: tdense t (i + 1) n d
    else d i :: tdense ((k, v) :: t) (i + 1) n d

/-- The table of the entries of a dense list that differ from their defaults. -/
def tsparse {α : Type} [DecidableEq α] : List α → Nat → (Nat → α) → Table α
  | [], _, _ => []
  | v :: t, i, d => if v = d i then tsparse t (i + 1) d else (i, v) :: tsparse t (i + 1) d

/-! ### Tensors and consignments (R241) -/

/-- Consignments of a tensor. -/
def TensorEnt.cons (e : TensorEnt) : Nat := ceilDiv e.elements 4096

/-- Consignments of a set. -/
def Pset.total (x : Pset) : Nat := x.tensors.foldl (fun n e => n + e.cons) 0

/-- A dispatch set holds residuals only (R238). -/
def Pset.isDispatch (x : Pset) : Bool := x.consts.rule == 0

/-- The tensor of consignment `k`: index, entry and the tensor's first consignment, from index `i` and consignment `f`. -/
def tensorIn : List TensorEnt → Nat → Nat → Nat → Option (Nat × TensorEnt × Nat)
  | [], _, _, _ => none
  | e :: t, i, f, k => if k < f + e.cons then some (i, e, f) else tensorIn t (i + 1) (f + e.cons) k

/-- The tensor that consignment k belongs to. -/
def Pset.tensorOf (x : Pset) (k : Nat) : Option (Nat × TensorEnt × Nat) := tensorIn x.tensors 0 0 k

/-- First consignment of tensor t. -/
def Pset.firstOf (x : Pset) (t : Nat) : Nat := (x.tensors.take t).foldl (fun n e => n + e.cons) 0

/-- Elements of consignment k that are no padding. -/
def Pset.real (x : Pset) (k : Nat) : Nat :=
  match x.tensorOf k with
  | some (_, e, f) => min 4096 (e.elements - (k - f) * 4096)
  | none => 0

/-- A consignment's state. -/
def Pset.con (x : Pset) (k : Nat) : Consign := tget x.cons k Consign.zero

def Pset.setCon (x : Pset) (k : Nat) (c : Consign) : Pset := { x with cons := tput x.cons k c Consign.zero }

/-- The home quay of a consignment (R15). -/
def homeQuay (s : State) (k : Nat) : Nat := k % quays s.part

/-! ### Records (R182, R211) -/

/-- TVALID as the record reads in the round of the epoch word (R211). -/
def Pset.tvalid (x : Pset) (k : Nat) : Bool := let c := x.con k; c.tvalid && c.tround == x.ep.tround

/-- FINALISED as the record reads. -/
def Pset.finalised (x : Pset) (k : Nat) : Bool := let c := x.con k; c.finalised && c.tround == x.ep.tround

/-- A zero parcel (R182, R188). -/
def Pset.zeroParcel (x : Pset) (k p : Nat) : Bool := !x.tvalid k || p ∈ (x.con k).zeroed

/-- The record brought to the round in force (R211). -/
def Pset.roundCon (x : Pset) (k : Nat) : Consign :=
  let c := x.con k
  if c.tround = x.ep.tround then c
  else { c with tround := x.ep.tround, tvalid := false, finalised := false }

/-- All 128 parcels. -/
def allParcels : List Nat := List.range 128

/-! ### Contributions (R180) -/

/-- A tally word of one element of a contribution. -/
inductive TWord where
  | val (w : Int)
  | marker
  | bad                -- its payload is poisoned
  deriving DecidableEq, Repr

/-- The marker as a word. -/
def markerWord : Word := 0x8000000000000000#64

/-- v × 2^24 of an H16 code (R180). -/
def h16Word (code : Nat) : TWord :=
  match decodeCode fH16 code with
  | .fin n m e => let w := shiftI m (e + 24); .val (if n then -(w : Int) else w)
  | _ => .marker

/-- A sign-form element (R180). -/
def signWord (neg : Bool) (sc : Nat) : TWord :=
  if sc = 0 then .val 0
  else if sc = 255 then .marker
  else if 127 + 16 ≤ sc then .marker
  else if sc < 127 - 24 then .val 0
  else let w : Nat := 2 ^ (sc - 103); .val (if neg then -(w : Int) else w)

/-- A word in tally form (R180). -/
def tallyWord (w : Word) (cnt : Nat) : TWord :=
  if w = markerWord then .marker
  else if cnt * 2 ^ 40 ≤ w.toInt.natAbs then .marker else .val w.toInt

/-- Two entries of one element of a top-k contribution. -/
def TWord.join : TWord → TWord → TWord
  | .bad, _ => .bad
  | _, .bad => .bad
  | .marker, _ => .marker
  | _, .marker => .marker
  | .val a, .val b => .val (a + b)

/-- A sum of top-k entries that reaches 2^40 is the marker (R180). -/
def TWord.bound : TWord → TWord
  | .val a => if 2 ^ 40 ≤ a.natAbs then .marker else .val a
  | w => w

/-- `n` bytes of a payload at an offset within one grain; none where the grain is bad. -/
def payloadField (p : Packet) (off n : Nat) : Option Nat :=
  (payloadGrain p (off / 32)).map fun g => fieldAt (grainBytes g) (off % 32) n

/-- The words of one covered parcel, NP of them in the packet, in forms 0, 1 and 3. -/
def parcelWords (p : Packet) (np j : Nat) : List TWord :=
  match p.hdr.fmt with
  | 0 => (List.range 32).map fun i =>
      match payloadField p (64 * j + 2 * i) 2 with | some c => h16Word c | none => .bad
  | 1 =>
    match payloadField p (4 * j) 4, payloadField p (4 * np + j) 1 with
    | some b, some sc => (List.range 32).map fun i => signWord (bit b i) sc
    | _, _ => List.replicate 32 .bad
  | _ => (List.range 32).map fun i =>
      match payloadField p (256 * j + 8 * i) 8 with
      | some w => tallyWord (BitVec.ofNat 64 w) p.hdr.count
      | none => .bad

/-- The element words of a top-k packet of K entries. -/
def topkWords (p : Packet) (k : Nat) : List TWord :=
  let es := (List.range k).map fun i => payloadField p (4 * i) 4
  if es.any (·.isNone) then List.replicate 4096 .bad
  else
    let t : Table TWord := es.foldl (fun t e =>
      match e with
      | some v => tset t (bits v 11 0) ((tget t (bits v 11 0) (.val 0)).join (h16Word (bits v 31 16)))
      | none => t) []
    (tdense t 0 4096 (fun _ => .val 0)).map TWord.bound

/-- The parcels a contribution covers with their words (R170). -/
def contribWords (p : Packet) : List (Nat × List TWord) :=
  if p.hdr.fmt = 2 then
    let ws := topkWords p (p.hdr.arg % 4096)
    allParcels.map fun j => (j, (ws.drop (32 * j)).take 32)
  else
    let np := p.hdr.arg % 256
    (List.range np).map fun j => (bits p.hdr.target 38 32 + j, parcelWords p np j)

/-! ### Tallies (R181, R182) -/

/-- The word an element's tally takes from a contribution; `old` is none where nothing is read (R181, R182). -/
def addTally (old : Option Word) (w : TWord) : Word :=
  match old, w with
  | _, .bad => 0
  | _, .marker => markerWord
  | none, .val v => BitVec.ofInt 64 v
  | some o, .val v =>
    if o = markerWord then o
    else
      let t := o.toInt + v
      if 2 ^ 63 - 1 < t.natAbs then markerWord else BitVec.ofInt 64 t

/-- One parcel of a contribution on a consignment: `read` says whether the old words are read. Gives the consignment and
the elements newly set to the marker. -/
def addParcel (c : Consign) (read : Bool) (j : Nat) (ws : List TWord) : Consign × Nat :=
  let old := tdense (c.tally.filter fun e => decide (32 * j ≤ e.1 ∧ e.1 < 32 * j + 32)) (32 * j) 32 (fun _ => 0)
  let new := (old.zip ws).map fun e => addTally (if read then some e.1 else none) e.2
  let sat := ((old.zip new).filter fun e => e.2 == markerWord && !(read && e.1 == markerWord)).length
  let bads := (List.range 8).filter fun g =>
    ((ws.drop (4 * g)).take 4).any (· == .bad) || (read && (8 * j + g) ∈ c.badTally)
  ({ c with
      tally := (c.tally.filter fun e => decide (e.1 < 32 * j)) ++ tsparse new (32 * j) (fun _ => 0) ++
        (c.tally.filter fun e => decide (32 * j + 32 ≤ e.1)),
      badTally := (c.badTally.filter fun g => decide (g < 8 * j ∨ 8 * j + 8 ≤ g)) ++ bads.map (8 * j + ·),
      zeroed := c.zeroed.erase j }, sat)

/-- A contribution takes effect on a consignment's tally (R181, R182). -/
def Pset.contribute (x : Pset) (k : Nat) (ws : List (Nat × List TWord)) : Pset × Nat :=
  let c := x.roundCon k
  let c0 := if c.tvalid then c else { c with tvalid := true, zeroed := allParcels }
  let r := ws.foldl (fun (a : Consign × Nat) e =>
    let q := addParcel a.1 (!(e.1 ∈ a.1.zeroed)) e.1 e.2
    (q.1, a.2 + q.2)) (c0, 0)
  (x.setCon k r.1, r.2)

/-- Poisoned tally grains that the tug reads of the parcels of a consignment: of those that are no zero parcels (R181, R188,
R326). -/
def Pset.tallyBad (x : Pset) (k : Nat) (parcels : List Nat) : Nat :=
  let c := x.con k
  if x.tvalid k then (c.badTally.filter fun g => parcels.contains (g / 8) && g / 8 ∉ c.zeroed).length else 0

/-- A zero-count manifest marks a consignment (R182). -/
def Pset.markZero (x : Pset) (k : Nat) : Pset :=
  x.setCon k { x.roundCon k with tvalid := true, finalised := true, zeroed := allParcels }

/-! ### Finalisation (R188, R189) -/

/-- Adds one final gradient or weight to a bucket vector of a tensor (R189). -/
def addBucket (t : Table Nat) (tensor f code : Nat) : Table Nat :=
  match bucketOf f code with
  | some (b, m2) => tset t (tensor * 256 + b) (tget t (tensor * 256 + b) 0 + m2)
  | none => t

/-- The H16 final gradient of a tally word, with the flushes of the tug (R188). -/
def finalCode (ftz : Bool) (w : Word) : Nat × Nat :=
  if w = markerWord then (0x7E00, 0)
  else
    let v : Val := .fin (decide (w.toInt < 0)) w.toInt.natAbs (-24)
    let r := (convert ftz fH16 false none 0 v).run 0
    (r.1.code, r.2)

/-- What finalisation gathers: codes of one parcel, norm buckets, non-finite count and flushes. -/
structure FinAcc where
  buckets : Table Nat
  nonfinite : Nat
  flush : Nat
  deriving DecidableEq, Repr

/-- An H16 code that is an infinity or a NaN. -/
def h16NonFinite (code : Nat) : Bool := bits code 14 10 == 31

/-- Finalises one element; `skip` is padding or a poisoned word. -/
def finalElem (ftz : Bool) (tensor : Nat) (a : FinAcc) (w : Word) (skip : Bool) : FinAcc × BitVec 16 :=
  if skip then (a, 0)
  else
    let r := finalCode ftz w
    let nf := h16NonFinite r.1
    ({ buckets := if nf then a.buckets else addBucket a.buckets tensor fH16 r.1, nonfinite := a.nonfinite + b2n nf,
       flush := a.flush + r.2 }, BitVec.ofNat 16 r.1)

/-- Finalises one parcel of a consignment that is no zero parcel. -/
def finalParcel (ftz : Bool) (tensor real j : Nat) (a : FinAcc) (c : Consign) : FinAcc × Consign :=
  let ws := tdense (c.tally.filter fun e => decide (32 * j ≤ e.1 ∧ e.1 < 32 * j + 32)) (32 * j) 32 (fun _ => 0)
  let r := ws.zipIdx.foldl (fun (x : FinAcc × List (BitVec 16)) e =>
    let i := 32 * j + e.2
    let q := finalElem ftz tensor x.1 e.1 (decide (real ≤ i) || (i / 4) ∈ c.badTally)
    (q.1, x.2 ++ [q.2])) (a, [])
  let bads := (List.range 2).filter fun g => (List.range 4).any fun t => (8 * j + 4 * g + t) ∈ c.badTally
  (r.1, { c with
      fg := (c.fg.filter fun e => decide (e.1 < 32 * j)) ++ tsparse r.2 (32 * j) (fun _ => 0) ++
        (c.fg.filter fun e => decide (32 * j + 32 ≤ e.1)),
      badFg := (c.badFg.filter fun g => decide (g < 2 * j ∨ 2 * j + 2 ≤ g)) ++ bads.map (2 * j + ·) })

/-- Finalises one consignment (R188). -/
def Pset.finaliseCon (x : Pset) (ftz : Bool) (k : Nat) : Pset × Nat :=
  match x.tensorOf k with
  | none => (x, 0)
  | some (t, _, _) =>
    let c := x.roundCon k
    let live := if c.tvalid then allParcels.filter (fun j => j ∉ c.zeroed) else []
    let r := live.foldl (fun (a : FinAcc × Consign) j => finalParcel ftz t (x.real k) j a.1 a.2)
      ({ buckets := x.gradB, nonfinite := x.nonfinite, flush := 0 }, c)
    ({ (x.setCon k { r.2 with finalised := true }) with gradB := r.1.buckets, nonfinite := r.1.nonfinite }, r.1.flush)

/-- Finalises a consignment as non-finite (R178). -/
def Pset.failCon (x : Pset) (k : Nat) : Pset :=
  let n := x.real k
  let c := x.roundCon k
  { (x.setCon k { c with tvalid := true, finalised := true, zeroed := [], badFg := [],
                         fg := (List.range n).map fun i => (i, 0x7E00#16) }) with nonfinite := x.nonfinite + n }

/-- Every consignment has FINALISED in the current round (R213). -/
def Pset.allFinal (x : Pset) : Bool := (List.range x.total).all x.finalised

end Sys2Proof.Machine
end

