-- ==== Sys2Proof/Machine/Landing.lean ====
section
/-!
DEFINITION. The landing engine: manifests (R173-R179), the anchorage and port holds (R186, R187), landed writes and FINAL
writes (R103, R104, R174, R177), tokens and their lading records (R197-R199), contributions (R170, R180-R183).
-/
namespace Sys2Proof.Machine

open Sys2Proof

/-! ### Manifests (R174-R176) -/

/-- A number that has not opened since Warm: last generation 0, CLOSED (R175). -/
def Manifest.none0 : Manifest :=
  { gen := 0, state := .closed, kind := 0, noTimeout := false, timeout := 0, openTick := 0, extend := none, pset := 0,
    base := 0, bytes := 0, contribs := 0, first := 0, count := 0, landed := 0, win := 0, token := 0, seq := 0, opcode := 0,
    cap := 0, twidth := 0, spill := false, lading := 0, fill := 0, nonfiniteFinal := false, tallied := false }

/-- The last generation of a manifest number. -/
def manOf (s : State) (m : Nat) : Manifest := tget s.land.mans m Manifest.none0

def setMan (s : State) (m : Nat) (x : Manifest) : State := { s with land := { s.land with mans := tset s.land.mans m x } }

/-- Manifests OPEN or FINALISING (Table 4-8). -/
def manActive (s : State) : Nat :=
  (s.land.mans.filter fun e => e.2.state == .opened || e.2.state == .finalising).length + s.land.finalising.length

/-- A generation in FINALISING. -/
def finalisingOf (s : State) (m g : Nat) : Option Manifest :=
  let l := manOf s m
  if l.gen = g ∧ l.state = .finalising then some l
  else (s.land.finalising.find? fun e => e.1 == m && e.2.gen == g).map (·.2)

/-- How a generation stands to its number; the cases of R175 in their order. -/
inductive GenCase where
  | opened (x : Manifest)
  | finalising (x : Manifest)
  | newer
  | closed (x : Manifest)
  | failed (x : Manifest)
  | older
  deriving DecidableEq, Repr

def genCase (s : State) (m g : Nat) : GenCase :=
  let l := manOf s m
  if l.gen = g ∧ l.state = .opened then .opened l
  else
    match finalisingOf s m g with
    | some x => .finalising x
    | none =>
      if newer16 g l.gen then .newer
      else if g = l.gen then (if l.state = .failed then .failed l else .closed l)
      else .older

/-- PARTS of a token width (R195). -/
def partsOf (twidth : Nat) : Nat := ceilDiv twidth 127

/-- Bytes of one token on the wire (R196). -/
def tokenBytes (twidth : Nat) : Nat := 32 * (partsOf twidth + twidth)

/-- The announced byte count (R174). -/
def Manifest.announced (x : Manifest) : Nat := if x.kind = 1 then x.contribs * x.count * 32768 else x.bytes

/-- Tokens announced (R196). -/
def Manifest.tokens (x : Manifest) : Nat := x.bytes / tokenBytes x.twidth

/-! ### The anchorage (R186) -/

/-- Grains in use. -/
def anchUsed (s : State) : Nat := s.land.entries.foldl (fun n e => n + e.grains) 0

/-- Whether an entry of `n` grains fits. -/
def anchFits (s : State) (n : Nat) : Bool := decide (anchUsed s + n ≤ fld s rLdAnch 6 0 * 33554432)

/-- Notes the largest use seen (Table 9-9). -/
def noteHigh (s : State) : State :=
  if fld s rLdAnch 48 32 < anchUsed s / 32768 then setFld s rLdAnch 48 32 (anchUsed s / 32768) else s

/-- Adds an entry. -/
def addEntry (s : State) (kind : AnchKind) (man gen addr grains : Nat) (pkt : Option Packet) : State :=
  noteHigh { s with land := { s.land with
    nextEntry := s.land.nextEntry + 1,
    entries := s.land.entries ++ [{ id := s.land.nextEntry, kind := kind, man := man, gen := gen, tick := now s, addr := addr,
                                    grains := grains, pkt := pkt }] } }

/-- Grains of a packet's entry: 32 B, its header and its payload. -/
def Packet.grains (p : Packet) : Nat := p.hdr.len + 2

def dropEntry (s : State) (id : Nat) : State :=
  { s with land := { s.land with entries := s.land.entries.filter fun e => e.id != id } }

/-- Gaps between spilled tokens, as (first grain, grains), from grain `from0` on to the end `n`. The entries rise. -/
def anchGaps : List (Nat × Nat) → Nat → Nat → List (Nat × Nat)
  | [], from0, n => [(from0, n - from0)]
  | (a, l) :: t, from0, n => (from0, a - from0) :: anchGaps t (a + l) n

/-- Position `i` among the places for `n` grains. -/
def nthPlace : List (Nat × Nat) → Nat → Nat → Option Nat
  | [], _, _ => none
  | (a, l) :: t, n, i =>
    if l < n then nthPlace t n i
    else if i < l + 1 - n then some (a + i)
    else nthPlace t n (i - (l + 1 - n))

/-- How many places `n` grains have. -/
def countPlaces (l : List (Nat × Nat)) (n : Nat) : Nat := l.foldl (fun c g => c + (g.2 + 1 - n)) 0

/-- Spilled entries as (first grain in the anchorage, grains), rising. -/
def spillRuns (s : State) : List (Nat × Nat) :=
  (s.land.entries.filter fun e => e.kind == .spill).foldl
    (fun (t : Table Nat) e => tset t ((e.addr - anchBase s) / 32 - 1) e.grains) []

/-- A place for a spilled token of `n` grains, header included: the address of its first grain (log entry 12). -/
def spillPlace (s : State) (n : Nat) : State × Option Nat :=
  if !anchFits s n then (s, none)
  else
    let gaps := anchGaps (spillRuns s) 0 (fld s rLdAnch 6 0 * 33554432)
    match nthPlace gaps n (Config.pick s.free % countPlaces gaps n) with
    | some g => ({ s with free := s.free + 1 }, some (anchBase s + 32 * g + 32))
    | none => (s, none)

/-! ### Targets and landed writes -/

/-- Why a landed write's target is refused (Table 9-4), if it is. -/
def targetFault (s : State) (a n : Nat) : Option Nat :=
  if regionOfRange s.part a n = some .dram then (if inHostDram s a n then none else some akPROTECTED)
  else if inBeacons a n then none else some akUNMAPPED

/-- The first byte of the grain a packet's TARGET names. -/
def Packet.target (p : Packet) : Nat := p.hdr.target / 32 * 32

/-- Whether a landed write waits in its port's hold: a grain of it lies in the declared write region of an operation
(R316, R318), or its bank changes mode (R281). -/
def landBlocked (s : State) (a n : Nat) : Bool :=
  !s.berth.banks.isEmpty && inRegion s.part a .dram &&
    (regionHeld s a n || (grainsOf a n).any fun g => (bankOf s (bankPlace s.part g).1).changing.isSome)

/-- Grains of the payload that a packet carries. -/
def Packet.words (p : Packet) : List Codeword := p.payload.take p.hdr.len

/-- The acknowledgement of a packet that has taken effect; a local FINAL write has none. -/
def ackOk (s : State) (h : PktHdr) : State :=
  let s1 := { s with snap := { s.snap with landed := s.snap.landed + 1 } }
  if h.ver = 0 then s1 else sendAck s1 h akOK

/-- A refusal; a local FINAL write has no acknowledgement. -/
def refuse (s : State) (h : PktHdr) (status : Nat) : State := if h.ver = 0 then s else refusePkt s h status

/-- The failure value of a FINAL write (R104). -/
def failureWord (man : Nat) : Codeword := codewordOf (BitVec.ofNat 256 (0xDEAD000000000000 + man))

/-- Performs a FINAL write, or writes its failure value (R103, R104, R177). -/
def performFinal (s : State) (p : Packet) (ok : Bool) : State :=
  let ws := if ok then p.words else (if p.hdr.len = 0 then [] else [failureWord p.hdr.manifest])
  match (if p.hdr.ver = 0 then none else targetFault s p.target (32 * p.hdr.len)) with
  | some st => refuse s p.hdr st
  | none => ackOk (landWrite s p.target ws) p.hdr

/-- Performs a held FINAL write, or keeps it due while a berth operation, a mode change or a sleeping quay holds it: it is
acknowledged, and its notice sent, when it takes effect (R109, R171, R318). -/
def dueFinal (s : State) (e : AnchEntry) (ok : Bool) : State :=
  match e.pkt with
  | none => dropEntry s e.id
  | some p =>
    let r := if landBlocked s p.target (32 * p.hdr.len) then (s, false)
      else attempt s fun t => performFinal (dropEntry t e.id) p ok
    if r.2 then r.1
    else { r.1 with land := { r.1.land with entries := r.1.land.entries.map fun x =>
      if x.id = e.id then { x with kind := .finalDue ok } else x } }

/-- Performs the FINAL writes held by a generation, in order of arrival. -/
def runFinals (s : State) (m g : Nat) (ok : Bool) : State :=
  (s.land.entries.filter fun e => e.kind == .finalHeld && e.man == m && e.gen == g).foldl (fun s' e => dueFinal s' e ok) s

/-- The FINAL writes that are due are tried again, in order of arrival. -/
def retryFinals (s : State) : State :=
  s.land.entries.foldl (fun s' e => match e.kind with | .finalDue ok => dueFinal s' e ok | _ => s') s

/-- Whether a FINAL write held by a generation has still to be performed. -/
def finalsOwed (s : State) (m g : Nat) : Bool :=
  s.land.entries.any fun e => e.man == m && e.gen == g &&
    (match e.kind with | .finalHeld | .finalDue _ => true | _ => false)

/-! ### Counting and closing (R174, R176) -/

/-- The last manifest that moved, for snapshot records (Table 17-7). -/
def noteMan (s : State) (m g : Nat) : State := { s with snap := { s.snap with lastMan := (m, g) } }

/-- The count of an OPEN manifest is met. -/
def closeMan (s : State) (m : Nat) (x : Manifest) : State :=
  if x.kind = 1 then setMan s m { x with state := .finalising }
  else runFinals (setMan s m { x with state := .closed }) m x.gen true

/-- Counts `n` bytes of an OPEN manifest. -/
def countLanded (s : State) (m n : Nat) : State :=
  let x := manOf s m
  if x.state ≠ .opened then s
  else
    let x1 := { x with landed := min x.announced (x.landed + n) }
    let s1 := noteMan s m x.gen
    if x1.announced ≤ x1.landed then closeMan s1 m x1 else setMan s1 m x1

/-- Counts a write without MAN_VALID in every OPEN data or token region that it meets (R174). -/
def countUnnamed (s : State) (a n : Nat) : State :=
  s.land.mans.foldl (fun s' e =>
    let x := manOf s' e.1
    if x.state = .opened ∧ x.kind ≠ 1 ∧ overlaps a n x.base x.bytes then
      countLanded s' e.1 (min (a + n) (x.base + x.bytes) - max a x.base)
    else s') s

/-- A FINALISING generation changes; none: it becomes CLOSED. -/
def putFinalising (s : State) (m g : Nat) (f : Option (Manifest → Manifest)) : State :=
  let l := manOf s m
  if l.gen = g ∧ l.state = .finalising then setMan s m ((f.getD fun x => { x with state := .closed }) l)
  else
    let hit (e : Nat × Manifest) : Bool := e.1 == m && e.2.gen == g
    { s with land := { s.land with finalising := match f with
      | some f => s.land.finalising.map fun e => if hit e then (e.1, f e.2) else e
      | none => s.land.finalising.filter fun e => !hit e } }

/-- The held FINAL writes of a generation whose parcels have been finalised are performed; it stays FINALISING until the last of
them has been, and is CLOSED then (R176, R188, Table 9-6). -/
def finishMan (s : State) (m g : Nat) : State :=
  let s1 := runFinals s m g true
  if finalsOwed s1 m g then putFinalising s1 m g (some fun x => { x with tallied := true })
  else noteMan (putFinalising s1 m g none) m g

/-- Generations that only held FINAL writes keep FINALISING. -/
def talliedMans (s : State) : List (Nat × Nat) :=
  ((s.land.mans ++ s.land.finalising).filter fun e => e.2.state == .finalising && e.2.tallied).map fun e => (e.1, e.2.gen)

/-- What waits for a berth operation, a mode change or a sleeping quay goes on: FINAL writes that are due, and the generations
that they keep FINALISING. -/
def retryDue (s : State) : State :=
  let s1 := retryFinals s
  (talliedMans s1).foldl (fun s' e => finishMan s' e.1 e.2) s1

/-! ### Tokens (R197-R199) -/

/-- The bytes of a lading record (Table 10-5). -/
def ladingBytes (t : OpenTok) (incomplete : Bool) : List Byte :=
  let anchor := match t.place with | .spilled a => a | _ => 0
  let flags := (match t.place with | .dropped => 262144 | .spilled _ => 524288 | .slot => 0) + (if incomplete then 1048576 else 0)
  leBytes 4 t.index ++ leBytes 4 (t.orig % 262144 + flags) ++ leBytes 8 t.user.toNat ++ leBytes 6 (t.ret % 2 ^ 44) ++
  leBytes 2 t.rgen ++ leBytes 6 anchor ++ leBytes 2 t.rman

/-- Writes the lading record of a token. -/
def writeLading (s : State) (x : Manifest) (t : OpenTok) (incomplete : Bool) : State :=
  storeGrain s (x.lading + 32 * t.a) (bytesGrain (ladingBytes t incomplete))

/-- Counts a dropped or spilled token, in LD_TOK and in the step report of the manifest's set (R199). -/
def countTok (s : State) (x : Manifest) (place : TokPlace) : State :=
  match place with
  | .slot => s
  | .dropped =>
    let s1 := bump s rLdTok 23 0 1
    if x.pset = 65535 then s1 else modSet s1 x.pset fun p => { p with drops := p.drops + 1 }
  | .spilled _ =>
    let s1 := bump s rLdTok 47 24 1
    if x.pset = 65535 then s1 else modSet s1 x.pset fun p => { p with spills := p.spills + 1 }

/-- Whether an open-token entry is the token of a packet of a generation. -/
def OpenTok.isOf (t : OpenTok) (m g orig index : Nat) : Bool :=
  t.man == m && t.gen == g && t.orig == orig && t.index == index

/-- Writes the records of a failed generation's open tokens (R199). -/
def failTokens (s : State) (m : Nat) (x : Manifest) : State :=
  let mine := s.land.openToks.filter fun t => t.man == m && t.gen == x.gen
  let s1 := { s with land := { s.land with openToks := s.land.openToks.filter fun t => !(t.man == m && t.gen == x.gen) } }
  mine.foldl (fun s' t => writeLading s' x t true) s1

/-- Fields of a token header grain (Table 10-3). -/
structure TokHdr where
  index : Nat
  part : Nat
  parts : Nat
  rman : Nat
  user : Word
  ret : Nat
  rgen : Nat
  deriving DecidableEq, Repr

def TokHdr.ofGrain (g : Grain) : TokHdr :=
  let v := g.toNat
  { index := bits v 31 0, part := bits v 39 32, parts := bits v 47 40, rman := bits v 63 48,
    user := BitVec.ofNat 64 (bits v 127 64), ret := bits v 171 128, rgen := bits v 191 176 }

/-- The header grain of a TOKEN packet; a bad grain is read by its data symbols. -/
def tokHdr (p : Packet) : TokHdr :=
  TokHdr.ofGrain ((payloadGrain p 0).getD ((p.payload.head?.map (·.data)).getD 0))

/-- Grains of part `p` of a token of `w` grains (R195). -/
def partGrains (w p : Nat) : Nat := min w (127 * p + 127) - 127 * p

/-- What becomes of a bulk packet: it is dealt with, or it waits in its port's hold (R187), for anchorage space or for
something else. -/
inductive Landed where
  | done (s : State)
  | stall (space : Bool)
  deriving DecidableEq, Repr

/-- Opens the entry of a token's first part (R198): fill pointer, place and counts. -/
def openToken (s : State) (m : Nat) (x : Manifest) (p : Packet) (h : TokHdr) : Option (State × OpenTok) :=
  let mk (place : TokPlace) : OpenTok :=
    { man := m, gen := x.gen, orig := p.hdr.orig, index := h.index, a := x.fill, place := place, parts := [], user := h.user,
      ret := h.ret, rgen := h.rgen, rman := h.rman }
  let x1 := { x with fill := x.fill + 1 }
  if x.fill < x.cap then some (setMan s m x1, mk .slot)
  else if !x.spill then some (countTok (setMan s m x1) x .dropped, mk .dropped)
  else
    match spillPlace s (x.twidth + 1) with
    | (s1, some a) =>
      some (countTok (setMan (addEntry s1 .spill m x.gen a (x.twidth + 1) none) m x1) x (.spilled a), mk (.spilled a))
    | (_, none) => none

/-- Writes a part's grains where its token lies. -/
def placePart (s : State) (x : Manifest) (t : OpenTok) (h : TokHdr) (ws : List Codeword) : State :=
  match t.place with
  | .slot => landWrite s (x.base + t.a * x.twidth * 32 + 127 * h.part * 32) ws
  | .dropped => s
  | .spilled a => writeGrains s (a + 127 * h.part * 32) ws

/-- Puts back an open token, or ends it when its last part has landed (R199). -/
def settleToken (s : State) (x : Manifest) (t : OpenTok) : State :=
  if t.parts.length = partsOf x.twidth then writeLading s x t false
  else { s with land := { s.land with openToks := s.land.openToks ++ [t] } }

/-- A TOKEN packet of an OPEN token manifest that passes its checks. -/
def landPart (s : State) (m : Nat) (x : Manifest) (p : Packet) (h : TokHdr) : Landed :=
  let isMine := fun t : OpenTok => t.isOf m x.gen p.hdr.orig h.index
  let put (s1 : State) (t : OpenTok) : Landed :=
    let x1 := manOf s1 m
    let s2 := placePart s1 x1 t h (p.words.drop 1)
    let s3 := settleToken { s2 with land := { s2.land with openToks := s2.land.openToks.filter fun t => !isMine t } } x1
      { t with parts := t.parts ++ [h.part] }
    .done (ackOk (countLanded s3 m (32 * p.hdr.len)) p.hdr)
  let mine := s.land.openToks.find? isMine
  let a := match mine with | some t => t.a | none => x.fill
  if a < x.cap && landBlocked s (x.base + a * x.twidth * 32 + 127 * h.part * 32) (32 * partGrains x.twidth h.part) then
    .stall false
  else
    match mine with
    | some t => put s t
    | none =>
      if 4096 ≤ s.land.openToks.length then .stall false
      else
        match openToken s m x p h with
        | some (s1, t) => put s1 t
        | none => .stall true

/-- Why a TOKEN packet of an OPEN generation is refused as OUTSIDE (R174, R197). -/
def tokenOutside (s : State) (m : Nat) (x : Manifest) (p : Packet) (h : TokHdr) : Bool :=
  x.kind != 2 || h.parts != partsOf x.twidth || decide (h.parts ≤ h.part) || p.hdr.len != 1 + partGrains x.twidth h.part ||
  (s.land.openToks.any fun t => t.isOf m x.gen p.hdr.orig h.index && t.parts.contains h.part) ||
  decide (x.announced < x.landed + 32 * p.hdr.len)

/-! ### Packets of bulk class -/

/-- Parks a packet for a newer generation (R175). -/
def park (s : State) (p : Packet) (g : Nat) : Landed :=
  if anchFits s p.grains then .done (addEntry s .parked p.hdr.manifest g 0 p.grains (some p)) else .stall true

/-- A named packet whose generation is not OPEN (R175). -/
def notOpen (s : State) (p : Packet) : GenCase → Landed
  | .newer => park s p p.hdr.gen
  | .failed _ => .done (refuse s p.hdr akEXPIRED)
  | .finalising _ => .done (refuse s p.hdr akOUTSIDE)
  | _ => .done (refuse s p.hdr akLATE)

/-- A WRITE packet without FINAL (R174). -/
def landPlain (s : State) (p : Packet) : Landed :=
  let a := p.target
  let n := 32 * p.hdr.len
  match targetFault s a n with
  | some st => .done (refuse s p.hdr st)
  | none =>
    if p.hdr.manValid then
      match genCase s p.hdr.manifest p.hdr.gen with
      | .opened x =>
        if x.kind = 1 ∨ a < x.base ∨ x.base + x.bytes < a + n ∨ x.announced < x.landed + n then
          .done (refuse s p.hdr akOUTSIDE)
        else if landBlocked s a n then .stall false
        else .done (ackOk (countLanded (landWrite s a p.words) p.hdr.manifest n) p.hdr)
      | c => notOpen s p c
    else if landBlocked s a n then .stall false
    else .done (ackOk (countUnnamed (landWrite s a p.words) a n) p.hdr)

/-- A FINAL write at its home (R177). -/
def landFinal (s : State) (p : Packet) : Landed :=
  let m := p.hdr.manifest
  let g := if p.hdr.anygen then (manOf s m).gen else p.hdr.gen
  let keep : Landed :=
    if anchFits s p.grains then .done (addEntry s .finalHeld m g 0 p.grains (some p)) else .stall true
  match genCase s m g with
  | .opened _ => keep
  | .finalising _ => keep
  | .newer => park s p g
  | .closed _ => if landBlocked s p.target (32 * p.hdr.len) then .stall false else .done (performFinal s p true)
  | .failed _ => if landBlocked s p.target (32 * p.hdr.len) then .stall false else .done (performFinal s p false)
  | .older => .done (refuse s p.hdr akLATE)

/-- A WRITE packet. -/
def landWritePkt (s : State) (p : Packet) : Landed :=
  if (p.hdr.final && !p.hdr.manValid) || (p.hdr.anygen && !p.hdr.final) then .done (refuse s p.hdr akMALFORMED)
  else if p.hdr.final then landFinal s p else landPlain s p

/-- A TOKEN packet (R197, R198). DEDUCED: one without MAN_VALID or with a TARGET is refused as OUTSIDE whatever its generation; its
other checks of R197 are those of an OPEN manifest, so the generation decides first (R175; log entry 91). -/
def landToken (s : State) (p : Packet) : Landed :=
  if !p.hdr.manValid || p.hdr.target != 0 then .done (refuse s p.hdr akOUTSIDE)
  else
    match genCase s p.hdr.manifest p.hdr.gen with
    | .opened x =>
      if tokenOutside s p.hdr.manifest x p (tokHdr p) then .done (refuse s p.hdr akOUTSIDE)
      else landPart s p.hdr.manifest x p (tokHdr p)
    | c => notOpen s p c

/-- Payload grains of a contribution (Table 9-3). -/
def contribGrains (fmt arg : Nat) : Nat :=
  match fmt with
  | 0 => 2 * (arg % 256)
  | 1 => ceilDiv (5 * (arg % 256)) 32
  | 2 => ceilDiv (arg % 4096) 8
  | _ => 8 * (arg % 256)

/-- Whether a CONTRIB packet is MALFORMED (R170). -/
def contribMalformed (h : PktHdr) : Bool :=
  let np := h.arg % 256
  let k := h.arg % 4096
  let parcel := bits h.target 38 32
  decide (3 < h.fmt) || h.len != contribGrains h.fmt h.arg ||
  (if h.fmt = 2 then k == 0 || decide (1024 < k) || parcel != 0
   else np == 0 || decide ((if h.fmt = 0 then 64 else if h.fmt = 1 then 128 else 16) < np) || decide (128 < parcel + np)) ||
  (if h.fmt = 3 then h.ver == 2 || h.count == 0 else h.count != 1) || !h.manValid

/-- Bytes that a contribution counts (R174, Table 9-3). -/
def contribBytes (h : PktHdr) : Nat := (if h.fmt = 2 then 4096 else 32 * (h.arg % 256)) * h.count * 8

/-- Bytes of a generation's contributions that wait for a release (R183). -/
def waitingBytes (s : State) (m g : Nat) : Nat :=
  (s.land.entries.filter fun e => e.kind == .waitRelease && e.man == m && e.gen == g).foldl
    (fun n e => n + (match e.pkt with | some p => contribBytes p.hdr | none => 0)) 0

/-- PSET and CONSIGN of a contribution (Table 9-1). -/
def PktHdr.tallySet (h : PktHdr) : Nat := bits h.target 5 0
def PktHdr.consign (h : PktHdr) : Nat := bits h.target 31 6

/-- Bytes of a row of the address hash: one chunk on each quay (R32). -/
def rowBytes (s : State) : Nat := quays s.part * 512

/-- The first whole row of a set's range. -/
def firstRow (s : State) (x : Pset) : Nat := ceilDiv x.base (rowBytes s)

/-- Pieces of 256 bytes that the whole rows of a set's range have on each quay, without the one that the epoch word may lie
in. -/
def arenaPieces (s : State) (x : Pset) : Nat := 2 * ((x.base + x.length) / rowBytes s - firstRow s x) - 1

/-- Which of the pieces of a set's state on quay `q` lies in piece `h` there: its rank by `Config.arenaKey`, so that no two pieces
hold the same (R15; log entry 9). -/
def arenaPiece (s : State) (n : Nat) (x : Pset) (q h : Nat) : Nat :=
  let key := Config.arenaKey n q
  ((List.range (arenaPieces s x)).filter fun i => decide (key i < key h) || (key i == key h && decide (i < h))).length

/-- Where piece `h` of a set's range on quay `q` begins. -/
def pieceAddr (s : State) (x : Pset) (q h : Nat) : Nat :=
  let a := (firstRow s x + (h + 1) / 2) * rowBytes s
  let i := ((List.range (quays s.part)).find? fun i => quayOf s.part (a + 512 * i) == some q).getD 0
  a + 512 * i + (h + 1) % 2 * 256

/-- Where the tally of a parcel lies (R15; log entry 9): the tallies of the consignments homed on a quay are the first of the
pieces of its state there. -/
def tallyAt (s : State) (n : Nat) (x : Pset) (k j : Nat) : Nat :=
  let q := homeQuay s k
  let piece := k / quays s.part * 128 + j
  pieceAddr s x q (((List.range (arenaPieces s x)).find? fun h => arenaPiece s n x q h == piece).getD 0)

/-- Notices of the tallies that a contribution changes. -/
def tallyNotices (s : State) (n : Nat) (x : Pset) (k : Nat) (parcels : List Nat) : State :=
  if s.sync.watches.isEmpty then s else parcels.foldl (fun s' j => noticeAt s' (tallyAt s n x k j) 256) s

/-- The tug adds a contribution (R181, R182); the poisoned tally grains that it reads are counted (R326). -/
def addContrib (s : State) (p : Packet) (x : Pset) : State :=
  let n := p.hdr.tallySet
  let k := p.hdr.consign
  let ws := contribWords p
  let r := x.contribute k ws
  let q := homeQuay s k
  let s0 := bump (rouse (wakeQuay s q) (0x10 + q)) (rInEccStat q) 47 32 (x.tallyBad k (ws.map (·.1)))
  let s1 := bump (putSet s0 n r.1) rLdStat2 31 16 r.2
  let old := tget s1.snap.tugMan q (0, 0, 0)
  let s2 := { s1 with snap := { s1.snap with
    contribs := tset s1.snap.contribs q (tget s1.snap.contribs q 0 + 1), tugMan := tset s1.snap.tugMan q (n, old.2) } }
  tallyNotices s2 n x k (ws.map (·.1))

/-- A CONTRIB packet (R170, R174, R183). TARGET [5:0] is the set and [31:6] the consignment. -/
def landContrib (s : State) (p : Packet) : Landed :=
  let m := p.hdr.manifest
  if contribMalformed p.hdr then .done (refuse s p.hdr akMALFORMED)
  else
    match setOf? s p.hdr.tallySet with
    | none => .done (refuse s p.hdr akPROTECTED)
    | some x =>
      if x.isDispatch then .done (refuse s p.hdr akPROTECTED)
      else if x.total ≤ p.hdr.consign then .done (refuse s p.hdr akUNMAPPED)
      else
        match genCase s m p.hdr.gen with
        | .opened y =>
          let k := p.hdr.consign
          if y.kind ≠ 1 ∨ y.pset ≠ p.hdr.tallySet ∨ k < y.first ∨ y.first + y.count ≤ k ∨
             y.announced < y.landed + waitingBytes s m y.gen + contribBytes p.hdr then
            .done (refuse s p.hdr akOUTSIDE)
          else if x.finalised k then
            if anchFits s p.grains then .done (addEntry s .waitRelease m y.gen 0 p.grains (some p)) else .stall true
          else .done (ackOk (countLanded (addContrib s p x) m (contribBytes p.hdr)) p.hdr)
        | c => notOpen s p c

/-- A bulk packet at the landing engine. -/
def landBulk (s : State) (p : Packet) : Landed :=
  if p.hdr.type = tyTOKEN then landToken s p
  else if p.hdr.type = tyCONTRIB then landContrib s p
  else landWritePkt s p

/-- A bulk packet is dealt with unless an access of it must wait (R316, R388); then it stalls, with the wakes it has
started. -/
def landTry (s : State) (p : Packet) : State × Landed :=
  match landBulk s p with
  | .stall sp => (s, .stall sp)
  | .done s1 => if calm s || carried s s1 then (s, .done s1) else (keepWakes s s1, .stall false)

/-- Performs an entry's packet where it can be; its place is free meanwhile. -/
def retryEntry (s : State) (e : AnchEntry) : State :=
  match e.pkt with
  | none => s
  | some p =>
    match landTry (dropEntry s e.id) p with
    | (_, .done s') => s'
    | (s', .stall _) => { s with pow := s'.pow }

/-- Packets parked for a number meet its newly opened generation (R175). -/
def unpark (s : State) (m : Nat) : State :=
  (s.land.entries.filter fun e => e.kind == .parked && e.man == m).foldl (fun s' e =>
    match genCase s' m e.gen with
    | .newer => s'
    | _ => retryEntry s' e) s

/-- What waits for a release: a contribution, or the marking of a range as zero. -/
inductive Released where
  | contrib (e : AnchEntry)
  | zero (set first count : Nat)
  deriving DecidableEq, Repr

/-- What waits for the release of a set, in order of arrival (R182, R183). -/
def waitingFor (s : State) (n : Nat) : List Released :=
  let es := (s.land.entries.filter fun e => e.kind == .waitRelease &&
      (match e.pkt with | some p => p.hdr.tallySet == n | none => false)).map fun e => (e.id, Released.contrib e)
  let zs := (s.land.waitZero.filter fun z => z.2.1 == n).map fun z => (z.1, Released.zero z.2.1 z.2.2.1 z.2.2.2)
  (es.foldl (fun l e => (l.takeWhile fun x => x.1 < e.1) ++ e :: l.dropWhile fun x => x.1 < e.1) zs).map (·.2)

/-- One of them is performed. What it cannot reach yet holds the release that it follows (R388). -/
def performOne (s : State) : Released → State
  | .contrib e =>
    match e.pkt.map (landBulk (dropEntry s e.id)) with
    | some (.done s') => s'
    | _ => s
  | .zero n first count => modSet s n fun x => (upFrom first count).foldl Pset.markZero x

/-- Contributions and zero markings that waited for the release of a set are performed, in order of arrival (R182, R183). -/
def performReleased (s : State) (n : Nat) : State :=
  (waitingFor s n).foldl performOne
    { s with land := { s.land with waitZero := s.land.waitZero.filter fun z => z.2.1 != n } }

/-! ### Failure (R178, R199) -/

/-- The consignments of a failed tally manifest become non-finite (R178). -/
def failRange (s : State) (x : Manifest) : State :=
  modSet s x.pset fun y => (upFrom x.first x.count).foldl Pset.failCon y

/-- The reply with INCOMPLETE_LANDING (R104, R178). -/
def incompleteReply (s : State) (x : Manifest) : State :=
  (postReply s
    { token := x.token, seq := x.seq, win := x.win, status := stINCOMPLETE_LANDING, opcode := x.opcode, field := 0,
      result := BitVec.ofNat 64 x.landed, tick := now s, post := true, release := none, task := 0 }).1

/-- The failure values and the reply of a failed manifest, after its lading records have taken effect (R178, R199); until they
can be written they wait with it (R316, R388). -/
def failRest (s : State) (m : Nat) (post : Bool) (x : Manifest) : State :=
  let r := if x.kind = 2 then attempt s fun t => failTokens t m x else (s, true)
  if r.2 then
    let s1 := runFinals r.1 m x.gen false
    if post then incompleteReply s1 x else s1
  else { r.1 with land := { r.1.land with failing := r.1.land.failing ++ [(m, post, x)] } }

/-- An OPEN manifest fails (R178, R179). -/
def failMan (s : State) (m : Nat) (post : Bool) : State :=
  let x := manOf s m
  let s1 := bump (noteMan (setMan s m { x with state := .failed }) m x.gen) rLdStat2 63 48 1
  failRest (if x.kind = 1 then failRange s1 x else s1) m post x

/-- Failed manifests whose lading records were held go on. -/
def retryFailing (s : State) : State :=
  s.land.failing.foldl (fun s' f => failRest s' f.1 f.2.1 f.2.2) { s with land := { s.land with failing := [] } }

/-- Whether an OPEN manifest's timeout has passed (R178, R185, R380). -/
def manDue (s : State) (m : Nat) : Bool :=
  let x := manOf s m
  x.state == .opened && !x.noTimeout && expired s x.openTick (x.timeout + x.extend.getD 0)

/-- The expiry of a manifest, if it is due. -/
def expireMan (s : State) (m : Nat) : State := if manDue s m then failMan s m true else s

/-- Whether a parked packet has outlived PARK_TTL (R186, R193). -/
def parkDue (s : State) (e : AnchEntry) : Bool :=
  e.kind == .parked && fld s rLdCfg 55 32 != 0 && expired s e.tick (fld s rLdCfg 55 32)

/-- A parked packet is refused as EXPIRED. -/
def expirePark (s : State) (e : AnchEntry) : State :=
  if parkDue s e then
    match e.pkt with
    | some p => refuse (bump (dropEntry s e.id) rLdStat 47 32 1) p.hdr akEXPIRED
    | none => s
  else s

/-- What the watch ticks passed so far have brought about comes before what the landing engine takes next (R176). -/
def landTicks (s : State) : State :=
  let s1 := s.land.mans.foldl (fun s' e => expireMan s' e.1) s
  s1.land.entries.foldl expirePark s1

/-! ### Arrival and holds (R187) -/

/-- Packets in a landing port's hold. -/
def holdOf (s : State) (port : Nat) : List (Nat × Packet) := s.land.holds.filter fun h => h.1 == port

/-- A host FINAL write that waits in a hold has arrived: it is bound to the generation in force then (R177). -/
def bindFinal (s : State) (p : Packet) : Packet :=
  if p.hdr.type = tyWRITE ∧ p.hdr.final ∧ p.hdr.anygen ∧ p.hdr.manValid then
    { p with hdr := { p.hdr with anygen := false, gen := (manOf s p.hdr.manifest).gen } }
  else p

/-- A bulk packet from a landing port or the loopback. A full hold presses back on the port's bulk class: the packet stays
in the fabric. A packet that this harbour sends to itself waits in the loopback. -/
def arriveBulk (s : State) (src : LandSrc) (hdr : BitVec 256) (payload : List Codeword) (type : Nat) : State :=
  let full : Bool := match src with | .port n => decide (32 ≤ (holdOf s n).length) | .loop _ => false
  if full then s
  else
    withPacket s src hdr payload (ofType type) fun s1 p =>
      match landTry (landTicks s1) p with
      | (_, .done s2) => s2
      | (s2, .stall _) =>
        match src with
        | .port n => { s2 with land := { s2.land with holds := s2.land.holds ++ [(n, bindFinal s2 p)] } }
        | .loop i => { s2 with land := { s2.land with loop := s2.land.loop.take i ++ bindFinal s2 p :: s2.land.loop.drop i } }

/-- The first packet of a list that can land, with the state it leaves. -/
def firstLands (s : State) : List (Nat × Packet) → Option ((Nat × Packet) × State)
  | [] => none
  | h :: t =>
    match landTry { s with land := { s.land with holds := s.land.holds.erase h } } h.2 with
    | (_, .done s') => some (h, s')
    | (_, .stall _) => firstLands s t

/-- What a berth operation or a sleeping quay held in the landing engine is tried again. Then the first packet of a port's
hold that can land does; port 8 stands for parked packets whose generation has opened. -/
def releaseHold (s0 : State) (port : Nat) : State :=
  let s := retryDue (retryFailing s0)
  if port = 8 then s.land.mans.foldl (fun s' e => unpark s' e.1) s
  else
    match firstLands s (holdOf s port) with
    | some (_, s') => s'
    | none => s

/-- Whether a port hold waits for anchorage space (LD_ANCH.STALLED). -/
def stalled (s : State) : Bool :=
  s.land.holds.any fun h => match landBulk s h.2 with | .stall true => true | _ => false

end Sys2Proof.Machine
end

