-- ==== Sys2Proof/Machine/Crane.lean ====
section
/-!
DEFINITION. What a crane computes for one consignment (Table 12-7): the slip bytes (R242), the export staging (R266), the
norm buckets (R235), the seal (R223) and the weight digest (R362), with the group factors (R245, R256-R258).
-/
namespace Sys2Proof.Machine

open Sys2Proof

/-! ### Slip bytes (R242, Table 12-3) -/

/-- Slip bytes of one consignment. -/
def slipLen (rule : Nat) : Nat :=
  match rule with
  | 1 => 16640
  | 2 | 3 => 12416
  | 4 => 21632
  | _ => 0

/-- A slip byte at creation: zero, and 0x7F for a moment scale (R263). -/
def slipDefault (rule off : Nat) : Byte :=
  if (12288 ≤ off ∧ off < 12416) ∨ (rule = 1 ∧ 16512 ≤ off) then 0x7F else 0

/-- The bytes of slip 0 or 1 of a consignment. -/
def Pset.slipBytes (x : Pset) (slip : Bool) (k : Nat) : List Byte :=
  tdense (if slip then (x.con k).slip1 else (x.con k).slip0) 0 (slipLen x.consts.rule) (slipDefault x.consts.rule)

/-- Poisoned grains of a slip. -/
def Consign.bad (c : Consign) (slip : Bool) : List Nat := if slip then c.bad1 else c.bad0

/-- Replaces a slip's bytes and poisoned grains. -/
def Consign.putSlip (c : Consign) (rule : Nat) (slip : Bool) (bs : List Byte) (bad : List Nat) : Consign :=
  let t := tsparse bs 0 (slipDefault rule)
  if slip then { c with slip1 := t, bad1 := bad } else { c with slip0 := t, bad0 := bad }

/-- Codes of the staging format of a set, in bytes. -/
def stageCodes (sfmt : Nat) : Nat := if sfmt = fK4 then 2048 else 4096

/-- A staging byte at creation: code 0, scale byte 0x7F (R263). -/
def stageDefault (sfmt off : Nat) : Byte := if stageCodes sfmt ≤ off then 0x7F else 0

/-- Staged codes and 128 scale bytes, as a forward block holds them. -/
def stageBytes (sfmt : Nat) (t : Table Byte) : List Byte := tdense t 0 (stageCodes sfmt + 128) (stageDefault sfmt)

/-- Little-endian 16-bit codes. -/
def codes16 : List Byte → List Nat
  | a :: b :: t => (a.toNat + 256 * b.toNat) :: codes16 t
  | _ => []

/-- `n` pieces of `w` elements. -/
def pieces {α : Type} (w : Nat) : Nat → List α → List (List α)
  | 0, _ => []
  | n + 1, l => l.take w :: pieces w n (l.drop w)

/-- `n` bytes from an offset, as codes. -/
def byteCodes (bs : List Byte) (off n : Nat) : List Nat := ((bs.drop off).take n).map (·.toNat)

/-! ### Group factors (R245, R256-R258) -/

/-- Constants as the crane reads them: a subnormal encoding counts as zero under FTZ (R138), once for each walk. -/
structure CraneConsts where
  beta1 : Val
  beta2 : Val
  eps : Val
  lam : Val
  delta : Val
  pivot : Val
  eta : Val
  c : Val
  deriving DecidableEq, Repr

/-- Reads a constant that the rule uses. -/
def readConst (z used : Bool) (x : F32) : Fl Val := if used then flushIn z (ofF32 x) else pure .zero

/-- Reads the constants of Table 12-6. -/
def readConsts (z : Bool) (k : Consts) (eta clip : F32) : Fl CraneConsts := do
  let b1 ← readConst z true k.beta1
  let b2 ← readConst z (k.rule != rMOM) k.beta2
  let e ← readConst z (k.rule == rADW || k.rule == rTPC) k.eps
  let l ← readConst z true k.lambda
  let d ← readConst z (k.rule == rTPC) k.delta
  let p ← readConst z (k.rule == rTPC) k.pivot
  let h ← readConst z true eta
  let c ← readConst z true clip
  pure ⟨b1, b2, e, l, d, p, h, c⟩

/-- The factors of one group with update count T′ after k missed steps (Table 12-5), for λ or for 0. -/
def groupRule (z : Bool) (k : Consts) (q : CraneConsts) (ls missed t : Nat) (noDecay : Bool) : Fl RuleIn := do
  let adwRule := k.rule == rADW
  let a1 ← if adwRule && !k.noBias then biasFactor z q.beta1 t else pure Val.one
  let a2 ← if adwRule && !k.noBias then biasFactor z q.beta2 t else pure Val.one
  let d1 ← if k.rule == rSGN then pure Val.one else powF32 z q.beta1 missed
  let d2 ← if k.rule == rMOM then pure Val.one else powF32 z q.beta2 missed
  let lam := if noDecay then Val.zero else q.lam
  let dw ← decayFactor z q.eta lam missed
  let ob1 ← fsub z .one q.beta1
  let ob2 ← fsub z .one q.beta2
  pure { rule := k.rule, z := z, nesterov := k.nesterov, beta1 := q.beta1, beta2 := q.beta2, eps := q.eps, lam := lam,
         delta := q.delta, pivot := q.pivot, eta := q.eta, c := q.c, ls := ls, ob1 := ob1, ob2 := ob2, a1 := a1, a2 := a2,
         d1 := d1, d2 := d2, dw := dw }

/-- A group's record in the active slip: (LAST, T). -/
def Pset.groupRec (x : Pset) (slip : Bool) (g : Nat) : Nat × Nat := tget (if slip then x.last1 else x.last0) g (0, 0)

/-- Steps missed and the new update count of a group swept at step s (R257). -/
def missedOf (s : Nat) (r : Nat × Nat) : Nat × Nat :=
  ((s + 281474976710656 - 1 - r.1) % 4294967296, min (r.2 + 1) 4294967295)

/-- Whether a group is visited in the current round (R257). -/
def Pset.visited (x : Pset) (g : Nat) : Bool :=
  (List.range x.total).any fun k =>
    match x.tensorOf k with
    | some (_, e, _) => e.group == g && x.tvalid k && allParcels.any fun p => p ∉ (x.con k).zeroed
    | none => false

/-- Groups that a walk carries: LAZY and not visited (R257). -/
def Pset.carriedGroups (x : Pset) : List Nat := x.lazy.filter fun g => !x.visited g

/-- The group table of a walk's inactive slip (R257). -/
def Pset.walkTable (x : Pset) (s : Nat) (carried : List Nat) : Table (Nat × Nat) :=
  (List.range x.groups).foldl (fun t g =>
    if g ∈ carried then t else tset t g (s % 4294967296, (missedOf s (x.groupRec x.ep.active g)).2))
    (if x.ep.active then x.last1 else x.last0)

/-- The rule constants of the set's last walk (R239); those in force where it has had none. -/
def Pset.walkConsts (x : Pset) : Consts := x.sw.consts.getD x.consts

/-- Values replaced under FTZ while the factors of a walk from a slip are formed: each group's, with its decay factor for λ and for 0
(R245, R138). -/
def Pset.factorFlushes (x : Pset) (slip : Bool) (s : Nat) (carried : List Nat) : Nat :=
  (((do
    let q ← readConsts x.sw.ftz x.walkConsts x.sw.eta x.sw.clip
    let _ ← ((List.range x.groups).filter (· ∉ carried)).mapM fun g => do
      let r := missedOf s (x.groupRec slip g)
      let _ ← groupRule x.sw.ftz x.walkConsts q x.sw.ls r.1 r.2 false
      decayFactor x.sw.ftz q.eta .zero r.1
    pure ()) : Fl Unit).run 0).2

/-! ### One consignment (Table 12-7) -/

/-- What the crane knows of one consignment beside its bytes. -/
structure ConCtx where
  rule : RuleIn
  mstoch : Bool
  sfmt : Nat
  smargin : Nat
  sround : Bool
  seed : BitVec 128
  tensor : Nat          -- index in the set
  tensorId : Nat
  step : Nat
  epoch : Nat           -- epoch being staged
  index0 : Nat          -- index of the consignment's first element in its tensor
  real : Nat
  deriving DecidableEq, Repr

/-- New values of one element, and whether the guard of R254 kept the old ones. -/
structure NewElem where
  w : Val
  m : Val
  v : Val
  kept : Bool
  deriving DecidableEq, Repr

/-- ĝ of an element (R244). -/
def gradHat (k : RuleIn) (code : Nat) : Fl Val := do
  let g ← fdecode1 k.z fH16 code
  fmul k.z k.c (g.scale (-(k.ls : Int)))

/-- ADW, MOM or SGN on one element: decode, decay, rule, guard. -/
def stepElem (k : RuleIn) (w m v g sm sv : Nat) : Fl NewElem := do
  let w0 ← fdecode1 k.z fB16 w
  let m0 ← fdecode k.z fI8 m sm
  let wd ← fmul k.z w0 k.dw
  let md ← fmul k.z m0 (if k.rule = rSGN then k.d2 else k.d1)
  let gh ← gradHat k g
  if k.rule = rADW then do
    let v0 ← fdecode k.z fL8 v sv
    let vd ← fmul k.z v0 k.d2
    let o ← adw k wd md vd gh
    pure (if o.wn.isNan || o.mn.isNan || o.vn.isNan then ⟨wd, md, vd, true⟩ else ⟨o.wn, o.mn, o.vn, false⟩)
  else do
    let o ← if k.rule = rMOM then mom k wd md gh else sgn k wd md gh
    pure (if o.wn.isNan || o.mn.isNan then ⟨wd, md, .zero, true⟩ else ⟨o.wn, o.mn, .zero, false⟩)

/-- A padding element. -/
def NewElem.padding : NewElem := ⟨.zero, .zero, .zero, false⟩

/-- What one parcel stores. -/
structure ParcelOut where
  w : List Nat
  m : List Nat
  ms : Nat
  v : List Nat
  vs : Nat
  st : List Nat
  ss : Nat
  sat : Nat
  deriving DecidableEq, Repr

/-- The staging of 32 weights: codes, scale byte and saturations (R266). `i0` is the parcel's first element. -/
def stageParcel (c : ConCtx) (i0 : Nat) (ws : List Nat) : Fl (List Nat × Nat × Nat) := do
  let vs ← ws.mapM fun w => fdecode1 c.rule.z fB16 w
  let k := fitParcel c.sfmt c.smargin vs
  let cs ← vs.zipIdx.mapM fun e =>
    convert c.rule.z c.sfmt false
      (if c.sround then some (kwDraw c.seed c.tensorId (c.epoch % 2 ^ 48) (c.index0 + i0 + e.2) 0x04) else none) k e.1
  pure (cs.map (·.code), scaleByteOf k, (cs.filter (·.sat)).length)

/-- Stores a parcel's new values (R252-R254) and its staging. -/
def storeParcel (c : ConCtx) (p : Nat) (es : List NewElem) : Fl ParcelOut := do
  let z := c.rule.z
  let ix := fun i => c.index0 + 32 * p + i
  let ws ← es.zipIdx.mapM fun e => weightCode z (kwDraw c.seed c.tensorId c.step (ix e.2) 0x02) e.1.w
  let km := fitParcel fI8 0 (es.map (·.m))
  let ms ← es.zipIdx.mapM fun e =>
    momentCode z fI8 (if c.mstoch then some (kwDraw c.seed c.tensorId c.step (ix e.2) 0x03) else none) km e.1.m
  let kv := fitParcel fL8 0 (es.map (·.v))
  let vs ← es.mapM fun e => momentCode z fL8 none kv e.v
  let st ← stageParcel c (32 * p) (ws.map (·.code))
  let sats := (es.zip (ws.zip (ms.zip vs))).foldl (fun n e =>
    n + (if e.1.kept then 1 else b2n e.2.1.sat + b2n e.2.2.1.sat + b2n e.2.2.2.sat)) 0
  pure { w := ws.map (·.code), m := ms.map (·.code), ms := scaleByteOf km, v := vs.map (·.code), vs := scaleByteOf kv,
         st := st.1, ss := st.2.1, sat := sats + st.2.2 }

/-- The consignment's slip as lists of parcels. -/
structure SlipIn where
  w : List (List Nat)
  m : List (List Nat)
  ms : List Nat
  v : List (List Nat)
  vs : List Nat
  p : List (List Nat)    -- TPC factors by tile
  q : List (List Nat)
  deriving DecidableEq, Repr

/-- Reads the layout of Table 12-3. -/
def SlipIn.ofBytes (rule : Nat) (bs : List Byte) : SlipIn :=
  { w := pieces 32 128 (codes16 (bs.take 8192)), m := pieces 32 128 (byteCodes bs 8192 4096), ms := byteCodes bs 12288 128,
    v := if rule = rADW then pieces 32 128 (byteCodes bs 12416 4096) else [],
    vs := if rule = rADW then byteCodes bs 16512 128 else [],
    p := if rule = rTPC then pieces 36 64 (codes16 ((bs.drop 12416).take 4608)) else [],
    q := if rule = rTPC then pieces 36 64 (codes16 ((bs.drop 17024).take 4608)) else [] }

/-- One parcel under ADW, MOM or SGN. -/
def sweepParcel (c : ConCtx) (a : SlipIn) (g : List Nat) (p : Nat) : Fl ParcelOut := do
  let w := a.w.getD p []
  let m := a.m.getD p []
  let v := a.v.getD p []
  let es ← (List.range 32).mapM fun i =>
    if c.real ≤ 32 * p + i then pure NewElem.padding
    else stepElem c.rule (w.getD i 0) (m.getD i 0) (v.getD i 0) (g.getD i 0) (a.ms.getD p 127) (a.vs.getD p 127)
  storeParcel c p es

/-- What one tile stores: two parcels and its factors (R249-R251, R254). -/
structure TileStore where
  parcels : List ParcelOut
  p : List Nat
  q : List Nat
  fell : Bool
  sat : Nat
  deriving DecidableEq, Repr

/-- One tile under TPC. -/
def sweepTile (c : ConCtx) (a : SlipIn) (g : List Nat) (t : Nat) : Fl TileStore := do
  let k := c.rule
  let one (l : List (List Nat)) (i : Nat) : Nat := (l.getD (2 * t + i / 32) []).getD (i % 32) 0
  let pad (i : Nat) : Bool := decide (c.real ≤ 64 * t + i)
  let wd ← (List.range 64).mapM fun i =>
    if pad i then pure Val.zero else do
      let w ← fdecode1 k.z fB16 (one a.w i)
      fmul k.z w k.dw
  let md ← (List.range 64).mapM fun i =>
    if pad i then pure Val.zero else do
      let m ← fdecode k.z fI8 (one a.m i) (a.ms.getD (2 * t + i / 32) 127)
      fmul k.z m k.d1
  let gh ← (List.range 64).mapM fun i => if pad i then pure Val.zero else gradHat k (g.getD i 0)
  let fd (f : Nat) : Fl Val := do
    let x ← fdecode1 k.z fB16 f
    fmul k.z x k.d2
  let pd ← (a.p.getD t []).mapM fd
  let qd ← (a.q.getD t []).mapM fd
  let o ← tpcTile k wd md pd qd gh
  let es := (List.range 64).map fun i =>
    let wn := vAt o.w i
    let mn := vAt o.m i
    if pad i then NewElem.padding
    else if mn.isNan then ⟨vAt wd i, vAt md i, .zero, true⟩
    else if wn.isNan then ⟨vAt wd i, mn, .zero, true⟩
    else ⟨wn, mn, .zero, false⟩
  let p0 ← storeParcel c (2 * t) (es.take 32)
  let p1 ← storeParcel c (2 * t + 1) (es.drop 32)
  pure { parcels := [p0, p1], p := o.p.map (·.code), q := o.q.map (·.code), fell := o.fell,
         sat := (o.p.filter (·.sat)).length + (o.q.filter (·.sat)).length }

/-- Two little-endian bytes of each code. -/
def bytes16 (l : List Nat) : List Byte := l.flatMap fun c => leBytes 2 c

/-- One byte of each code. -/
def bytes8 (l : List Nat) : List Byte := l.map (BitVec.ofNat 8)

/-- K4 codes two to a byte, the even element low (R132). -/
def packNibbles : List Nat → List Byte
  | a :: b :: t => BitVec.ofNat 8 (a % 16 + 16 * (b % 16)) :: packNibbles t
  | [a] => [BitVec.ofNat 8 (a % 16)]
  | [] => []

/-- Staged codes and scale bytes of parcels. -/
def stageOf (sfmt : Nat) (codes : List Nat) (scales : List Nat) : List Byte :=
  (if sfmt = fK4 then packNibbles codes else bytes8 codes) ++ bytes8 scales

/-- What a crane forms for one consignment. -/
structure ConOut where
  slip : List Byte
  stage : List Byte
  wB : Table Nat          -- norm buckets, tensor × 256 + bucket (R235)
  uB : Table Nat
  digest : Nat
  sat : Nat
  flush : Nat
  fell : Nat
  deriving DecidableEq, Repr

/-- The hash of an element (R362). -/
def elemHash (seed : BitVec 128) (tensorId i code : Nat) : Nat :=
  let k0 := (kewen (kwCounter tensorId 0 i 0x11 0) seed).toNat % 18446744073709551616
  let k1 := (kewen (kwCounter tensorId 0 i 0x11 1) seed).toNat % 18446744073709551616
  ((k0 ||| 1) * (code + 1) + k1) % 18446744073709551616

/-- The digest of a consignment's weights. -/
def digestOf (seed : BitVec 128) (tensorId index0 real : Nat) (ws : List Nat) : Nat :=
  ((ws.take real).zipIdx.foldl (fun d e => d + elemHash seed tensorId (index0 + e.2) e.1) 0) % 18446744073709551616

/-- Buckets of a list of B16 codes (R189). -/
def bucketsOf (tensor : Nat) (cs : List Nat) : Table Nat := cs.foldl (fun t c => addBucket t tensor fB16 c) []

/-- Sums of two bucket vectors. -/
def addBuckets (a b : Table Nat) : Table Nat := b.foldl (fun t e => tset t e.1 (tget t e.1 0 + e.2)) a

/-- Codes of the new weights and of u, with the digest (stages 6 and 8). -/
def ConOut.close (c : ConCtx) (old new : List Nat) (slip stage : List Byte) (sat flush fell : Nat) : ConOut :=
  let us := ((old.zip new).take c.real).map fun e => updateCode (decodeCode fB16 e.1) (decodeCode fB16 e.2)
  { slip := slip, stage := stage, wB := bucketsOf c.tensor (new.take c.real), uB := bucketsOf c.tensor us,
    digest := digestOf c.seed c.tensorId c.index0 c.real new, sat := sat, flush := flush, fell := fell }

/-- Applies the rule to a consignment; `gs` holds the final gradient by parcels (R255). -/
def sweepCon (c : ConCtx) (bs : List Byte) (gs : List (List Nat)) : ConOut :=
  let a := SlipIn.ofBytes c.rule.rule bs
  if c.rule.rule = rTPC then
    let r := ((List.range 64).mapM fun t => sweepTile c a (gs.getD (2 * t) [] ++ gs.getD (2 * t + 1) []) t).run 0
    let ps := r.1.flatMap (·.parcels)
    let new := ps.flatMap (·.w)
    ConOut.close c a.w.flatten new
      (bytes16 new ++ bytes8 (ps.flatMap (·.m)) ++ bytes8 (ps.map (·.ms)) ++ bytes16 (r.1.flatMap (·.p)) ++
        bytes16 (r.1.flatMap (·.q)))
      (stageOf c.sfmt (ps.flatMap (·.st)) (ps.map (·.ss)))
      (ps.foldl (fun n p => n + p.sat) 0 + r.1.foldl (fun n t => n + t.sat) 0) r.2 (r.1.filter (·.fell)).length
  else
    let r := ((List.range 128).mapM fun p => sweepParcel c a (gs.getD p []) p).run 0
    let new := r.1.flatMap (·.w)
    ConOut.close c a.w.flatten new
      (bytes16 new ++ bytes8 (r.1.flatMap (·.m)) ++ bytes8 (r.1.map (·.ms)) ++
        (if c.rule.rule = rADW then bytes8 (r.1.flatMap (·.v)) ++ bytes8 (r.1.map (·.vs)) else []))
      (stageOf c.sfmt (r.1.flatMap (·.st)) (r.1.map (·.ss)))
      (r.1.foldl (fun n p => n + p.sat) 0) r.2 0

/-- The staging of a consignment's weights, with saturations and flushes (R266, R19). -/
def restage (c : ConCtx) (ws : List Nat) : List Byte × Nat × Nat :=
  let r := ((pieces 32 128 ws).zipIdx.mapM fun e => stageParcel c (32 * e.2) e.1).run 0
  (stageOf c.sfmt (r.1.flatMap (·.1)) (r.1.map (·.2.1)), r.1.foldl (fun n p => n + p.2.2) 0, r.2)

/-- A consignment carried without arithmetic (R259). -/
def carryCon (c : ConCtx) (bs : List Byte) : ConOut :=
  let ws := codes16 (bs.take 8192)
  let st := restage c ws
  { ConOut.close c ws ws bs st.1 st.2.1 st.2.2 0 with uB := [] }

/-- A factor set that does nothing, for work that applies no rule. -/
def RuleIn.none (rule : Nat) (z : Bool) : RuleIn :=
  { rule := rule, z := z, nesterov := false, beta1 := .zero, beta2 := .zero, eps := .zero, lam := .zero, delta := .zero,
    pivot := .zero, eta := .zero, c := .one, ls := 0, ob1 := .one, ob2 := .one, a1 := .one, a2 := .one, d1 := .one,
    d2 := .one, dw := .one }

/-- The context of a consignment; `rule` is filled in by the caller. -/
def Pset.conCtx (x : Pset) (k : Nat) (rule : RuleIn) (seed : BitVec 128) (step epoch : Nat) : Option ConCtx :=
  match x.tensorOf k with
  | none => none
  | some (t, e, f) =>
    some { rule := rule, mstoch := x.walkConsts.mstoch, sfmt := x.sfmt, smargin := x.smargin, sround := x.sround, seed := seed,
           tensor := t, tensorId := e.tensorId, step := step, epoch := epoch, index0 := (k - f) * 4096, real := x.real k }

/-- The final gradient of consignment k by parcels: 0 for a zero parcel (R188). `tv` and `zeroed` are the record's bits. -/
def Pset.gradParcels (x : Pset) (k : Nat) (tv : Bool) (zeroed : List Nat) : List (List Nat) :=
  let all := pieces 32 128 ((tdense (x.con k).fg 0 4096 (fun _ => 0)).map (·.toNat))
  all.zipIdx.map fun e => if tv && e.2 ∉ zeroed then e.1 else List.replicate 32 0

/-- What the crane forms for consignment k at step s from the slip `slip`, with the latched values of the sweep record
(R220, R255). `tv` and `zeroed` are the record's bits. -/
def Pset.crane (x : Pset) (k s : Nat) (slip : Bool) (epoch : Nat) (tv : Bool) (zeroed : List Nat) : Option ConOut :=
  match x.tensorOf k with
  | none => none
  | some (_, e, _) =>
    let bs := x.slipBytes slip k
    if e.group ∈ x.sw.carried then
      (x.conCtx k (.none x.consts.rule x.sw.ftz) x.sw.seed s epoch).map fun c => carryCon c bs
    else
      let r := missedOf s (x.groupRec slip e.group)
      let rule := ((do
        let q ← readConsts x.sw.ftz x.walkConsts x.sw.eta x.sw.clip
        groupRule x.sw.ftz x.walkConsts q x.sw.ls r.1 r.2 e.noDecay) : Fl RuleIn).run 0
      (x.conCtx k rule.1 x.sw.seed s epoch).map fun c => sweepCon c bs (x.gradParcels k tv zeroed)

/-- SEAL of a consignment's written bytes (R223). -/
def sealOf (n k s : Nat) (slip stage : List Byte) : Word :=
  crc64 (slip ++ stage ++ leBytes 8 n ++ leBytes 8 k ++ leBytes 8 s)

/-- The bad grains that the crane reads: of the slip, and of the final gradient of a parcel that is no zero parcel (R225). -/
def Pset.badReads (x : Pset) (k : Nat) (slip : Bool) : Nat :=
  let c := x.con k
  (c.bad slip).length + (if x.tvalid k then (c.badFg.filter fun g => g / 2 ∉ c.zeroed).length else 0)

/-- Whether the crane needs a grain that is bad (R225). -/
def Pset.unreadable (x : Pset) (k : Nat) (slip : Bool) : Bool := x.badReads k slip != 0

/-- The weight digest of consignment k in a slip under a seed (R362); none where a weight grain is bad. -/
def Pset.conDigest (x : Pset) (seed : BitVec 128) (k : Nat) (slip : Bool) : Option Nat :=
  match x.tensorOf k with
  | none => some 0
  | some (_, e, f) =>
    if ((x.con k).bad slip).any (· < 256) then none
    else some (digestOf seed e.tensorId ((k - f) * 4096) (x.real k) (codes16 ((x.slipBytes slip k).take 8192)))

/-- The harbour's weight digest of a set (R362). -/
def Pset.setDigest (x : Pset) (seed : BitVec 128) (slip : Bool) : Option Nat :=
  (List.range x.total).foldl (fun a k =>
    match a, x.conDigest seed k slip with
    | some d, some e => some ((d + e) % 18446744073709551616)
    | _, _ => none) (some 0)

/-- Values replaced under FTZ where parcels of consignment k are staged from the active slip (R19, R138). -/
def Pset.stageFlush (x : Pset) (ftz : Bool) (k epoch : Nat) (parcels : List Nat) : Nat :=
  match x.conCtx k (.none x.consts.rule ftz) x.sw.seed 0 epoch with
  | none => 0
  | some c =>
    let ws := pieces 32 128 (codes16 ((x.slipBytes x.ep.active k).take 8192))
    ((parcels.mapM fun p => stageParcel c (32 * p) (ws.getD p [])).run 0).2

/-- Restages consignment k from the active slip for an epoch (R266), with the values flushed (R138). -/
def Pset.restageCon (x : Pset) (ftz : Bool) (seed : BitVec 128) (k epoch : Nat) : Pset × Nat :=
  match x.conCtx k (.none x.consts.rule ftz) seed 0 epoch with
  | none => (x, 0)
  | some c =>
    let st := restage c (codes16 ((x.slipBytes x.ep.active k).take 8192))
    ({ x with sw := { x.sw with cFlush := x.sw.cFlush + st.2.2 } }.setCon k { x.con k with stage := tsparse st.1 0 (stageDefault x.sfmt), stageEpoch := BitVec.ofNat 64 epoch, oldStage := [] }, st.2.2)

end Sys2Proof.Machine
end

