-- ==== Sys2Proof/Machine/Arena.lean ====
section
/-!
DEFINITION. Reads of memory as a host port or an engine makes them: resident sets (R15, R17), the anchorage (R199),
convert-on-store windows (R147) and gate records (R38).
-/
namespace Sys2Proof.Machine

open Sys2Proof

/-- Whether a home address lies in a spilled token of the anchorage, whose bytes host software may read (R199): TWIDTH of
the entry's grains from its address. -/
def inSpill (s : State) (home : Nat) : Bool :=
  s.land.entries.any fun e => e.kind == .spill && decide (e.addr ≤ home ∧ home + 32 < e.addr + 32 * e.grains)

/-- A grain of the anchorage other than a spilled token: its layout is not given (log entry 9). -/
def freeGrain (home : Nat) : GrainRead := ⟨codewordOf (bytesGrain ((upFrom home 32).map Config.placeByte)), false⟩

/-- The bytes of an epoch word (Table 11-1). -/
def epochBytes (e : Epoch) : List Byte :=
  leBytes 8 e.epoch.toNat ++ leBytes 6 e.step ++
  leBytes 1 (b2n e.active + 2 * b2n e.expelled + 4 * b2n e.disputed) ++ leBytes 1 e.ls ++ leBytes 2 e.clean ++
  leBytes 2 e.tround ++ leBytes 4 e.skips ++ leBytes 8 e.seq.toNat

/-! ### Consignments as the arena holds them (R15, R17) -/

/-- Bytes that a consignment takes: both slips, tally, final gradient, staging and record, or its residuals. -/
def conBytes (rule sfmt : Nat) : Nat :=
  if rule = 0 then 16384 else 2 * slipLen rule + 32768 + 8192 + stageCodes sfmt + 128 + 32

/-- The bytes of a consignment record (Table 11-2). -/
def conRecordBytes (c : Consign) : List Byte :=
  leBytes 16 (maskOf c.zeroed) ++
  leBytes 1 (b2n c.tvalid + 2 * b2n c.finalised + 4 * b2n c.selected + 8 * b2n c.checked) ++ leBytes 1 0 ++
  leBytes 2 c.tround ++ leBytes 4 0 ++ leBytes 8 c.sealWord.toNat

/-- `n` bytes of a sparse table from an offset. -/
def tslice (t : Table Byte) (off n : Nat) (d : Nat → Byte) : List Byte := (upFrom off n).map fun i => tget t i (d i)

/-- Grain `j` of a consignment, of a set without slips: its residuals. -/
def residGrain (c : Consign) (j : Nat) : Grain :=
  bytesGrain ((upFrom (8 * j) 8).flatMap fun i => leBytes 4 (tget c.resid i 0).toNat)

/-- A grain, or poison in its place. -/
def giveGrain (g : Grain) (bad : Bool) : GrainRead := if bad then ⟨poisonOf 0, true⟩ else ⟨codewordOf g, false⟩

/-- Grain `j` of a consignment's tally. -/
def tallyGrain (c : Consign) (j : Nat) : GrainRead :=
  giveGrain (bytesGrain ((upFrom (4 * j) 4).flatMap fun e => leBytes 8 (tget c.tally e 0).toNat)) (c.badTally.contains j)

/-- Grains of a consignment beside its tally. -/
def restGrains (rule sfmt : Nat) : Nat := if rule = 0 then 512 else conBytes rule sfmt / 32 - 1024

/-- Grain `j` of a consignment in the order slip 0, slip 1, final gradient, staging, record, with whether it is poisoned; of a
dispatch set, its residuals. -/
def restGrain (rule sfmt : Nat) (c : Consign) (j : Nat) : GrainRead :=
  let sl := slipLen rule / 32
  if rule = 0 then giveGrain (residGrain c j) (c.badResid.contains j)
  else if j < sl then giveGrain (bytesGrain (tslice c.slip0 (32 * j) 32 (slipDefault rule))) (c.bad0.contains j)
  else if j < 2 * sl then
    giveGrain (bytesGrain (tslice c.slip1 (32 * (j - sl)) 32 (slipDefault rule))) (c.bad1.contains (j - sl))
  else
    let i := j - 2 * sl
    if i < 256 then
      giveGrain (bytesGrain ((upFrom (16 * i) 16).flatMap fun e => leBytes 2 (tget c.fg e 0).toNat)) (c.badFg.contains i)
    else if i < 256 + (stageCodes sfmt + 128) / 32 then
      giveGrain (bytesGrain (tslice c.stage (32 * (i - 256)) 32 (stageDefault sfmt))) false
    else giveGrain (bytesGrain (conRecordBytes c)) false

/-- Consignments of a set that are homed on quay q. -/
def quayCons (s : State) (x : Pset) (q : Nat) : Nat := (x.total + quays s.part - 1 - q) / quays s.part

/-- Grain `i` of a set's state on quay `q`: the tallies of the consignments homed there, then what else they have. -/
def quayGrain (s : State) (x : Pset) (q i : Nat) : Option GrainRead :=
  let rule := x.consts.rule
  let m := quayCons s x q
  let tallies := if rule = 0 then 0 else 1024 * m
  let con (k : Nat) : Consign := x.con (q + quays s.part * k)
  if i < tallies then some (tallyGrain (con (i / 1024)) (i % 1024))
  else
    let j := i - tallies
    let g := restGrains rule x.sfmt
    if j < m * g then some (restGrain rule x.sfmt (con (j / g)) (j % g)) else none

/-- The piece of a set's range on its quay that a home address lies in (R15); none before and after the whole rows, and in the
piece that the epoch word may lie in. -/
def pieceOf (s : State) (x : Pset) (home : Nat) : Option Nat :=
  let row := home / rowBytes s
  let h := 2 * (row - firstRow s x) + home % 512 / 256
  if row < firstRow s x ∨ h = 0 ∨ arenaPieces s x < h then none else some (h - 1)

/-- A grain of a set's arena range after the first (R15, R17): on quay q it holds a grain of the consignments homed on q, each in
one place, or a byte string that does not change. Which place is free, but fixed for the set (log entry 9). -/
def arenaGrain (s : State) (n : Nat) (x : Pset) (home : Nat) : GrainRead :=
  let q := (quayOf s.part home).getD 0
  let held := (pieceOf s x home).bind fun h => quayGrain s x q (8 * arenaPiece s n x q h + home % 256 / 32)
  held.getD ⟨codewordOf (bytesGrain ((upFrom home 32).map Config.placeByte)), false⟩

/-- The grain at an offset of a resident set's range: its epoch word stands first (R210). -/
def rangeGrain (s : State) (n : Nat) (x : Pset) (home off : Nat) : GrainRead :=
  if off = 0 then ⟨codewordOf (bytesGrain (epochBytes x.ep)), false⟩ else arenaGrain s n x home

/-- A read of a grain that is held apart from memory: poison counts at its quay (R326). -/
def countRead (s : State) (home : Nat) (g : GrainRead) : State × GrainRead :=
  (if g.bad then bump s (eccEntry s home) 47 32 1 else s, g)

/-- What a grain of interleaved DRAM holds that is kept apart from memory: a resident set's range or the anchorage. -/
def placedGrain (s : State) (home : Nat) : Option GrainRead :=
  match arenaOf? s home with
  | some (n, off) => some (((setOf? s n).map fun x => rangeGrain s n x home off).getD (freeGrain home))
  | none => if inAnchorage s home 32 && !inSpill s home then some (freeGrain home) else none

/-- Reads one grain of interleaved DRAM as its bank holds it, by its home address. -/
def readBank (s : State) (home : Nat) : State × GrainRead :=
  match placedGrain s home with
  | some g => countRead (startWake s home) home g
  | none => readGrain s home

/-- Reads one grain of interleaved DRAM by its home address, through a convert-on-store window where it lies in one (R147). -/
def readDram (s : State) (home : Nat) : State × GrainRead :=
  match (if (placedGrain s home).isSome then none else cosAt? s home) with
  | some (_, d) => cosReadGrain (startWake s home) d home
  | none => readBank s home

/-- Reads one grain of a memory region: DRAM through either view, quay SRAM, or the harbour SRAM window with its gate
records (R38). -/
def readMemGrain (s : State) (a : Nat) : State × GrainRead :=
  let home := homeAddr s.part a
  if inRegion s.part home .dram then readDram s home
  else if gateBase ≤ a ∧ a < gateBase + 0x40000 then
    (s, ⟨codewordOf (bytesGrain ((gateRecord (gateOf s ((a - gateBase) / 256))).drop (a % 256))), false⟩)
  else readGrain s home

/-- Reads several grains from a local address. -/
def readMem : Nat → State → Nat → State × List GrainRead
  | 0, s, _ => (s, [])
  | n + 1, s, a =>
    let r := readMemGrain s a
    let t := readMem n r.1 (a + 32)
    (t.1, r.2 :: t.2)

end Sys2Proof.Machine
end

