-- ==== Sys2Proof/Machine/BerthOp.lean ====
section
/-!
DEFINITION. Berth operations: the header and operand descriptors (R285), the checks (R286), the order of arithmetic
(R288-R290) and what each operation of Table 14-8 computes (R291-R295).
-/
namespace Sys2Proof.Machine

open Sys2Proof

/-! ### Header and operands (Tables 14-6 and 14-7) -/

/-- `n` bytes at an offset of the copied slots. -/
def BOp.at (o : BOp) (off n : Nat) : Nat := fieldAt o.slots off n

def BOp.op (o : BOp) : Nat := o.at 0 1
def BOp.stoch (o : BOp) : Bool := bit (o.at 1 1) 0
def BOp.maskEn (o : BOp) : Bool := bit (o.at 1 1) 1
def BOp.affine (o : BOp) : Bool := bit (o.at 1 1) 2
def BOp.layer (o : BOp) : Bool := bit (o.at 1 1) 3
def BOp.ofmt (o : BOp) : Nat := o.at 2 1
def BOp.rop (o : BOp) : Nat := o.at 3 1
def BOp.count (o : BOp) : Nat := o.at 4 4
def BOp.len (o : BOp) : Nat := o.at 8 4
def BOp.vcount (o : BOp) : Nat := o.at 12 4
def BOp.dst (o : BOp) : Nat := o.at 56 4 % 2 ^ 27
def BOp.dstride (o : BOp) : Nat := o.at 60 4
def BOp.f32 (o : BOp) (off : Nat) : F32 := BitVec.ofNat 32 (o.at off 4)

/-- An operand descriptor (Table 14-7). -/
structure Oprnd where
  off : Nat
  stride : Nat
  fmt : Nat
  scaling : Nat
  sb : Nat
  soff : Nat
  stray : Bool          -- a reserved bit is set
  deriving DecidableEq, Repr

/-- Operand k: 0-3 are A-D, 4 is X. -/
def BOp.oprnd (o : BOp) (k : Nat) : Oprnd :=
  let a := 64 + 16 * k
  { off := o.at a 4 % 2 ^ 27, stride := o.at (a + 4) 4, fmt := o.at (a + 8) 1, scaling := o.at (a + 9) 1,
    sb := o.at (a + 10) 1, soff := o.at (a + 12) 4 % 2 ^ 27,
    stray := decide (2 ^ 27 ≤ o.at a 4) || o.at (a + 11) 1 != 0 || decide (2 ^ 27 ≤ o.at (a + 12) 4) }

/-- A use of an operand by an operation: which, how many vectors of how many elements, and whether vectors are stepped
over by STRIDE. -/
structure Use where
  k : Nat
  vecs : Nat
  n : Nat
  stepped : Bool
  deriving DecidableEq, Repr

/-- What an operation reads for the first `cnt` elements of its vectors of COUNT and the first `vc` of its VCOUNT vectors (Table
14-8). Operand D is one vector of pairs. -/
def BOp.usesOf (o : BOp) (cnt vc : Nat) : List Use :=
  let one (k : Nat) : Use := ⟨k, 1, cnt, false⟩
  let rows (k : Nat) : Use := ⟨k, vc, o.len, true⟩
  let vec (k : Nat) : Use := ⟨k, 1, o.len, false⟩
  let pairs : Use := ⟨3, 1, 2 * vc, false⟩
  match o.op with
  | 1 => [rows 0, vec 4]
  | 2 => [one 0, one 1]
  | 3 => [one 0]
  | 4 => [one 0, one 1]
  | 5 => [one 0, one 1]
  | 6 => [one 0]
  | 7 => [one 0]
  | 8 => [rows 0]
  | 9 => if o.affine then [rows 0, vec 1, vec 2, pairs] else [rows 0, pairs]
  | 10 => [rows 0]
  | 11 => [rows 0, pairs]
  | 12 => [vec 4, rows 0, rows 1]
  | _ => []

/-- The operands an operation reads. -/
def BOp.uses (o : BOp) : List Use := o.usesOf o.count o.vcount

/-- Bytes of `n` elements of a format. -/
def vecBytes (f n : Nat) : Nat := ceilDiv (n * fmtBits f) 8

/-- The vectors of a use that have elements. -/
def Use.vectors (u : Use) : List Nat := if u.n = 0 then [] else List.range u.vecs

/-- Byte ranges a use reads: vectors and, under SCALING 2, scale bytes (R312). -/
def useRanges (o : BOp) (u : Use) : List (Nat × Nat) :=
  let d := o.oprnd u.k
  (u.vectors.map fun v => (d.off + v * d.stride, vecBytes d.fmt u.n)) ++
  (if d.scaling = 2 then u.vectors.map fun v => (d.soff + v * ceilDiv u.n 32, ceilDiv u.n 32) else [])

/-- The operand ranges of an operation (R312). -/
def BOp.operandRanges (o : BOp) : List (Nat × Nat) := o.uses.flatMap (useRanges o)

/-- Operations that write only at their end (R315). -/
def writesLate (op : Nat) : Bool := op == 2 || op == 7 || op == 12

/-- Whether the result is fixed as F32 (Table 14-8). -/
def fixedF32 (op : Nat) : Bool := op == 2 || op == 7 || op == 8 || op == 10 || op == 12

/-- Groups of result elements: where each group starts, its elements, and the bytes of one (Table 14-8). -/
def BOp.resultGroups (o : BOp) : List (Nat × Nat × Nat) :=
  let sz := fmtBits o.ofmt / 8
  match o.op with
  | 1 => [(o.dst, o.vcount, sz)]
  | 2 => [(o.dst, 1, 4)]
  | 3 => [(o.dst, o.count, sz)]
  | 4 => [(o.dst, o.count, sz)]
  | 5 => [(o.dst, o.count, sz)]
  | 6 => [(o.dst, o.count, sz)]
  | 7 => [(o.dst, 1, 4)]
  | 8 => [(o.dst, 2 * o.vcount, 4)]
  | 9 => (Use.mk 0 o.vcount o.len true).vectors.map fun v => (o.dst + v * o.dstride, o.len, sz)
  | 10 => [(o.dst, 2 * o.vcount, 4)]
  | 11 => (Use.mk 0 o.vcount o.len true).vectors.map fun v => (o.dst + v * o.dstride, o.len, sz)
  | 12 => [(o.dst, o.len + 2, 4)]
  | _ => []

/-- Bytes of a group in whole grains. -/
def groupBytes (g : Nat × Nat × Nat) : Nat := ceilDiv (g.2.1 * g.2.2) 32 * 32

/-- Result elements. -/
def BOp.resultCount (o : BOp) : Nat :=
  match o.op with
  | 9 | 11 => o.vcount * o.len
  | _ => (o.resultGroups.map fun g => g.2.1).foldl (· + ·) 0

/-- A count field that Table 14-8 names is zero (R85). -/
def BOp.isEmpty (o : BOp) : Bool :=
  match o.op with
  | 1 | 8 | 9 | 10 | 11 | 12 => o.len == 0 || o.vcount == 0
  | _ => o.count == 0

/-! ### Checks (R286) -/

/-- Whether the sizes of an operation are within their bounds: COUNT, VCOUNT × LEN and the result elements (R286); ranges are
formed only where they are. -/
def BOp.sizesOk (o : BOp) : Bool :=
  decide (o.count ≤ 2 ^ 24 ∨ 8 ≤ o.op ∨ o.op = 1) &&
  (match o.op with
   | 1 | 8 | 9 | 10 | 11 | 12 => decide (o.vcount * o.len ≤ 2 ^ 24)
   | _ => true) &&
  (match o.op with
   | 1 => decide (o.len ≤ 128 ∧ o.vcount ≤ 2 ^ 24)
   | 12 => decide (o.len ≤ 128)
   | 8 | 10 => decide (2 * o.vcount ≤ 2 ^ 24)
   | _ => true)

/-- Whether an operand descriptor is malformed for its use. -/
def oprndBad (o : BOp) (u : Use) : Bool :=
  let d := o.oprnd u.k
  d.stray || decide (6 < d.fmt) || (d.fmt == 0) != (u.k == 3) || decide (2 < d.scaling) ||
  (decide (fI8 ≤ d.fmt) && d.scaling == 0) || d.off % 32 != 0 ||
  (u.stepped && (d.stride % 32 != 0 || decide (d.stride < vecBytes d.fmt u.n))) ||
  (useRanges o u).any (fun r => decide (bankBytes < r.1 + r.2 ∧ r.2 ≠ 0))

/-- Operand A of an in-place operation may overlap the write region (R287). -/
def BOp.inPlace (o : BOp) : Bool :=
  let a := o.oprnd 0
  (o.op == 3 || o.op == 4 || o.op == 5 || o.op == 6 || o.op == 9 || o.op == 11) && a.off == o.dst &&
  (o.op < 9 || a.stride == o.dstride) && fmtBits a.fmt == fmtBits o.ofmt

/-- Whether an operand overlaps the write region where it may not. -/
def overlapBad (o : BOp) (u : Use) : Bool :=
  let d := o.oprnd u.k
  let vec := u.vectors.map fun v => (d.off + v * d.stride, vecBytes d.fmt u.n)
  let rs := if u.k = 0 ∧ o.inPlace then (useRanges o u).drop vec.length else useRanges o u
  rs.any fun r => overlaps r.1 r.2 o.wlo (o.whi - o.wlo)

/-- Breakpoint i and coefficient j of ACT (R292). -/
def BOp.breakpoint (o : BOp) (i : Nat) : F32 := o.f32 (128 + 4 * i)
def BOp.coef (o : BOp) (s j : Nat) : F32 := o.f32 (156 + 12 * s + 4 * j)

/-- The grain of the image that holds the descriptor of a use's operand. -/
def Use.grain (u : Use) : Nat := 2 + u.k / 2

/-- Why the table of ACT is not usable: slots missing, breakpoints that decrease, or a NaN. Each fault comes with the grains of
the image that it shows in. -/
def actFaults (o : BOp) : List (List Nat × Bool) :=
  [([0], decide (o.slots.length < 256)), ([0, 4], (List.range 7).any fun i => (ofF32 (o.breakpoint i)).isNan),
   ([0, 4], (List.range 6).any fun i => (ofF32 (o.breakpoint (i + 1))).lt (ofF32 (o.breakpoint i)))] ++
  (List.range 24).map fun i => ([0, (156 + 4 * i) / 32], (ofF32 (o.coef (i / 3) (i % 3))).isNan)

/-- The faults of the header alone (R286), each with the grains of the image that it shows in. -/
def BOp.headFaults (o : BOp) : List (List Nat × Bool) :=
  [([0], decide (16 ≤ o.at 1 1) || decide (2 ^ 27 ≤ o.at 16 4) || decide (2 ^ 27 ≤ o.at 20 4) || decide (4 < o.ofmt) ||
      (fixedF32 o.op && o.ofmt != 0) || !o.sizesOk || decide (bankBytes < o.whi) || (o.op == 7 && decide (4 < o.rop))),
   ([1], decide (2 ^ 27 ≤ o.at 56 4) || o.at 35 1 != 0 || o.dst % 32 != 0),
   ([0, 1], o.maskEn && decide (3 ≤ o.op ∧ o.op ≤ 6) && decide (65536 < o.at 36 4))]

/-- The faults of operands and result (R286), which are formed where the sizes are within their bounds. -/
def BOp.rangeFaults (o : BOp) : List (List Nat × Bool) :=
  [([0, 1], (o.op == 9 || o.op == 11) && (o.dstride % 32 != 0 || decide (o.dstride < vecBytes o.ofmt o.len))),
   ([0, 1], !o.isEmpty && o.resultGroups.any fun g => decide (g.1 < o.wlo ∨ o.whi < g.1 + groupBytes g))] ++
  (o.uses.map fun u => ([0, u.grain], oprndBad o u)) ++
  (o.uses.map fun u => (if u.k = 0 then [0, 1, 2] else [0, u.grain], overlapBad o u))

/-- The BAD_PARAM faults of R286. -/
def BOp.faults (o : BOp) : List (List Nat × Bool) :=
  o.headFaults ++ (if o.op = 6 then actFaults o else []) ++ (if o.sizesOk then o.rangeFaults else [])

/-- BAD_PARAM of R286 where `rd` says which grains of the image can be read: a check that needs another is not made (R429). -/
def BOp.badWhere (o : BOp) (rd : Nat → Bool) : Bool := o.faults.any fun f => f.1.all rd && f.2

/-- BAD_PARAM of R286. -/
def BOp.bad (o : BOp) : Bool := o.badWhere fun _ => true

/-- Whether the operation exists on the unit (R286). -/
def opKnown (part : Part) (op : Nat) : Bool := decide (1 ≤ op ∧ op ≤ 11) || (op == 12 && part == .z16)

/-- Whether a right of the issuing port is held at a range of the bank; an operation of a batch that started before the lock is
checked under the map of its start (R412). -/
def BOp.right (s : State) (b : Nat) (o : BOp) (need : Nat) (r : Nat × Nat) : Bool :=
  o.unlocked || hasRight s o.port need (apertureBase + b * bankBytes + r.1) r.2

/-- Whether the issuing port lacks a right, or the write region holds arena or anchorage bytes (R286), as far as the grains of
the image that can be read show it (R429). -/
def BOp.deniedWhere (s : State) (b : Nat) (rd : Nat → Bool) (o : BOp) : Bool :=
  rd 0 &&
    ((o.uses.filter fun u => rd u.grain).any (fun u => (useRanges o u).any fun r => !o.right s b rightRead r) ||
     !o.right s b rightWrite (o.wlo, o.whi - o.wlo) ||
     (decide (o.wlo < o.whi) && decide (min (arenaBase s) (anchBase s) ≤ bankAddr s.part b (o.whi - 1))))

/-- DENIED of R286. -/
def BOp.denied (s : State) (b : Nat) (o : BOp) : Bool := o.deniedWhere s b fun _ => true

/-- The status with which an operation ends without running, if any (R286). -/
def BOp.checks (s : State) (b : Nat) (o : BOp) : Option Nat :=
  if !opKnown s.part o.op then some stBAD_OPCODE
  else if o.bad then some stBAD_PARAM
  else if o.denied s b then some stDENIED
  else if o.isEmpty then some stDONE_EMPTY
  else none

/-! ### Arithmetic (R289, R290) -/

/-- Sixteen lane sums added by a balanced tree. -/
def treeSum (z : Bool) : Nat → List Val → Fl Val
  | 0, l => pure (vAt l 0)
  | n + 1, l => do
    let h ← (List.range (l.length / 2)).mapM fun i => fadd z (vAt l (2 * i)) (vAt l (2 * i + 1))
    treeSum z n h

/-- A sum of terms by sixteen lanes (R289). -/
def laneSum (z : Bool) (ts : List Val) : Fl Val := do
  let lanes ← (List.range 16).mapM fun l =>
    sumFrom z .zero ((List.range (ceilDiv (ts.length - l) 16)).map fun i => vAt ts (16 * i + l))
  treeSum z 4 lanes

/-- Maximum with +0 greater than -0; NaN propagates (R289). -/
def maxSigned (a b : Val) : Val :=
  if a.isNan || b.isNan then .nan else if a.isZero && b.isZero then (if a.isNeg then b else a)
  else if a.lt b then b else a

def minSigned (a b : Val) : Val :=
  if a.isNan || b.isNan then .nan else if a.isZero && b.isZero then (if a.isNeg then a else b)
  else if b.lt a then b else a

/-- 24-bit significands of 2^(i/64), i < 32. -/
def t64lo : List Nat :=
  [8388608, 8479954, 8572295, 8665641, 8760003, 8855394, 8951823, 9049301, 9147842, 9247455, 9348154, 9449948, 9552851,
   9656875, 9762032, 9868333, 9975792, 10084422, 10194234, 10305242, 10417458, 10530897, 10645571, 10761494, 10878679,
   10997140, 11116891, 11237946, 11360319, 11484025, 11609078, 11735492]

/-- 24-bit significands of 2^(i/64), 32 ≤ i < 64. -/
def t64hi : List Nat :=
  [11863283, 11992466, 12123055, 12255067, 12388516, 12523418, 12659789, 12797645, 12937002, 13077877, 13220286,
   13364245, 13509772, 13656884, 13805598, 13955931, 14107901, 14261526, 14416824, 14573813, 14732511, 14892937,
   15055111, 15219050, 15384775, 15552304, 15721658, 15892855, 16065917, 16240863, 16417715, 16596492]

/-- T64[i] (R290). -/
def t64 (i : Nat) : Val := .fin false (if i < 32 then t64lo.getD i 0 else t64hi.getD (i - 32) 0) (-23)

/-- Floor of a finite value as an integer. -/
def floorVal : Val → Int
  | .fin n m e =>
    let q := shiftI m e
    if n then (if magCmp q 0 m e == .eq then -(q : Int) else -(q : Int) - 1) else q
  | _ => 0

/-- An integer times a power of two. -/
def valOfInt (i : Int) (e : Int) : Val := if i < 0 then .fin true i.natAbs e else .fin false i.natAbs e

/-- exp(x) of R290. -/
def expVal (z : Bool) (x : Val) : Fl Val :=
  match x with
  | .nan => pure .nan
  | .inf n => pure (if n then .zero else .inf false)
  | x => do
    let t ← fmul z x (ofF32 0x3FB8AA3B#32)
    if !(t.lt (.fin false 128 0)) then pure (.inf false)
    else if t.lt (.fin true 150 0) then pure .zero
    else do
      let n := floorVal t
      let f := addExact t (valOfInt (-n) 0)
      let i := (floorVal (f.scale 6)).toNat
      let r := addExact f (valOfInt (-(i : Int)) (-6))
      let a ← fmul z r (ofF32 0x3D635847#32)
      let b ← fadd z (ofF32 0x3E75FDF0#32) a
      let c ← fmul z r b
      let d ← fadd z (ofF32 0x3F317218#32) c
      let g ← fmul z r d
      let p ← fadd z .one g
      let y ← fmul z (t64 i) p
      flushSmall z (y.scale n).round

/-! ### Reading operands -/

/-- Operand grains by bank offset, with the later readings of a grain that is read more than once above 2^27; none where
poisoned. -/
abbrev Grains := Table (Option Grain)

/-- The key of a grain in a pass. -/
def passKey (pass x : Nat) : Nat := pass * 2 ^ 27 + x

/-- Whether every grain that a byte range touches is good. -/
def rangeGood (t : Grains) (pass : Nat) (r : Nat × Nat) : Bool :=
  (grainsOf r.1 r.2).all fun x => (tget t (passKey pass x) none).isSome

/-- `n` bytes at a bank offset as a number. -/
def grainsAt (t : Grains) (pass x n : Nat) : Nat :=
  match tget t (passKey pass (x / 32 * 32)) none with
  | some g => fieldAt (grainBytes g) (x % 32) n
  | none => 0

/-- Element i of vector v of a use, decoded (R288). -/
def elemAt (o : BOp) (t : Grains) (pass : Nat) (u : Use) (v i : Nat) : Fl Val :=
  let d := o.oprnd u.k
  let sz := fmtBits d.fmt / 8
  let code := grainsAt t pass (d.off + v * d.stride + i * sz) sz
  let sc := match d.scaling with
    | 0 => 127
    | 1 => d.sb
    | _ => grainsAt t pass (d.soff + v * ceilDiv u.n 32 + i / 32) 1
  fdecode o.ftz d.fmt code sc

/-- Whether element i of vector v can be read: its grain and its scale byte. -/
def elemGood (o : BOp) (t : Grains) (u : Use) (v i : Nat) : Bool :=
  let d := o.oprnd u.k
  let sz := fmtBits d.fmt / 8
  rangeGood t 0 (d.off + v * d.stride + i * sz, sz) &&
  (d.scaling != 2 || rangeGood t 0 (d.soff + v * ceilDiv u.n 32 + i / 32, 1))

/-- Whether a whole vector can be read. -/
def vecGood (o : BOp) (t : Grains) (pass : Nat) (u : Use) (v : Nat) : Bool :=
  let d := o.oprnd u.k
  rangeGood t pass (d.off + v * d.stride, vecBytes d.fmt u.n) &&
  (d.scaling != 2 || rangeGood t pass (d.soff + v * ceilDiv u.n 32, ceilDiv u.n 32))

/-- The decoded elements of a vector. -/
def vecAt (o : BOp) (t : Grains) (pass : Nat) (u : Use) (v : Nat) : Fl (List Val) :=
  (List.range u.n).mapM (elemAt o t pass u v)

/-! ### Results -/

/-- A result element: its bytes, or none where it depends on poison; and what it counts. -/
structure RElem where
  bytes : Option (List Byte)
  sat : Nat
  flush : Nat
  deriving DecidableEq, Repr

def RElem.poison : RElem := { bytes := none, sat := 0, flush := 0 }

/-- Elements of an F32 result from a computation of several values: the flushes count at the first. -/
def f32Elems (c : Fl (List Val)) : List RElem :=
  let r := c.run 0
  r.1.zipIdx.map fun v => { bytes := some (leBytes 4 (toF32 v.1).toNat), sat := 0, flush := if v.2 = 0 then r.2 else 0 }

/-- Index of a result element in the Kewen counter (R291). -/
def resultIndex (o : BOp) (pos : Nat) : Nat := o.logidx * 2 ^ 24 + pos

/-- A computed value converted to OFMT at its position (R291). -/
def ofmtElem (o : BOp) (pos : Nat) (c : Fl Val) : RElem :=
  let r := (do
    let v ← c
    convert o.ftz o.ofmt false
      (if o.stoch then some (kwDraw o.seed (o.at 24 2) (o.at 26 6) (resultIndex o pos) 0x06) else none) 0 v).run 0
  { bytes := some (leBytes (fmtBits o.ofmt / 8) r.1.code), sat := b2n r.1.sat, flush := r.2 }

/-- A parameter of the header as an F32 operand. -/
def BOp.param (o : BOp) (off : Nat) : Fl Val := fdecode1 o.ftz fF32 (o.at off 4)

def BOp.alpha (o : BOp) : Fl Val := o.param 40

/-- The mask of an element-wise result (R291). -/
def maskElem (o : BOp) (pos : Nat) (y : Val) : Fl Val :=
  if !o.maskEn then pure y
  else if kwMask o.seed (o.at 24 2) (o.at 26 6) (resultIndex o pos) (o.at 36 4) then do
    let m ← o.param 52
    fmul o.ftz y m
  else pure .zero

/-- The segment of an argument of ACT (R292); its breakpoints are decoded as every operand is (R138, R288). -/
def actSegment (o : BOp) (u : Val) : Fl Nat := do
  let bs ← (List.range 7).mapM fun i => fdecode1 o.ftz fF32 (o.breakpoint i).toNat
  pure (bs.filter fun b => !(u.lt b)).length

/-- f of ACT (R292). -/
def actVal (o : BOp) (u : Val) : Fl Val :=
  if u.isNan then pure .nan
  else do
    let g ← actSegment o u
    let c2 ← fdecode1 o.ftz fF32 (o.coef g 2).toNat
    let c1 ← fdecode1 o.ftz fF32 (o.coef g 1).toNat
    let c0 ← fdecode1 o.ftz fF32 (o.coef g 0).toNat
    let a ← fmul o.ftz c2 u
    let b ← fadd o.ftz a c1
    let c ← fmul o.ftz b u
    fadd o.ftz c c0

/-- The operand uses by place. -/
def useA (o : BOp) (stepped : Bool) : Use := if stepped then ⟨0, o.vcount, o.len, true⟩ else ⟨0, 1, o.count, false⟩
def useB (o : BOp) : Use := ⟨1, 1, o.count, false⟩

/-- Element-wise results: `f` maps the elements of A, and of B where `two`. -/
def elementwise (o : BOp) (t : Grains) (two : Bool) (f : Val → Val → Fl Val) : List RElem :=
  (List.range o.count).map fun i =>
    if elemGood o t (useA o false) 0 i && (!two || elemGood o t (useB o) 0 i) then
      ofmtElem o i (do
        let a ← elemAt o t 0 (useA o false) 0 i
        let b ← if two then elemAt o t 0 (useB o) 0 i else pure .zero
        let y ← f a b
        maskElem o i y)
    else RElem.poison

/-- MATVEC (Table 14-8). -/
def matvecElems (o : BOp) (t : Grains) : List RElem :=
  let x : Use := ⟨4, 1, o.len, false⟩
  (List.range o.vcount).map fun r =>
    if vecGood o t 0 x 0 && vecGood o t 0 (useA o true) r then
      ofmtElem o r (do
        let a ← vecAt o t 0 (useA o true) r
        let xs ← vecAt o t 0 x 0
        let ps ← (a.zip xs).mapM fun p => fmul o.ftz p.1 p.2
        let y ← laneSum o.ftz ps
        let al ← o.alpha
        fmul o.ftz al y)
    else RElem.poison

/-- DOT. -/
def dotElems (o : BOp) (t : Grains) : List RElem :=
  if vecGood o t 0 (useA o false) 0 && vecGood o t 0 (useB o) 0 then
    f32Elems (do
      let a ← vecAt o t 0 (useA o false) 0
      let b ← vecAt o t 0 (useB o) 0
      let ps ← (a.zip b).mapM fun p => fmul o.ftz p.1 p.2
      let y ← laneSum o.ftz ps
      pure [y])
  else [RElem.poison]

/-- SCALE, ADD, MUL and ACT. -/
def scaleElems (o : BOp) (t : Grains) : List RElem :=
  elementwise o t false fun a _ => do
    let al ← o.alpha
    let be ← o.param 44
    let y ← fmul o.ftz al a
    fadd o.ftz y be

def addElems (o : BOp) (t : Grains) : List RElem :=
  elementwise o t true fun a b => do
    let al ← o.alpha
    let y ← fmul o.ftz al b
    fadd o.ftz a y

def mulElems (o : BOp) (t : Grains) : List RElem :=
  elementwise o t true fun a b => do
    let al ← o.alpha
    let y ← fmul o.ftz a b
    fmul o.ftz y al

def actElems (o : BOp) (t : Grains) : List RElem :=
  elementwise o t false fun a _ => do
    let al ← o.alpha
    let u ← fmul o.ftz al a
    actVal o u

/-- A value rounded to F32 (R136, R138). -/
def asF32 (z : Bool) (x : Val) : Fl Val := do
  let c ← convert z fF32 false none 0 x
  pure (decodeCode fF32 c.code)

/-- REDUCE by ROP. A maximum or minimum of decoded elements is rounded to the F32 that its grain holds (R136). -/
def reduceVal (o : BOp) (a : List Val) : Fl Val :=
  match o.rop with
  | 0 => laneSum o.ftz a
  | 1 => do
    let sq ← a.mapM fun x => fmul o.ftz x x
    laneSum o.ftz sq
  | 2 => asF32 o.ftz (a.foldl maxSigned (vAt a 0))
  | 3 => asF32 o.ftz (a.foldl minSigned (vAt a 0))
  | _ => asF32 o.ftz ((a.map Val.abs).foldl maxSigned (vAt a 0).abs)

def reduceElems (o : BOp) (t : Grains) : List RElem :=
  if vecGood o t 0 (useA o false) 0 then
    f32Elems (do
      let a ← vecAt o t 0 (useA o false) 0
      let y ← reduceVal o a
      pure [y])
  else [RElem.poison]

/-- NORM_STAT of one vector (R293): the second pass reads the operand again. -/
def normStatVec (o : BOp) (t : Grains) (v : Nat) : Fl (List Val) := do
  let z := o.ftz
  let n := valOfInt o.len 0
  let a ← vecAt o t 0 (useA o true) v
  let mu ← if o.layer then (do let s ← laneSum z a; fdiv z s n) else pure .zero
  let b ← if o.layer then vecAt o t 1 (useA o true) v else pure a
  let sq ← b.mapM fun x => do
    let d ← if o.layer then fsub z x mu else pure x
    fmul z d d
  let s2 ← laneSum z sq
  let w ← fdiv z s2 n
  let eps ← o.param 48
  let we ← fadd z w eps
  let r ← fsqrt z we
  let rho ← fdiv z .one r
  pure [mu, rho]

def normStatElems (o : BOp) (t : Grains) : List RElem :=
  (List.range o.vcount).flatMap fun v =>
    if vecGood o t 0 (useA o true) v && (!o.layer || vecGood o t 1 (useA o true) v) then f32Elems (normStatVec o t v)
    else [RElem.poison, RElem.poison]

/-- Operand D as one vector of pairs, and B and C as one vector of L. -/
def useD (o : BOp) : Use := ⟨3, 1, 2 * o.vcount, false⟩
def useVec (o : BOp) (k : Nat) : Use := ⟨k, 1, o.len, false⟩

/-- NORM_APPLY. Its B and C are read anew for each vector (R317, Table 14-9). -/
def normApplyElems (o : BOp) (t : Grains) : List RElem :=
  (List.range o.vcount).flatMap fun v =>
    let good := vecGood o t 0 (useA o true) v && elemGood o t (useD o) 0 (2 * v) && elemGood o t (useD o) 0 (2 * v + 1) &&
      (!o.affine || (vecGood o t v (useVec o 1) 0 && vecGood o t v (useVec o 2) 0))
    (List.range o.len).map fun i =>
      if good then
        ofmtElem o (v * o.len + i) (do
          let a ← elemAt o t 0 (useA o true) v i
          let mu ← elemAt o t 0 (useD o) 0 (2 * v)
          let rho ← elemAt o t 0 (useD o) 0 (2 * v + 1)
          let d ← fsub o.ftz a mu
          let y ← fmul o.ftz d rho
          if o.affine then do
            let b ← elemAt o t v (useVec o 1) 0 i
            let c ← elemAt o t v (useVec o 2) 0 i
            let y1 ← fmul o.ftz y b
            fadd o.ftz y1 c
          else pure y)
      else RElem.poison

/-- One element of SMAX_STAT (R294). -/
def smaxStep (z : Bool) (al : Val) (ms : Val × Val) (a : Val) : Fl (Val × Val) := do
  let u ← fmul z al a
  if u = .inf true then pure ms
  else do
    let m1 := maxSigned ms.1 u
    let d0 ← fsub z ms.1 m1
    let e0 ← expVal z d0
    let d1 ← fsub z u m1
    let e1 ← expVal z d1
    let s0 ← fmul z ms.2 e0
    let s1 ← fadd z s0 e1
    pure (m1, s1)

def smaxStatElems (o : BOp) (t : Grains) : List RElem :=
  (List.range o.vcount).flatMap fun v =>
    if vecGood o t 0 (useA o true) v then
      f32Elems (do
        let a ← vecAt o t 0 (useA o true) v
        let al ← o.alpha
        let r ← a.foldlM (smaxStep o.ftz al) (.inf true, .zero)
        pure [r.1, r.2])
    else [RElem.poison, RElem.poison]

def smaxApplyElems (o : BOp) (t : Grains) : List RElem :=
  (List.range o.vcount).flatMap fun v =>
    let good := vecGood o t 0 (useA o true) v && elemGood o t (useD o) 0 (2 * v) && elemGood o t (useD o) 0 (2 * v + 1)
    (List.range o.len).map fun i =>
      if good then
        ofmtElem o (v * o.len + i) (do
          let a ← elemAt o t 0 (useA o true) v i
          let m ← elemAt o t 0 (useD o) 0 (2 * v)
          let sm ← elemAt o t 0 (useD o) 0 (2 * v + 1)
          let al ← o.alpha
          let u ← fmul o.ftz al a
          let d ← fsub o.ftz u m
          let e ← expVal o.ftz d
          let q ← fdiv o.ftz .one sm
          fmul o.ftz e q)
      else RElem.poison

/-- A partial triple of attention (R295). -/
structure Triple where
  m : Val
  s : Val
  acc : List Val
  deriving DecidableEq, Repr

/-- One key of ATTN (R295). -/
def attnKey (z : Bool) (al : Val) (xs : List Val) (tr : Triple) (key val : List Val) : Fl Triple := do
  let ps ← (xs.zip key).mapM fun p => fmul z p.1 p.2
  let d ← laneSum z ps
  let sk ← fmul z al d
  if sk = .inf true then pure tr
  else do
    let m1 := maxSigned tr.m sk
    let d0 ← fsub z tr.m m1
    let e0 ← expVal z d0
    let d1 ← fsub z sk m1
    let e1 ← expVal z d1
    let s0 ← fmul z tr.s e0
    let s1 ← fadd z s0 e1
    let acc ← (tr.acc.zip val).mapM fun p => do
      let x ← fmul z p.1 e0
      let y ← fmul z e1 p.2
      fadd z x y
    pure { m := m1, s := s1, acc := acc }

/-- The keys of ATTN in order; `n` are left. The query is decoded at each use (R288). -/
def attnKeys (o : BOp) (t : Grains) (al : Val) : Nat → Nat → Triple → Fl Triple
  | 0, _, tr => pure tr
  | n + 1, k, tr => do
    let xs ← vecAt o t 0 (useVec o 4) 0
    let key ← vecAt o t 0 (useA o true) k
    let val ← vecAt o t 0 ⟨1, o.vcount, o.len, true⟩ k
    let tr1 ← attnKey o.ftz al xs tr key val
    attnKeys o t al n (k + 1) tr1

def attnElems (o : BOp) (t : Grains) : List RElem :=
  if o.uses.all (fun u => (List.range u.vecs).all (vecGood o t 0 u)) then
    f32Elems (do
      let al ← o.alpha
      let tr ← attnKeys o t al o.vcount 0 { m := .inf true, s := .zero, acc := List.replicate o.len .zero }
      pure (tr.m :: tr.s :: tr.acc))
  else List.replicate (o.len + 2) RElem.poison

/-- The result elements of an operation in output order (Table 14-8). -/
def BOp.elems (o : BOp) (t : Grains) : List RElem :=
  match o.op with
  | 1 => matvecElems o t
  | 2 => dotElems o t
  | 3 => scaleElems o t
  | 4 => addElems o t
  | 5 => mulElems o t
  | 6 => actElems o t
  | 7 => reduceElems o t
  | 8 => normStatElems o t
  | 9 => normApplyElems o t
  | 10 => smaxStatElems o t
  | 11 => smaxApplyElems o t
  | _ => attnElems o t

/-- A result grain: where it goes, its bytes (none for poison) without padding, and what it counts. -/
structure RGrain where
  off : Nat
  bytes : Option (List Byte)
  elems : Nat
  sat : Nat
  flush : Nat
  deriving DecidableEq, Repr

/-- The bytes of all elements, none where one is poison. -/
def joinBytes : List RElem → Option (List Byte)
  | [] => some []
  | e :: t =>
    match e.bytes, joinBytes t with
    | some b, some r => some (b ++ r)
    | _, _ => none

/-- One grain of elements. -/
def grainOfElems (off : Nat) (es : List RElem) : RGrain :=
  { off := off, bytes := joinBytes es, elems := es.length, sat := es.foldl (fun n e => n + e.sat) 0,
    flush := es.foldl (fun n e => n + e.flush) 0 }

/-- Cuts elements into groups and grains; `n` bounds the grains. -/
def cutGrains (per : Nat) : Nat → Nat → List RElem → List RGrain
  | 0, _, _ => []
  | n + 1, off, es =>
    if es.isEmpty then [] else grainOfElems off (es.take per) :: cutGrains per n (off + 32) (es.drop per)

/-- The result grains of the groups, in output order (R315). -/
def cutGroups : List (Nat × Nat × Nat) → List RElem → List RGrain
  | [], _ => []
  | g :: t, es => cutGrains (32 / g.2.2) (g.2.1 + 1) g.1 (es.take g.2.1) ++ cutGroups t (es.drop g.2.1)

/-- Elements in the first `n` grains of the groups. -/
def elemsIn : List (Nat × Nat × Nat) → Nat → Nat
  | [], _ => 0
  | g :: t, n =>
    let whole := ceilDiv g.2.1 (32 / g.2.2)
    if n ≤ whole then min g.2.1 (n * (32 / g.2.2)) else g.2.1 + elemsIn t (n - whole)

/-- Vectors that the first `m` result elements depend on: two elements of a pair for each, or LEN, or one. -/
def BOp.vectorsFor (o : BOp) (m : Nat) : Nat :=
  match o.op with
  | 1 => m
  | 8 | 10 => ceilDiv m 2
  | 9 | 11 => ceilDiv m o.len
  | _ => if m = 0 then 0 else o.vcount

/-- What the unit has read before it writes its first `m` result elements (R317). -/
def BOp.usesFor (o : BOp) (m : Nat) : List Use :=
  o.usesOf (if writesLate o.op then o.count else min m o.count) (min (o.vectorsFor m) o.vcount)

/-- The result grains of an operation. -/
def BOp.grains (o : BOp) (t : Grains) : List RGrain := cutGroups o.resultGroups (o.elems t)

/-- Whether the bytes after the last element of a grain are zero: DOT, REDUCE and ATTN (Table 14-8, R295). -/
def BOp.padsZero (o : BOp) : Bool := o.op == 2 || o.op == 7 || o.op == 12

end Sys2Proof.Machine
end

