-- ==== Sys2Proof/Machine/BerthUnit.lean ====
section
/-!
DEFINITION. Berth units at work: mode words and command windows (R280-R284), permits (R297), how an operation starts, runs
and ends, batches and their merge (R296, R299-R301), and duplicates (R337, R338).
-/
namespace Sys2Proof.Machine

open Sys2Proof

/-! ### Mode words and status grains -/

/-- Mode in force of a bank: a retired unit's bank is memory (R348). -/
def bankMode (s : State) (b : Nat) : Bool := (bankOf s b).compute && !unitRetired s b

/-- What the mode word of a bank reads (Table 14-1). -/
def modeWord (s : State) (b : Nat) : Nat :=
  let k := bankOf s b
  b2n (bankMode s b) + 2 * b2n k.changing.isSome + 4 * b2n (s.part == .z16) + 8 * b2n (bankBusy k)

/-- RUN of the status grain. -/
def runCode (k : Bank) : Nat :=
  match k.run with
  | none => 0
  | some o => if o.phase = .waiting then 1 else 2

/-- The status grain (Table 14-5). -/
def statusGrain (k : Bank) : Grain :=
  bytesGrain (leBytes 1 (runCode k + 4 * b2n k.queued.isSome) ++ leBytes 1 k.lastCode ++ leBytes 2 k.lastSeq ++
    leBytes 2 ((k.run.map (·.seq)).getD 0) ++ leBytes 2 k.ended ++ leBytes 4 k.written ++ leBytes 2 (min k.saturated 65535) ++
    leBytes 2 (min k.flushed 65535) ++ leBytes 8 k.tick ++ leBytes 8 0)

/-- One grain of a bank's command window in COMPUTE mode, as a read delivers it (R49, R282). -/
def berthGrain (s : State) (b off : Nat) : GrainRead :=
  let k := bankOf s b
  if off < 0x200 then
    let g := bytesGrain ((List.range 32).map fun i => tget k.slots (off + i) 0)
    if k.badSlots.contains (off / 32) then ⟨poisonOf g, true⟩ else ⟨codewordOf g, false⟩
  else if off = 0x200 then ⟨codewordOf 0, false⟩
  else ⟨codewordOf (statusGrain k), false⟩

/-- Whether a bank is busy: an operation of it is RUN = 2 (R312). -/
def bankRuns (s : State) (b : Nat) : Bool := runCode (bankOf s b) == 2

/-! ### Ends -/

/-- Counts an ended operation in BT_STAT (R302, R303). -/
def countEnd (s : State) (b code : Nat) : State :=
  if code = stDATA_POISON then bump s (rBtStat (b / 1024)) 47 32 1
  else if code = stABORTED then bump s (rBtStat (b / 1024)) 63 48 1
  else s

/-- Gives back the permits of a bank's operation and of its duplicate runs, which bear the bank's number plus 65,536 and plus
131,072. -/
def dropPermits (s : State) (b : Nat) : State :=
  let p := permitsOf s (b / 1024)
  setPermits s (b / 1024)
    { p with waiting := p.waiting.filter (fun x => x % 65536 != b), holders := p.holders.filter (fun x => x % 65536 != b) }

/-- Records the end of a batch entry. -/
def endEntry (s : State) (o : BOp) (code written : Nat) : State :=
  match o.batch with
  | none => s
  | some (cx, e) =>
    let l := tget s.berth.batches cx []
    match l[e]? with
    | none => s
    | some x =>
      { s with berth := { s.berth with batches := tset s.berth.batches cx (setAt l e { x with code := some code, written := written }) } }

/-- The status grain takes its new values (R284). -/
def statusEnd (s : State) (b : Nat) (o : BOp) (code written sat flush : Nat) : State :=
  let k := bankOf s b
  setBank s b { k with lastCode := code, lastSeq := o.seq, ended := (k.ended + 1) % 65536, written := written,
                       saturated := min sat 65535, flushed := min flush 65535, tick := now s }

/-- The unit's own count of operations (R347). -/
def countOp (s : State) (b : Nat) : State :=
  { s with integ := { s.integ with berthOps := tset s.integ.berthOps b (tget s.integ.berthOps b 0 + 1) } }

/-- What ends with an operation that has left its place: status, counts, batch entry, waiting writes, release
(R284). -/
def closeOp (s : State) (b : Nat) (o : BOp) (code written sat flush : Nat) (release : Bool) : State :=
  let s1 := statusEnd s b o code written sat flush
  let s2 := countOp (countEnd s1 b code) b
  let s3 := applyHeld (endEntry s2 o code written)
  if release then
    let r := releaseOpt s3 0 o.release
    settleTodo r.1 r.2
  else s3

/-- A running command is the batch of a context. -/
def batchCmd (s : State) (cx : Nat) : Option Running :=
  match cmdOf? s cx with
  | some r => if r.phase = .batch then some r else none
  | none => none

/-- Whether every entry of a batch has ended. -/
def batchDone (s : State) (cx : Nat) : Bool := (tget s.berth.batches cx []).all fun e => e.code.isSome

/-- Status bytes of the entries at RSTAT (R299). -/
def rstatBytes (l : List BEntry) : List Byte :=
  l.flatMap fun e => leBytes 4 (e.code.getD 0) ++ leBytes 4 e.written

/-- Whether the status array of a batch waits: for a declared write region (R316) or a sleeping quay (R388). -/
def rstatWaits (s : State) (r : Running) (n : Nat) : Bool :=
  let a := r.pkt.at 96 8
  bit a 63 && n != 0 && (regionHeld s (a % 2 ^ 44) (8 * n) ||
    (pieceHomes s (a % 2 ^ 44) (8 * n)).any fun h => match quayOf s.part h.1 with | some q => (asleep s).contains q | none => false)

/-- Completes a batch (R299). `mergeBad`: the merge was poisoned. A cancelled batch completes with ABORTED (R301). -/
def completeBatch (s : State) (cx : Nat) (r : Running) (mergeBad : Bool) : State :=
  let l := tget s.berth.batches cx []
  let rstat := r.pkt.at 96 8
  let s1 := if bit rstat 63 then writeBytes s (rstat % 2 ^ 44) (rstatBytes l) else s
  let s2 := { s1 with berth := { s1.berth with batches := terase s1.berth.batches cx, images := terase s1.berth.images cx } }
  let st := if r.recalled then stABORTED
    else if mergeBad || l.any (fun e => e.code == some stDATA_POISON) then stDATA_POISON
    else if l.any (fun e => e.code == some stABORTED) then stABORTED else stDONE
  complete s2 cx st (l.filter fun e => e.code == some stDONE).length

/-- Whether a batch merges: MERGE is set, and neither it nor an entry was cancelled (R299, R301). -/
def batchMerges (s : State) (cx : Nat) (r : Running) : Bool :=
  bit (r.pkt.at 68 1) 0 && !r.recalled && !(tget s.berth.batches cx []).any (fun e => e.code == some stABORTED)

/-- A batch without a merge completes when its last entry has ended and its status array can be written. -/
def tryBatch (s : State) (cx : Nat) : State :=
  match batchCmd s cx with
  | some r =>
    if batchDone s cx && !batchMerges s cx r && !rstatWaits s r (tget s.berth.batches cx []).length then
      completeBatch s cx r false
    else s
  | none => s

/-- The batch of an entry that has ended. -/
def settleBatch (s : State) (o : BOp) : State :=
  match o.batch with
  | none => s
  | some (cx, _) => tryBatch s cx

/-- The batches whose entries have all ended, and which waited for their status arrays. -/
def retryBatches (s : State) : State := s.berth.batches.foldl (fun s' e => tryBatch s' e.1) s

/-- An operation starts: the unit's registers are cleared (R288), and it latches the seed and FTZ in force and whether it is
selected for a duplicate (R150, R160, R334). Until its permit comes it waits (R297). -/
def startedOp (s : State) (b : Nat) (o : BOp) : State :=
  let t := berthThreshold s (b / 1024)
  let s1 := rouse (rouseBerth t.1 b) (0x20 + b / 1024)
  setBank s1 b { bankOf s1 b with
    lanes := LaneRegs.zero,
    run := some { o with seed := jobSeed s, ftz := ftzOf s clBerth,
                         selected := kwSelected (checkSeed s) 0xFFFF (o.at 26 6) o.logidx t.2 } }

/-- Starts the operation in a bank's running place: it ends at once where its checks say so, and else requests a permit
(R286, R297). Then the queued operation follows; `n` bounds the operations that end at once. -/
def startRun : Nat → State → Nat → State
  | 0, s, _ => s
  | n + 1, s, b =>
    match (bankOf s b).run with
    | none => s
    | some o =>
      match o.checks s b with
      | none =>
        let s1 := startedOp s b o
        let p := permitsOf s1 (b / 1024)
        setPermits s1 (b / 1024) { p with waiting := p.waiting ++ [b] }
      | some code =>
        let k := bankOf s b
        let s1 := setBank s b { k with run := k.queued, queued := none }
        startRun n (settleBatch (closeOp s1 b o code 0 0 0 true) o) b

/-- Whether a duplicate for the partner bank waits for this unit: it runs before the unit's queued operation (R338). -/
def dupWaits (s : State) (b : Nat) : Bool :=
  match (bankOf s (b ^^^ 1)).run with
  | some o => o.phase == .computed && !unitRetired s b
  | none => false

/-- The queued operation of a bank takes the running place when it is empty and no duplicate comes first (R283, R306,
R338). -/
def promote (s : State) (b : Nat) : State :=
  let k := bankOf s b
  if k.run.isNone ∧ k.queued.isSome ∧ !dupWaits s b then
    startRun 3 (setBank s b { k with run := k.queued, queued := none }) b
  else s

/-- The running operation of a bank ends; the queued one takes its place, and that of the partner, if it waited for the
duplicate (R283, R306, R338). -/
def endRun (s : State) (b : Nat) (o : BOp) (code written sat flush : Nat) (release : Bool) : State :=
  let k := bankOf s b
  let s1 := dropPermits (setBank s b { k with run := none }) b
  promote (promote (settleBatch (closeOp s1 b o code written sat flush release) o) b) (b ^^^ 1)

/-! ### GO (R283) -/

/-- An operation not yet started. -/
def BOp.fresh (slots : List Byte) (port seq : Nat) (release : Option Release) (batch : Option (Nat × Nat))
    (logidx : Nat) : BOp :=
  { slots := slots, port := port, seq := seq, release := release, batch := batch, logidx := logidx, phase := .waiting,
    selected := false, written := 0, shadow := [], seen := [], wrote := [], hash := 0, dup := none, seed := 0, ftz := false,
    unlocked := false, code := 0, nelem := 0, nsat := 0, nflush := 0 }

/-- Whether a bank has a free place: operations take them in order, so a queued one fills it (R283). -/
def placeFree (s : State) (b : Nat) : Bool := (bankOf s b).queued.isNone

/-- An operation takes a place of its bank. -/
def takePlace (s : State) (b : Nat) (o : BOp) : State :=
  let k := bankOf s b
  if k.run.isNone then startRun 3 (setBank s b { k with run := some o }) b
  else setBank s b { k with queued := some o }

/-- NSLOTS of a GO grain. -/
def goSlots (g : Grain) : Nat := bits g.toNat 3 0

/-- A GO grain that completes OK without effect (R282): bytes 16-31, and bytes 8-15 where they are no release VALUE, carry
data. -/
def goIgnored (g : Grain) : Bool := bits g.toNat 255 128 != 0 || (!bit g.toNat 32 && bits g.toNat 127 64 != 0)

/-- Whether a GO write waits for a place (R283). -/
def goWaits (s : State) (b : Nat) (g : Grain) : Bool := !goIgnored g && goSlots g != 0 && !placeFree s b

/-- The release a GO word orders (Table 14-4). -/
def goRelease (g : Grain) : Option Release :=
  let v := g.toNat
  if bit v 32 then some { add := bit v 33, beacon := bits v 63 48, value := BitVec.ofNat 64 (bits v 127 64) } else none

/-- A write of the GO grain takes effect (R283). NSLOTS above 8, and reserved bits, end the operation with BAD_PARAM; a slot
that holds poison ends it with DATA_POISON (DESIGN CHOICE, log entry 104). -/
def goTakes (s : State) (b port : Nat) (g : Grain) : State :=
  if goIgnored g then s
  else
    let n := goSlots g
    let slots := (List.range (64 * min n 8)).map fun i => tget (bankOf s b).slots i 0
    let o := BOp.fresh slots port (bits g.toNat 31 16) (goRelease g) none (fieldAt slots 32 3)
    if n = 0 then closeOp s b o stDONE_EMPTY 0 0 0 true
    else if 8 < n ∨ bits g.toNat 15 4 ≠ 0 ∨ bits g.toNat 47 34 ≠ 0 then closeOp s b o stBAD_PARAM 0 0 0 true
    else if (bankOf s b).badSlots.any fun i => decide (i < 2 * n) then closeOp s b o stDATA_POISON 0 0 0 true
    else takePlace s b o

/-- Writes the bytes of one grain of the slots. -/
def putSlots (s : State) (b off : Nat) (g : Grain) (bad : Bool) : State :=
  let k := bankOf s b
  let rest := k.badSlots.filter (· != off / 32)
  setBank s b { k with slots := (grainBytes g).zipIdx.foldl (fun t v => tput t (off + v.2) v.1 0) k.slots,
                       badSlots := if bad then rest ++ [off / 32] else rest }

/-- Writes one grain of a bank's command window in COMPUTE mode (R49, R282): slots keep the grain as it arrives, poison
included; a GO grain without readable data orders nothing. -/
def berthWriteGrain (s : State) (b off port : Nat) (c : Codeword) : State :=
  match wordData c with
  | none => if off < 0x200 then putSlots s b off c.data true else s
  | some g =>
    if off < 0x200 then putSlots s b off g false
    else if off = 0x200 then goTakes s b port g
    else s

/-! ### Mode changes (R281) -/

/-- What a write of a mode word does: nothing to change, a wait for the bank's operations or another change, or a change
that starts (R280, R281). -/
inductive ModeStep where
  | done
  | waits
  | starts (mode : Bool)
  deriving DecidableEq, Repr

def modeStep (s : State) (b v : Nat) : ModeStep :=
  let k := bankOf s b
  let m := bit v 0
  if m = bankMode s b ∨ (m ∧ unitRetired s b) then .done
  else if k.changing.isSome then .waits
  else if !m ∧ bankBusy k then .waits
  else .starts m

/-- The change of mode begins. -/
def startChange (s : State) (b : Nat) (m : Bool) : State :=
  let k := bankOf s b
  setBank s b { k with changing := some m }

/-- The change of mode ends: the unit's registers are cleared, and the new mode is in force (R281, Table 14-2). -/
def endChange (s : State) (b : Nat) : State :=
  let k := bankOf s b
  match k.changing with
  | some m => setBank s b { k with compute := m, changing := none, lanes := LaneRegs.zero }
  | none => s

/-! ### Permits (R297, R311) -/

/-- The grains that some ranges take. -/
def rangeGrains (l : List (Nat × Nat)) : List Nat := l.flatMap fun r => grainsOf r.1 r.2

/-- The operand grains of an operation that resident sets hold, as they stand: what a tug or a crane writes there while it runs
may come after its read (R317, R318; log entry 123). -/
def heldOperands (s : State) (b : Nat) (o : BOp) : List (Nat × Codeword) :=
  if s.sets.isEmpty then []
  else (rangeGrains o.operandRanges).filterMap fun x => (placedGrain s (bankAddr s.part b x)).map fun g => (x, g.word)

/-- The operation that was granted a permit runs (R297). -/
def grantOp (s : State) (b : Nat) : State :=
  let k := bankOf s b
  match k.run with
  | none => s
  | some o => setBank s b { k with run := some { o with phase := .granted, shadow := o.shadow ++ heldOperands s b o } }

/-- Whether the clocks of a bank's quay run: they stop while it dozes (R374). -/
def bankAwake (s : State) (b : Nat) : Bool := !(asleep s).contains (b / 1024)

/-- The scheduler grants a permit to the oldest request while the pool allows (R297, R311). -/
def grantNext (s : State) (q : Nat) : State :=
  let p := permitsOf s q
  match p.waiting with
  | [] => s
  | b :: t =>
    if p.holders.length < p.pool ∧ q ∉ asleep s then
      let s1 := setPermits s q { p with waiting := t, holders := p.holders ++ [b] }
      if b < 65536 then grantOp s1 b else s1
    else s

/-! ### Running (R288-R295, R317) -/

/-- The grains an operation reads for its first `m` result elements, with the reading: NORM_STAT with LAYER reads its vectors
twice, and NORM_APPLY reads B and C anew for each vector (R293, R317, Table 14-9). -/
def readKeys (o : BOp) (m : Nat) : List Nat :=
  let vc := min (o.vectorsFor m) o.vcount
  let p0 := (rangeGrains ((o.usesFor m).flatMap (useRanges o))).map (passKey 0)
  let p1 :=
    if o.op = 8 ∧ o.layer then (rangeGrains (useRanges o ⟨0, vc, o.len, true⟩)).map (passKey 1)
    else if o.op = 9 ∧ o.affine then
      (upFrom 1 (vc - 1)).flatMap fun v =>
        (rangeGrains (useRanges o (useVec o 1) ++ useRanges o (useVec o 2))).map (passKey v)
    else []
  ((p0 ++ p1).foldl (fun (t : Table Unit) k => tset t k ()) []).map (·.1)

/-- The older value that the unit read instead of the one stored now: `older` names overwritten grains by their place in
`shadow` times 2^24, plus the reading (R317). -/
def olderWord (o : BOp) (older : List Nat) (key : Nat) : Option Codeword :=
  match older.find? (fun n =>
      match o.shadow[n / 2 ^ 24]? with
      | some e => passKey (n % 2 ^ 24) e.1 == key
      | none => false) with
  | some n => (o.shadow[n / 2 ^ 24]?).map (·.2)
  | none => none

/-- Reads the operand grains of an operation that the unit has not read yet: each reading of a grain is made once, whole, and
kept (R317). -/
def readOperands (o : BOp) (b : Nat) (older : List Nat) : List Nat → State × Grains → State × Grains
  | [], x => x
  | key :: t, (s, g) =>
    if (tget? g key).isSome then readOperands o b older t (s, g)
    else
      match olderWord o older key with
      | some w => readOperands o b older t (s, tset g key (wordData w))
      | none =>
        let r := readBank s (bankAddr s.part b (key % 2 ^ 27))
        readOperands o b older t (r.1, tset g key (if r.2.bad then none else some r.2.word.data))

/-- Pads the bytes of a result grain: with zero where the operation says so, and else with free bytes (log entry 15). -/
def padGrain (s : State) (zero : Bool) (bs : List Byte) : State × Grain :=
  if zero || bs.length = 32 then (s, bytesGrain bs)
  else
    let r := drawBytes (32 - bs.length) s
    (r.1, bytesGrain (bs ++ r.2))

/-- The codewords of result grains. -/
def wordsOf (o : BOp) : List RGrain → State → State × List (Nat × Codeword)
  | [], s => (s, [])
  | g :: t, s =>
    match g.bytes with
    | none => let r := wordsOf o t s; (r.1, (g.off, poisonOf 0) :: r.2)
    | some bs =>
      let p := padGrain s o.padsZero bs
      let r := wordsOf o t p.1
      (r.1, (g.off, codewordOf p.2) :: r.2)

/-- The mask of the silent errors that fall in one grain of a result. -/
def flipMask (flips : List Flip) (i : Nat) : Grain :=
  flips.foldl (fun (m : Grain) f => if f.off / 32 = i then m ^^^ ((f.mask.zeroExtend 256 : Grain) <<< (8 * (f.off % 32))) else m) 0#256

/-- A result with the silent errors of the unit that computed it. -/
def flipWords (flips : List Flip) (l : List (Nat × Codeword)) : List (Nat × Codeword) :=
  l.zipIdx.map fun e =>
    let m := flipMask flips e.2
    if m = 0 then e.1 else (e.1.1, codewordOf (e.1.2.data ^^^ m))

/-- Writes result grains (R315). -/
def writeResults (s : State) (b : Nat) (l : List (Nat × Codeword)) : State :=
  l.foldl (fun s' e => storeRaw s' (bankAddr s'.part b e.1) e.2) s

/-- What the counts of an operation gain from result grains. -/
def countGrains (o : BOp) (l : List RGrain) : BOp :=
  { o with nelem := o.nelem + l.foldl (fun n g => n + g.elems) 0, nsat := o.nsat + l.foldl (fun n g => n + g.sat) 0,
           nflush := o.nflush + l.foldl (fun n g => n + g.flush) 0,
           code := if l.any (fun g => g.bytes.isNone) then stDATA_POISON else o.code }

/-- The low word of the CRC-64 of the grains that an operation read; a bad grain counts as zero (R346). -/
def grainsHash (l : Grains) : BitVec 32 := (crc64 (l.flatMap fun e => grainBytes (e.2.getD 0))).setWidth 32

/-- The operand registers after X has been loaded: element j goes to lane j mod 16, register j div 16 (R288). -/
def loadX (o : BOp) (t : Grains) : Table (BitVec 16) :=
  if o.uses.any fun u => u.k == 4 then
    let d := o.oprnd 4
    let sz := fmtBits d.fmt / 8
    (List.range (min o.len 128)).foldl (fun m j =>
      tput m (j % 16 * 8 + j / 16) (BitVec.ofNat 16 (grainsAt t 0 (d.off + j * sz) sz)) 0) []
  else []

/-- What an operation leaves in the unit's registers (R288; log entry 104). -/
def lanesAfter (s : State) (o : BOp) (t : Grains) : LaneRegs :=
  { acc := (List.range 256).map fun i => (i, Config.laneLeft s.free i), x := loadX o t }

/-- Computes the result grains from the first not yet written to the `upto`-th, from the operand grains that they use, writes
them, and keeps what a duplicate must reproduce in `wrote`. -/
def advanceOp (s : State) (b : Nat) (o : BOp) (older : List Nat) (flips : List Flip) (upto : Option Nat) : State × BOp :=
  let m := match upto with | some n => elemsIn o.resultGroups n | none => o.resultCount
  let r := readOperands o b older (readKeys o m) (s, o.seen)
  let all := o.grains r.2
  let stop := match upto with | some n => min n all.length | none => all.length
  let new := (all.take stop).drop o.written
  let w := wordsOf o new r.1
  let o1 := countGrains { o with written := max o.written stop, wrote := o.wrote ++ w.2,
                                 seen := r.2, hash := grainsHash r.2 } new
  let skipped : List (Nat × Codeword) := o.wrote
  let out := (flipWords flips (skipped ++ w.2)).drop skipped.length
  let s1 := noteFlush (writeResults w.1 b out) clBerth (o1.nflush - o.nflush)
  ({ setBank s1 b { bankOf s1 b with lanes := lanesAfter s1 o r.2 } with free := s1.free + 1 }, o1)

/-- A granted operation of one code runs to its end; a selected one then waits for its duplicate (R297, R337). -/
def runOp (s : State) (b op : Nat) (older : List Nat) (flips : List Flip) : State :=
  match (bankOf s b).run with
  | none => s
  | some o =>
    if o.op = op ∧ o.phase = .granted ∧ (permitsOf s (b / 1024)).pool ≠ 0 ∧ bankAwake s b then
      let r := advanceOp s b o older flips none
      if o.selected then
        let p := permitsOf r.1 (b / 1024)
        let s1 := setPermits r.1 (b / 1024) { p with waiting := p.waiting ++ [b + 65536] }
        let k := bankOf s1 b
        setBank s1 b { k with run := some { r.2 with phase := .computed } }
      else endRun r.1 b r.2 r.2.code r.2.nelem r.2.nsat r.2.nflush true
    else s

/-- A running operation has written at least `n` of its result grains by now (R314, R315); with a pool of 0 it stops at a
row (R311). `older` says what it read, as for its end (R317). -/
def writeAhead (s : State) (b n : Nat) (older : List Nat) : State :=
  match (bankOf s b).run with
  | none => s
  | some o =>
    if o.phase = .granted ∧ !writesLate o.op ∧ o.written < n ∧ (permitsOf s (b / 1024)).pool ≠ 0 ∧ bankAwake s b then
      let r := advanceOp s b o older [] (some n)
      let k := bankOf r.1 b
      setBank r.1 b { k with run := some r.2 }
    else s

/-! ### Duplicates (R337, R338) -/

/-- The seal of result grains in output order (R337, R223). -/
def resultSeal (l : List (Nat × Codeword)) : BitVec 64 := crc64 (l.flatMap fun e => grainBytes e.2.data)

/-- Settles a selected operation against the partner's runs. -/
def settleDuplicate (s : State) (b : Nat) (o : BOp) (first second : List Flip) : State :=
  let partner := if unitRetired s (b ^^^ 1) then b else b ^^^ 1
  let home := o.wrote.map fun e => (e.1, storedWord s (bankAddr s.part b e.1))
  let p1 := flipWords first o.wrote
  let fin (s' : State) (code : Nat) : State := endRun s' b o code o.nelem o.nsat o.nflush true
  if resultSeal home = resultSeal p1 then fin s o.code
  else
    let s1 := bump s rInStat 31 16 1
    let h := o.hash
    let p2 := flipWords second o.wrote
    if resultSeal p2 = resultSeal home then fin (detect s1 (.berth partner) 1 h) o.code
    else if resultSeal p2 = resultSeal p1 then
      fin (detect (writeResults s1 b p1) (.berth b) 1 h) (if o.code = stDATA_POISON then o.code else stDONE)
    else fin (escalate (bump s1 rInStat 47 32 1) (.berth b)) stCHECK_FAIL

/-- Whether the partner unit is free to make the duplicate: it runs nothing, nor waits for a permit; an operation of its own
that waits for its duplicate has left it (R338). -/
def partnerFree (s : State) (b : Nat) : Bool :=
  unitRetired s (b ^^^ 1) ||
  (match (bankOf s (b ^^^ 1)).run with | some o => o.phase == .computed | none => true)

/-- The first of two duplicate runs that a unit makes itself returns its permit and requests one for the second (R338). -/
def secondRun (s : State) (b : Nat) (o : BOp) (flips : List Flip) : State :=
  let p := permitsOf s (b / 1024)
  let s1 := setPermits s (b / 1024)
    { p with holders := p.holders.filter (· != b + 65536), waiting := p.waiting ++ [b + 131072] }
  setBank s1 b { bankOf s1 b with run := some { o with dup := some flips } }

/-- The duplicate of a bank's operation runs under a permit of its own, on the partner unit, which it takes out of Idle (R337,
R386). Where the partner unit is retired, the home
unit makes two duplicate runs, each under its own permit and each a BERTH_DUPLICATE: the first with `first`, the second
with `second` (R338). -/
def duplicateOp (s0 : State) (b : Nat) (first second : List Flip) : State :=
  match (bankOf s0 b).run with
  | none => s0
  | some o =>
    let p := permitsOf s0 (b / 1024)
    if o.phase = .computed ∧ partnerFree s0 b ∧ p.pool ≠ 0 ∧ bankAwake s0 b then
      let s := rouseBerth (rouseBerth s0 b) (b ^^^ 1)
      match o.dup with
      | some f => if (b + 131072) ∈ p.holders then settleDuplicate s b o f second else s0
      | none =>
        if (b + 65536) ∉ p.holders then s0
        else if unitRetired s (b ^^^ 1) then secondRun s b o first
        else settleDuplicate s b o first second
    else s0

/-! ### Batches (R296, R299-R301) -/

/-- The operation image with an entry's LOGIDX, under the lock in force when its batch started (R412). -/
def entryOp (p : CmdPkt) (image : List Byte) (cx e logidx : Nat) : BOp :=
  { BOp.fresh image p.port p.seq none (some (cx, e)) logidx with unlocked := p.unlocked }

/-- Two partials of attention merge (R296). -/
def mergeTriple (z : Bool) (a b : Triple) : Fl Triple :=
  let m := maxSigned a.m b.m
  if m = .inf true then pure { m := .inf true, s := .zero, acc := a.acc.map fun _ => .zero }
  else do
    let d1 ← fsub z a.m m
    let e1 ← expVal z d1
    let d2 ← fsub z b.m m
    let e2 ← expVal z d2
    let s1 ← fmul z a.s e1
    let s2 ← fmul z b.s e2
    let sm ← fadd z s1 s2
    let acc ← (a.acc.zip b.acc).mapM fun p => do
      let x ← fmul z p.1 e1
      let y ← fmul z p.2 e2
      fadd z x y
    pure { m := m, s := sm, acc := acc }

/-- Folds triples in list order. -/
def foldTriples (z : Bool) : List Triple → Triple → Fl Triple
  | [], a => pure a
  | b :: t, a => do
    let c ← mergeTriple z a b
    foldTriples z t c

/-- Folds REDUCE partials in list order (R296). -/
def foldReduce (z : Bool) (rop : Nat) : List Val → Val → Fl Val
  | [], a => pure a
  | b :: t, a => do
    let c ← if rop ≤ 1 then fadd z a b else pure (if rop = 3 then minSigned a b else maxSigned a b)
    foldReduce z rop t c

/-- A partial's F32 values, decoded as operands are (R138). -/
def partialVals (z : Bool) (bs : List Byte) (n : Nat) : Fl (List Val) :=
  (List.range n).mapM fun i => fdecode1 z fF32 (fieldAt bs (4 * i) 4)

/-- The merged bytes of a batch (R296, R300). -/
def mergeBytes (z : Bool) (o : BOp) (mfmt : Nat) (normalise : Bool) (parts : List (List Byte)) : Fl (List Byte) := do
  let n := if o.op = 12 then o.len + 2 else 1
  let vs ← parts.mapM fun b => partialVals z b n
  if o.op = 12 then do
    let ts := vs.map fun v => ({ m := vAt v 0, s := vAt v 1, acc := v.drop 2 } : Triple)
    let t ← match ts with
      | [] => pure { m := .inf true, s := .zero, acc := [] }
      | a :: r => foldTriples z r a
    if normalise then
      if t.s.isZero then pure ((List.replicate o.len (leBytes (fmtBits mfmt / 8) 0)).flatten)
      else do
        let q ← fdiv z .one t.s
        let cs ← t.acc.mapM fun a => do
          let y ← fmul z a q
          convert z mfmt false none 0 y
        pure (cs.flatMap fun c => leBytes (fmtBits mfmt / 8) c.code)
    else
      let bs := (t.m :: t.s :: t.acc).flatMap fun v => leBytes 4 (toF32 v).toNat
      pure (bs ++ List.replicate (ceilDiv bs.length 32 * 32 - bs.length) 0)
  else do
    let y ← match vs with
      | [] => pure Val.zero
      | a :: r => foldReduce z o.rop (r.map fun v => vAt v 0) (vAt a 0)
    pure (leBytes 4 (toF32 y).toNat ++ List.replicate 28 0)

/-- Bytes of a partial and of the merged result. -/
def partialBytes (o : BOp) : Nat := if o.op = 12 then ceilDiv ((o.len + 2) * 4) 32 * 32 else 32
def mergedBytes (o : BOp) (mfmt : Nat) (normalise : Bool) : Nat :=
  if o.op = 12 ∧ normalise then o.len * fmtBits mfmt / 8 else partialBytes o

/-- Reads the partials of the entries that have one: bytes, and whether any is poisoned. -/
def readPartials (o : BOp) : List BEntry → State → State × List (List Byte) × Bool
  | [], s => (s, [], false)
  | e :: t, s =>
    if e.code = some stDONE ∨ e.code = some stDATA_POISON ∨ e.code = some stCHECK_FAIL then
      let gs := (List.range (partialBytes o / 32)).map fun i => bankAddr s.part e.bank (o.dst + 32 * i)
      let r := readGrains s gs
      let x := readPartials o t r.1
      (x.1, (r.2.flatMap fun g => grainBytes g.word.data) :: x.2.1, r.2.any (·.bad) || x.2.2)
    else readPartials o t s

end Sys2Proof.Machine
end

