-- ==== Sys2Proof/Machine/Exchange.lean ====
section
/-!
DEFINITION. The dispatch engine: routing tables (R194), token sending and return (R195, R201), buffer release (R202) and
gradient dispatch with its compression forms (R204-R207).
-/
namespace Sys2Proof.Machine

open Sys2Proof

/-! ### Tables read from memory (R429) -/

/-- Bytes read from memory; the bytes of a bad grain are none. -/
def readTable (s : State) (a n : Nat) : State × List (Option Byte) :=
  let r := readMem (grainsOf a n).length s (a / 32 * 32)
  let bs := r.2.flatMap fun g => if g.bad then List.replicate 32 none else (grainBytes g.word.data).map some
  (r.1, (bs.drop (a % 32)).take n)

/-- The `n`-byte number at an offset of a table; none where a byte of it is unreadable. -/
def tableAt (bs : List (Option Byte)) (off n : Nat) : Option Nat :=
  let l := (bs.drop off).take n
  if l.all (·.isSome) then some (leNat (l.map (·.getD 0))) else none

/-- Whether a table has an unreadable byte. -/
def tableBad (bs : List (Option Byte)) : Bool := bs.any (·.isNone)

/-- All entries of `n` bytes. -/
def tableEntries (bs : List (Option Byte)) (n count : Nat) : List (Option Nat) :=
  (List.range count).map fun i => tableAt bs (n * i) n

/-- Whether a source range is misaligned or leaves its region (R29). -/
def badSource (s : State) (a n : Nat) : Bool := a % 32 != 0 || leavesRegion s a n

/-- Whether a port lacks the read right for a source range (R75). -/
def readDenied (s : State) (p : CmdPkt) (a n : Nat) : Bool := !p.hasRight s rightRead a n

/-! ### Commands that wait for acknowledgements (R102) -/

/-- Ends a command whose writes have been acknowledged: RESULT[63:32] holds the refused packets. -/
def completeAcked (s : State) (cx status lo refused : Nat) : State :=
  complete s cx status (lo + refused % 4294967296 * 4294967296)

/-- Frees the spilled anchorage entries of a generation (R202, R203). -/
def freeSpills (s : State) (m : Nat) (p : Nat → Bool) : State :=
  { s with land := { s.land with entries := s.land.entries.filter fun e => !(e.kind == .spill && e.man == m && p e.gen) } }

/-- A release record has been acknowledged (R202). -/
def ringDone (s : State) (p : CmdPkt) : State :=
  freeSpills { s with disp := { s.disp with prod := (s.disp.prod + 1) % 18446744073709551616 } } (p.at 64 2 % 16384)
    (fun g => g == p.at 66 2)

/-- The sources whose acknowledgements a command waits for: EXPORT_SUB sends for its subscription (R273), and RESTORE and
SWEEP_RESUME have the subscriptions of their set write (R102, R275, R357). -/
def ackSources (s : State) (cx : Nat) (p : CmdPkt) : List Nat :=
  match p.opcode with
  | 0x0501 => [subSource (p.at 72 1)]
  | 0x0402 | 0x0902 => cmdSource cx :: (s.exp.subs.filter fun e => e.2.pset == p.at 64 2).map fun e => subSource e.1
  | _ => [cmdSource cx]

/-- Whether everything that a source has sent is acknowledged, and no write waits behind it. -/
def sourceDone (s : State) (src : Nat) : Bool := srcQuiet s src && s.exp.waiting.all (·.1 != src)

/-- Completes a command that waits for acknowledgements once both counts of its sources are zero, nothing waits behind them,
and no write of an engine is held (R102; log entry 14). -/
def tryAcked (s : State) (cx : Nat) : State :=
  match cmdOf? s cx with
  | none => s
  | some r =>
    match r.phase with
    | .waitAck st lo =>
      if (ackSources s cx r.pkt).all (sourceDone s) && s.berth.held.isEmpty then
        if r.pkt.opcode = 0x0305 then complete (ringDone s r.pkt) cx st lo
        else completeAcked s cx st lo r.refused
      else s
    | _ => s

/-- A command waits for the acknowledgements of what it sent. -/
def awaitAcks (s : State) (cx status lo : Nat) : State :=
  match cmdOf? s cx with
  | none => s
  | some r => tryAcked (putCmd s cx { r with phase := .waitAck status lo }) cx

/-- Every command that waits for acknowledgements is looked at. -/
def tryAll (s : State) : State := s.cmd.running.foldl (fun s' e => tryAcked s' e.1) s

/-- A bulk packet of a running command of the dispatch engine, with its count for snapshot records (Table 17-7). -/
def sendBulk (s : State) (cx : Nat) (h : PktHdr) (ws : List Codeword) : State :=
  sendCounted { s with snap := { s.snap with pktSent := s.snap.pktSent + 1 } } { hdr := { h with source := cmdSource cx, len := ws.length }, payload := ws }

/-- Whether another command of an opcode runs, past its start. -/
def runsOther (s : State) (cx op : Nat) (f : CmdPkt → Bool) : Bool :=
  s.cmd.running.any fun e => e.1 != cx && e.2.pkt.opcode == op && e.2.phase != .started && f e.2.pkt

/-! ### ROUTE_LOAD (R194) -/

/-- Owner harbour and manifest of a routing entry. -/
def routeOwner (w : Word) : Nat := bits w.toNat 17 0
def routeMan (w : Word) : Nat := bits w.toNat 31 18

/-- ROUTE_LOAD (R194). -/
def execRouteLoad (cx : Nat) (s : State) : Answer :=
  .next <| whole s fun s =>
  match turnOf s cx 0x0301 with
  | none => s
  | some r =>
    let p := r.pkt
    let n := p.at 68 4
    let src := p.at 72 8 % 2 ^ 44
    let tbl := p.at 64 1 % 4
    let rd := if 65536 < n then (s, []) else readTable s src (4 * n)
    let es := tableEntries rd.2 4 n
    let params := [(decide (65536 < n), 8), (badSource s src (4 * n) ||
      es.any (fun e => match e with | some v => decide (countNum s ≤ bits v 17 0) | none => false), 9)]
    match checkFail p [(8, 1, 0), (8, 63, 32), (9, 43, 0)] params [] (readDenied s p src (4 * n)) with
    | some (st, f) => completeBad rd.1 cx st f
    | none =>
      if n = 0 then complete s cx stDONE_EMPTY 0
      else if runsOther s cx 0x0302 (fun q => q.at 64 1 % 4 == tbl) then complete s cx stBUSY 0
      else if tableBad rd.2 then complete rd.1 cx stDATA_POISON 0
      else
        complete { rd.1 with disp := { rd.1.disp with
          routes := tset rd.1.disp.routes tbl (es.map fun e => BitVec.ofNat 64 (e.getD 0)) } } cx stDONE 0

/-! ### TOKEN_SEND (R195) -/

def tokenSendLayout : List Named :=
  [(8, 1, 0), (8, 15, 8), (8, 31, 16), (8, 47, 32), (8, 61, 48), (8, 63, 63), (9, 43, 0), (10, 43, 0), (11, 43, 0), (11, 63, 63),
   (12, 31, 0), (12, 63, 32), (13, 43, 0), (14, 15, 0), (14, 31, 16)]

/-- The header grain of a token's part (Table 10-3). -/
def tokenHdrGrain (p : CmdPkt) (index part parts user : Nat) : Grain :=
  let ret := (p.at 104 8 % 2 ^ 44 + index * p.at 112 2 * 32) % 2 ^ 44
  bytesGrain (leBytes 4 index ++ [BitVec.ofNat 8 part, BitVec.ofNat 8 parts] ++ leBytes 2 (p.at 70 2) ++ leBytes 8 user ++
    leBytes 6 ret ++ leBytes 2 (p.at 114 2))

/-- Sends one routed choice: token grains to the owner's manifest in parts. -/
def sendToken (s : State) (cx : Nat) (p : CmdPkt) (route : Word) (index user : Nat) (ws : List Codeword) : State :=
  let w := p.at 66 2
  (List.range (partsOf w)).foldl (fun s' part =>
    sendBulk s' cx { newHdr s' tyTOKEN (routeOwner route) with
        manValid := true, manifest := routeMan route, gen := p.at 68 2 }
      (codewordOf (tokenHdrGrain p index part (partsOf w) user) :: (ws.drop (127 * part)).take (partGrains w part))) s

/-- Sends the choices of one token; `routes` and `users` are its TOPK entries with their choice numbers. -/
def sendChoices (s : State) (cx : Nat) (p : CmdPkt) (tbl : List Word) (first : Nat) (ws : List Codeword) :
    List (Nat × Nat × Nat) → State × Nat → State × Nat
  | [], a => a
  | (j, e, u) :: t, a =>
    if e = 0xFFFF then sendChoices s cx p tbl first ws t a
    else
      match tbl[e]? with
      | some r => sendChoices s cx p tbl first ws t (sendToken a.1 cx p r ((first + j) % 4294967296) u ws, a.2 + 1)
      | none => sendChoices s cx p tbl first ws t a

/-- The routing choices of a TOKEN_SEND: 2 bytes for each choice of each token (Table 10-2). -/
def tokenRoutes (s : State) (p : CmdPkt) : State × List (Option Byte) :=
  let n := 2 * p.at 65 1 * p.at 96 4
  let a := p.at 80 8 % 2 ^ 44
  if p.at 65 1 ≤ 8 ∧ p.at 66 2 ≤ 1016 ∧ !leavesRegion s a n then readTable s a n else (s, [])

/-- BAD_PARAM faults of TOKEN_SEND, with its routing choices. DESIGN CHOICE: RW 0 is one of them, since Table 10-2 gives its range
as 1-4096, though R85 would have a size of 0 be empty (log entry 95; unsafe). -/
def tokenSendParams (s : State) (p : CmdPkt) (es : List (Option Nat)) : List (Bool × Nat) :=
  let topk := p.at 65 1
  let n := p.at 96 4
  let rows := (tget s.disp.routes (p.at 64 1 % 4) []).length
  [(decide (8 < topk) || decide (1016 < p.at 66 2), 8), (badSource s (p.at 72 8 % 2 ^ 44) (32 * p.at 66 2 * n), 9),
   (leavesRegion s (p.at 80 8 % 2 ^ 44) (2 * topk * n) ||
      es.any (fun e => match e with | some v => v != 0xFFFF && decide (rows ≤ v) | none => false), 10),
   (bit (p.at 88 8) 63 && leavesRegion s (p.at 88 8 % 2 ^ 44) (8 * topk * n), 11), (p.at 104 8 % 2 ^ 44 % 32 != 0, 13),
   (p.at 112 2 == 0 || decide (4096 < p.at 112 2), 14)]

/-- Whether TOKEN_SEND lacks a right (R75). -/
def tokenSendDenied (s : State) (p : CmdPkt) : Bool :=
  let n := p.at 96 4
  readDenied s p (p.at 72 8 % 2 ^ 44) (32 * p.at 66 2 * n) || readDenied s p (p.at 80 8 % 2 ^ 44) (2 * p.at 65 1 * n) ||
    (bit (p.at 88 8) 63 && readDenied s p (p.at 88 8 % 2 ^ 44) (8 * p.at 65 1 * n))

/-- Reads one token and sends its choices; the count is of the choices sent. -/
def sendOneToken (p : CmdPkt) (cx : Nat) (tbl : List Word) (es : List (Option Nat)) (users : List (Option Byte))
    (a : State × Nat) (i : Nat) : State × Nat :=
  let topk := p.at 65 1
  let g := readMem (p.at 66 2) a.1 (p.at 72 8 % 2 ^ 44 + 32 * p.at 66 2 * i)
  let cs := (List.range topk).map fun j =>
    (i * topk + j, ((es.getD (i * topk + j) none).getD 0xFFFF), (tableAt users (8 * (i * topk + j)) 8).getD 0)
  sendChoices g.1 cx p tbl (p.at 100 4) (g.2.map (·.word)) cs (g.1, a.2)

/-- Sends every token of a TOKEN_SEND. -/
def sendTokens (s : State) (cx : Nat) (p : CmdPkt) (es : List (Option Nat)) (users : List (Option Byte)) : State × Nat :=
  (List.range (p.at 96 4)).foldl (sendOneToken p cx (tget s.disp.routes (p.at 64 1 % 4) []) es users) (s, 0)

/-- TOKEN_SEND (R195). -/
def execTokenSend (cx : Nat) (s : State) : Answer :=
  .next <| whole s fun s =>
  match turnOf s cx 0x0302 with
  | none => s
  | some r =>
    let p := r.pkt
    let rd := tokenRoutes s p
    let es := tableEntries rd.2 2 (rd.2.length / 2)
    match checkFail p tokenSendLayout (tokenSendParams s p es) [] (tokenSendDenied s p) with
    | some (st, f) => completeBad rd.1 cx st f
    | none =>
      if p.at 96 4 = 0 ∨ p.at 65 1 = 0 ∨ p.at 66 2 = 0 then complete s cx stDONE_EMPTY 0
      else
        let ru := if bit (p.at 88 8) 63 then readTable rd.1 (p.at 88 8 % 2 ^ 44) (8 * p.at 65 1 * p.at 96 4) else (rd.1, [])
        if tableBad rd.2 || tableBad ru.2 then complete ru.1 cx stDATA_POISON 0
        else
          let r1 := sendTokens ru.1 cx p es ru.2
          awaitAcks (bump r1.1 rDsStat 31 0 r1.2) cx stDONE r1.2

/-! ### TOKEN_RETURN (R201) -/

/-- Records that the command returns for a closed or failed generation. -/
def Manifest.records (x : Manifest) : Nat := if x.state = .failed then x.fill else x.tokens

/-- Sends one row of RW grains to where a lading record asks (R201). DESIGN CHOICE: its harbour number is not held against
HB_ROADSTEAD.COUNT, since the record names no global address (R25; log entry 117; unsafe). -/
def sendRow (s : State) (cx : Nat) (rec : Nat) (ws : List Codeword) : State :=
  let orig := bits rec 49 32
  let ret := bits rec 171 128
  let valid := bit rec 255
  (List.range (ceilDiv ws.length 128)).foldl (fun s' i =>
    let h := newHdr s' tyWRITE orig
    let h1 := if valid then { h with manValid := true, manifest := bits rec 253 240, gen := bits rec 191 176 } else h
    sendBulk s' cx { h1 with target := (ret + 4096 * i) % 2 ^ 44 } ((ws.drop (128 * i)).take 128)) s

/-- Whether a record's row is zeros: DROPPED or INCOMPLETE. -/
def zeroRow (rec : Nat) : Bool := bit rec 50 || bit rec 52

/-- Sends a row for each of `n` lading records: zeros where its token was dropped or is incomplete (R201). -/
def sendRows (s : State) (cx rw base : Nat) (lading : List (Option Byte)) (n : Nat) : State :=
  (List.range n).foldl (fun s' a =>
    let r := (tableAt lading (32 * a) 32).getD 0
    if zeroRow r then sendRow s' cx r (List.replicate rw (codewordOf 0))
    else
      let g := readMem rw s' (base + 32 * rw * a)
      sendRow g.1 cx r (g.2.map (·.word))) s

/-- TOKEN_RETURN (R201). DEDUCED: it waits while lading records of its failed generation are still held (R199, R316; log entry
118). -/
def execTokenReturn (cx : Nat) (s : State) : Answer :=
  .next <| whole s fun s =>
  match turnOf s cx 0x0303 with
  | none => s
  | some r =>
    let p := r.pkt
    let m := p.at 64 2 % 16384
    let rw := p.at 68 2
    let base := p.at 72 8 % 2 ^ 44
    let x := manOf s m
    let n := x.records
    let known := x.gen == p.at 66 2 && x.kind == 2
    let params := [(decide (4096 < rw) || !known, 8), (known && badSource s base (32 * rw * n), 9)]
    match checkFail p [(8, 13, 0), (8, 31, 16), (8, 47, 32), (9, 43, 0)] params [] (readDenied s p base (32 * rw * n)) with
    | some (st, f) => completeBad s cx st f
    | none =>
      if rw = 0 then complete s cx stDONE_EMPTY 0
      else if x.state = .opened ∨ x.state = .finalising then complete s cx stBUSY 0
      else if s.land.failing.any fun f => f.1 == m && f.2.2.gen == x.gen then s
      else
        let rd := readTable s x.lading (32 * n)
        if tableBad rd.2 then complete rd.1 cx stDATA_POISON 0
        else
          awaitAcks (sendRows rd.1 cx rw base rd.2 n) cx stDONE n

/-! ### BUF_RELEASE (R202) -/

/-- Reads the count that the buffer-pool manager keeps in its beacon, and says whether the release ring is full. -/
def relRing (s : State) : State × Bool :=
  let r := read64 s (beaconAddr (fld s rDsPoolCfg 31 16))
  (r.1, decide (2 ^ fld s rDsPoolCfg 4 0 ≤ (s.disp.prod + 18446744073709551616 - r.2) % 18446744073709551616))

/-- What a release record says of the generation it names: address, bytes and number of records. -/
structure ReleaseInfo where
  base : Nat
  bytes : Nat
  records : Nat
  deriving DecidableEq, Repr

/-- The bytes of a release record. -/
def releaseRecord (s : State) (p : CmdPkt) (x : ReleaseInfo) : List Byte :=
  leBytes 8 (x.base + selfNum s * 2 ^ 46) ++ leBytes 8 x.bytes ++ leBytes 2 (p.at 64 2 % 16384) ++ leBytes 2 (p.at 66 2) ++
  leBytes 4 x.records ++ leBytes 8 s.disp.prod

/-- Whether an engine's write of `n` bytes to a global address is one that R25 carries to other harbours. -/
def carriedAway (s : State) (ga n : Nat) : Bool :=
  let dram := regionOfRange s.part (gaLocal ga) n == some .dram
  match gaSpace ga with
  | 0 => decide (gaHarbour ga < countNum s) && (dram || inBeacons (gaLocal ga) n)
  | 2 => dram
  | _ => false

/-- Sends the release record to its ring slot, here or on another harbour; R25 carries no other write. DESIGN CHOICE: where
DS_POOL_BASE names an address that R25 and Table 2-2 do not carry, nothing is written, and the command completes as if it had
been (log entry 117; unsafe). -/
def sendRelease (s : State) (cx : Nat) (p : CmdPkt) (x : ReleaseInfo) : State :=
  let a := regW s rDsPoolBase / 32 * 32 + s.disp.prod % 2 ^ fld s rDsPoolCfg 4 0 * 32
  let l := gaLocal a
  let w := codewordOf (bytesGrain (releaseRecord s p x))
  let s1 :=
    if gaSpace a = 1 ∨ (gaSpace a = 0 ∧ gaHarbour a = selfNum s) then
      (if softwareAt s l 32 then storeWord s (homeAddr s.part l) w
       else if inBeacons l 32 then beaconsWritten (storeWord s l w) l 32 else s)
    else if carriedAway s a 32 then
      sendBulk s cx { newHdr s tyWRITE (gaHarbour a) with target := l, rel := true, bcast := gaSpace a == 2 } [w]
    else s
  awaitAcks s1 cx stDONE x.records

/-- The BUF_RELEASE whose turn has come, at its start or at a full ring. -/
def relTurn (s : State) (cx : Nat) : Option (Running × Bool) :=
  match cmdOf? s cx with
  | none => none
  | some r =>
    match r.phase with
    | .waitRing _ _ _ _ => if r.pkt.opcode = 0x0305 then some (r, true) else none
    | _ => (turnOf s cx 0x0305).map fun q => (q, false)

/-- Whether the record of another BUF_RELEASE is on its way, so that PROD names its slot. -/
def releaseUnderWay (s : State) (cx : Nat) : Bool :=
  s.cmd.running.any fun e => e.1 != cx && e.2.pkt.opcode == 0x0305 &&
    (match e.2.phase with | .waitAck _ _ => true | _ => false)

/-- BUF_RELEASE (R202). One record at a time is on its way. A command that waits for the ring keeps what its record says of
the generation that it named when it was checked. -/
def execBufRelease (cx : Nat) (s : State) : Answer :=
  .next <| whole s fun s =>
  match relTurn s cx with
  | none => s
  | some (r, waiting) =>
    let p := r.pkt
    let x := manOf s (p.at 64 2 % 16384)
    let ring := relRing s
    match waiting, r.phase with
    | true, .waitRing _ base bytes records =>
      if ring.2 || releaseUnderWay s cx then ring.1 else sendRelease ring.1 cx p ⟨base, bytes, records⟩
    | _, _ =>
      let known := x.gen == p.at 66 2 && x.kind == 2
      match checkFail p [(8, 13, 0), (8, 31, 16)] [(!known, 8)] [] false with
      | some (st, f) => completeBad s cx st f
      | none =>
        if fld s rDsPoolCfg 4 0 = 0 then complete s cx stDONE_EMPTY 0
        else if x.state = .opened ∨ x.state = .finalising then complete s cx stBUSY 0
        else if ring.2 || runsOther s cx 0x0305 (fun _ => true) then
          putCmd ring.1 cx { r with phase := .waitRing (now s) x.base x.bytes x.records }
        else sendRelease ring.1 cx p ⟨x.base, x.bytes, x.records⟩

/-- BUF_RELEASE_TIMEOUT: a full ring awaited for WAIT × 1024 ticks (R202). -/
def execBufReleaseTimeout (cx : Nat) (s : State) : Answer :=
  .next <|
  match cmdOf? s cx with
  | none => s
  | some r =>
    match r.phase with
    | .waitRing t0 _ _ _ =>
      let ring := relRing s
      if ring.2 && fld s rDsPoolCfg 63 48 != 0 && expired s t0 (fld s rDsPoolCfg 63 48 * 1024) then
        complete ring.1 cx stTIMEOUT 0
      else ring.1
    | _ => s

/-! ### GRAD_DISPATCH (R204-R207) -/

def gradDispatchLayout : List Named :=
  [(8, 15, 0), (8, 23, 16), (8, 25, 24), (8, 47, 32), (8, 63, 48), (9, 31, 0), (9, 63, 32), (10, 43, 0), (11, 17, 0),
   (11, 47, 32), (11, 61, 48), (12, 31, 0), (13, 47, 0)]

/-- What compression needs to know of a consignment. -/
structure GdCtx where
  ftz : Bool
  stoch : Bool
  seed : BitVec 128
  tensorId : Nat
  step : Nat
  index0 : Nat             -- element index of its first element in the tensor
  deriving DecidableEq, Repr

/-- One element after compression: its H16 code or sign, its new residual, and whether the residual was zeroed. -/
structure GdElem where
  code : Nat
  resid : F32
  zeroed : Bool
  deriving DecidableEq, Repr

/-- e := g + r for every element (R205). -/
def gdSums (z : Bool) (gs : List Nat) (rs : List F32) : Fl (List Val) :=
  (gs.zip rs).mapM fun x => do
    let g ← fdecode1 z fH16 x.1
    let r ← flushIn z (ofF32 x.2)
    fadd z g r

/-- The residual e - d, or 0 where the owner's d is not finite (R205). -/
def gdResid (z : Bool) (e d : Val) : Fl (F32 × Bool) :=
  if d.isFinite then do
    let r ← fsub z e d
    pure (toF32 r, false)
  else pure (0, true)

/-- One element rounded to H16 (FORM 0 and FORM 2). -/
def gdRound (c : GdCtx) (i : Nat) (e : Val) : Fl GdElem := do
  let draw := if c.stoch then some (kwDraw c.seed c.tensorId c.step (c.index0 + i) 0x05) else none
  let v ← convert c.ftz fH16 false draw 0 e
  let r ← gdResid c.ftz e (decodeCode fH16 v.code)
  pure { code := v.code, resid := r.1, zeroed := r.2 }

/-- k′ of a parcel's mean magnitude (R206). -/
def gdExp (m : Nat) (e : Int) : Int := if 3 * 2 ^ Nat.log2 m ≤ 2 * m then msbExp m e + 1 else msbExp m e

/-- The scale byte of a parcel and the exponent it stands for (R206). -/
def gdScale (es : List Val) (a : Val) : Nat :=
  if es.any (fun e => !e.isFinite) then 0xFF
  else
    match a with
    | .fin _ m e => if m = 0 ∨ gdExp m e < -24 then 0 else min 0xFE (127 + gdExp m e).toNat
    | _ => 0xFF

/-- A parcel in sign form: its scale byte and its elements (R206). -/
def gdSign (z : Bool) (es : List Val) : Fl (Nat × List GdElem) := do
  let sum ← es.foldlM (fun a e => fadd z a e.abs) Val.zero
  let sc := gdScale es (sum.scale (-5))
  let ds ← es.mapM fun e => do
    let d : Val := if sc = 0 then .zero else if sc = 255 ∨ 127 + 16 ≤ sc then .inf e.isNeg else .fin e.isNeg 1 ((sc : Int) - 127)
    let r ← gdResid z e d
    pure { code := b2n e.isNeg, resid := r.1, zeroed := r.2 }
  pure (sc, ds)

/-- The indices of the K elements of greatest rank, in increasing order (R207). -/
def topIndices (es : List Val) (k : Nat) : List Nat :=
  let ranked := (es.zipIdx.map fun e => ((toF32 e.1.abs).toNat, e.2)).mergeSort fun a b =>
    decide (b.1 < a.1) || (a.1 == b.1 && decide (a.2 ≤ b.2))
  ((ranked.take k).map (·.2)).mergeSort fun a b => decide (a ≤ b)

/-- The grains that cannot be read: of the source, 16 elements each, and of the residuals, 8 elements each. -/
structure GdBad where
  src : List Nat
  res : List Nat
  deriving DecidableEq, Repr

/-- Whether an element in [i, i + n) has an operand that cannot be read. -/
def GdBad.meets (b : GdBad) (i n : Nat) : Bool :=
  b.src.any (fun g => decide (16 * g < i + n ∧ i < 16 * g + 16)) || b.res.any (fun g => decide (8 * g < i + n ∧ i < 8 * g + 8))

/-- What a consignment becomes: payloads with the parcel each starts at, residuals (none where it is poisoned), zeroed count. -/
structure GdOut where
  packets : List (Nat × Nat × List Codeword)   -- PARCEL, ARG, payload
  resid : List (Option F32)
  zeroed : Nat
  deriving DecidableEq, Repr

/-- Payload grains of bytes; those whose number is in `bad` become poison with zero data symbols (R327). -/
def payloadOf (bs : List Byte) (bad : List Nat) : List Codeword :=
  (toGrains (bs.length / 32 + 1) bs).zipIdx.map fun g => if g.2 ∈ bad then poisonOf 0 else codewordOf g.1

/-- FORM 0: poison spreads by element (R327). -/
def gdForm0 (c : GdCtx) (es : List Val) (bad : GdBad) : Fl GdOut := do
  let xs ← es.zipIdx.mapM fun e => gdRound c e.2 e.1
  let bytes := xs.flatMap fun x => leBytes 2 x.code
  let half (h : Nat) : Nat × Nat × List Codeword :=
    (64 * h, 64, payloadOf ((bytes.drop (4096 * h)).take 4096)
      ((List.range 128).filter fun g => bad.meets (16 * (128 * h + g)) 16))
  pure { packets := [half 0, half 1],
         resid := xs.zipIdx.map fun x => if bad.meets x.2 1 then none else some x.1.resid,
         zeroed := (xs.zipIdx.filter fun x => x.1.zeroed && !bad.meets x.2 1).length }

/-- FORM 1: poison spreads by parcel. -/
def gdForm1 (c : GdCtx) (es : List Val) (bad : GdBad) : Fl GdOut := do
  let ps ← (List.range 128).mapM fun j => gdSign c.ftz ((es.drop (32 * j)).take 32)
  let badP := (List.range 128).filter fun j => bad.meets (32 * j) 32
  let signs := ps.flatMap fun p => leBytes 4 (maskOf ((p.2.zipIdx.filter fun x => x.1.code == 1).map (·.2)))
  let scales := ps.map fun p => BitVec.ofNat 8 p.1
  let badG := badP.map (· / 8) ++ badP.map fun j => 16 + j / 32
  pure { packets := [(0, 128, payloadOf (signs ++ scales) badG)],
         resid := ps.zipIdx.flatMap fun p => p.1.2.map fun x => if p.2 ∈ badP then none else some x.resid,
         zeroed := (ps.zipIdx.filter fun p => p.2 ∉ badP).foldl (fun n p => n + (p.1.2.filter (·.zeroed)).length) 0 }

/-- FORM 2: its ranks depend on every element. -/
def gdForm2 (c : GdCtx) (k : Nat) (es : List Val) (bad : GdBad) : Fl GdOut := do
  let good := !bad.meets 0 4096
  let idx := topIndices es k
  let sent ← idx.mapM fun i => gdRound c i (es.getD i .zero)
  let bytes := (idx.zip sent).flatMap fun x => leBytes 4 (x.1 + x.2.code * 65536)
  let t : Table F32 := (idx.zip sent).foldl (fun t x => tset t x.1 x.2.resid) []
  pure { packets := [(0, k, payloadOf bytes (if good then [] else List.range 128))],
         resid := (tdense t 0 4096 (fun i => toF32 (es.getD i .zero))).map fun r => if good then some r else none,
         zeroed := if good then (sent.filter (·.zeroed)).length else 0 }

/-- Compresses one consignment in FORM (R205-R207). -/
def gdCompress (c : GdCtx) (form k : Nat) (gs : List Nat) (rs : List F32) (bad : GdBad) : Fl GdOut := do
  let es ← gdSums c.ftz gs rs
  match form with
  | 0 => gdForm0 c es bad
  | 1 => gdForm1 c es bad
  | _ => gdForm2 c k es bad

/-- Residuals as a consignment keeps them: those that depend on an operand that could not be read are poison with zero data
(R327). -/
def Consign.withResid (c : Consign) (rs : List (Option F32)) : Consign :=
  { c with resid := tsparse (rs.map (·.getD 0)) 0 (fun _ => 0),
           badResid := (List.range 512).filter fun g => ((rs.drop (8 * g)).take 8).any (·.isNone) }

/-- Hands a consignment's packets over and then writes its residuals (R204), under the job seed and HB_FTZ in force when the
command started (R150, R160). -/
def gdConsign (cx : Nat) (run : Running) (a : State × Bool) (i : Nat) : State × Bool :=
  let p := run.pkt
  let n := p.at 64 2
  let c := p.at 72 4 + i
  match setOf? a.1 n with
  | none => a
  | some x =>
    match x.tensorOf c with
    | none => a
    | some (_, t, f) =>
      let rd := readMem 256 (wakeQuay a.1 (homeQuay a.1 c)) (p.at 80 8 % 2 ^ 44 + 8192 * i)
      let gs := (List.range 4096).map fun j =>
        bits ((rd.2.getD (j / 16) ⟨codewordOf 0, false⟩).word.data.toNat) (16 * (j % 16) + 15) (16 * (j % 16))
      let bad : GdBad :=
        { src := (List.range 256).filter fun g => (rd.2.getD g ⟨codewordOf 0, false⟩).bad, res := (x.con c).badResid }
      let ctx : GdCtx := { ftz := ftzAt run.ftz clTug, stoch := bit (p.at 67 1) 0, seed := run.seed, tensorId := t.tensorId,
                           step := p.at 104 8 % 2 ^ 48, index0 := (c - f) * 4096 }
      let old := tdense (x.con c).resid 0 4096 (fun _ => 0)
      let s0 := bump rd.1 (rInEccStat (homeQuay rd.1 c)) 47 32 bad.res.length
      let o := (gdCompress ctx (p.at 66 1) (p.at 68 2) gs old bad).run 0
      let s1 := o.1.packets.foldl (fun s' k =>
        let h := newHdr s' tyCONTRIB (p.at 88 4 % 2 ^ 18)
        sendBulk s' cx { h with
          manValid := true, manifest := p.at 94 2 % 16384, gen := p.at 70 2, fmt := p.at 66 1, arg := k.2.1,
          red := bit (p.at 67 1) 1 && h.ver == 3,
          target := p.at 92 2 % 64 + (p.at 96 4 + i) * 64 + k.1 * 2 ^ 32 } k.2.2) s0
      let s2 := modSet s1 n fun y => y.setCon c ((y.con c).withResid o.1.resid)
      (noteFlush (bump s2 rDsStat 63 48 o.1.zeroed) clTug o.2, a.2 || bad.meets 0 4096)

/-- BAD_PARAM faults of GRAD_DISPATCH. -/
def gradDispatchParams (s : State) (p : CmdPkt) : List (Bool × Nat) :=
  let n := p.at 64 2
  let form := p.at 66 1
  let count := p.at 76 4
  let dispatch := match setOf? s n with | some x => x.isDispatch | none => false
  let total := match setOf? s n with | some x => x.total | none => 0
  [(!dispatch || decide (2 < form) || (form == 2 && decide (1024 < p.at 68 2)), 8),
   (dispatch && decide (total < p.at 72 4 + count), 9), (badSource s (p.at 80 8 % 2 ^ 44) (8192 * count), 10),
   (decide (countNum s ≤ p.at 88 4 % 2 ^ 18) || decide (63 < p.at 92 2), 11), (decide (2 ^ 26 < p.at 96 4 + count), 12)]

/-- GRAD_DISPATCH (R204). -/
def execGradDispatch (cx : Nat) (s : State) : Answer :=
  .next <| whole s fun s =>
  match turnOf s cx 0x0304 with
  | none => s
  | some r =>
    let p := r.pkt
    let n := p.at 64 2
    let form := p.at 66 1
    let k := p.at 68 2
    let first := p.at 72 4
    let count := p.at 76 4
    let src := p.at 80 8 % 2 ^ 44
    match checkFail p gradDispatchLayout (gradDispatchParams s p) [] (readDenied s p src (8192 * count)) with
    | some (st, f) => completeBad s cx st f
    | none =>
      if count = 0 ∨ (form = 2 ∧ k = 0) then complete s cx stDONE_EMPTY 0
      else if runsOther s cx 0x0304 (fun q => q.at 64 2 == n && overlaps first count (q.at 72 4) (q.at 76 4)) then
        complete s cx stBUSY 0
      else
        let s0 := modSet s n fun x => { x with dispStep := p.at 104 8 % 2 ^ 48 }
        let a := (List.range count).foldl (gdConsign cx r) (s0, false)
        awaitAcks a.1 cx (if a.2 then stDATA_POISON else stDONE) count

end Sys2Proof.Machine
end

