-- ==== Sys2Proof/Machine/Export.lean ====
section
/-!
DEFINITION. The export engine: blocks and trailers (R267-R269), requests and subscriptions (R270-R274), recalls (R275,
R276), contexts (R22), and its commands.
-/
namespace Sys2Proof.Machine

open Sys2Proof

/-! ### Contexts (R22) -/

/-- A request for a set: its context is held, and a fifth evicts the one least recently used. -/
def touchCtx (s : State) (n : Nat) : State :=
  if n ∈ s.exp.contexts then { s with exp := { s.exp with contexts := n :: s.exp.contexts.filter (· != n) } }
  else
    let s1 := { s with exp := { s.exp with contexts := n :: s.exp.contexts.take 3 } }
    if 4 ≤ s.exp.contexts.length then bump s1 rExStat 63 48 1 else s1

/-! ### Blocks (R267, R269) -/

/-- What a request or subscription names: its blocks and their form. -/
structure ExpRange where
  pset : Nat
  kind : Nat
  xfmt : Nat
  xmargin : Nat
  tensor : Nat
  first : Nat
  count : Nat
  deriving DecidableEq, Repr

/-- The staged codes and scale bytes of consignment k for an epoch, from the staging or by R19. -/
def Pset.staged (x : Pset) (k epoch : Nat) : List Byte :=
  let c := x.con k
  stageBytes x.sfmt (if c.stageEpoch.toNat = epoch then c.stage else c.oldStage)

/-- Rows of a tensor's matrix. -/
def TensorEnt.rows (e : TensorEnt) : Nat := if e.cols = 0 then 0 else e.elements / e.cols

/-- Whether a tensor can be served transposed (R267). -/
def TensorEnt.transposable (e : TensorEnt) : Bool :=
  e.cols != 0 && e.cols % 32 == 0 && e.rows % 32 == 0 && e.elements == e.rows * e.cols

/-- Tiles of the transposed matrix. -/
def TensorEnt.tiles (e : TensorEnt) : Nat := (e.rows / 32) * (e.cols / 32)

/-- Logical index of element (r, k) of a matrix (R243, R267). -/
def TensorEnt.index (e : TensorEnt) (r k : Nat) : Nat :=
  if e.tiled then ((r / 8) * (e.cols / 8) + k / 8) * 64 + (r % 8) * 8 + k % 8 else r * e.cols + k

/-- Logical indices of tile n in the order of the block: W[32b + j][32a + i] at 32i + j. -/
def TensorEnt.tile (e : TensorEnt) (n : Nat) : List Nat :=
  let a := n / (e.rows / 32)
  let b := n % (e.rows / 32)
  (List.range 1024).map fun p => e.index (32 * b + p % 32) (32 * a + p / 32)

/-- The consignments that a block depends on. -/
def blockCons (x : Pset) (r : ExpRange) (i : Nat) : List Nat :=
  if r.kind = 0 then [i]
  else
    match x.tensors[r.tensor]? with
    | some e => ((e.tile i).map fun j => x.firstOf r.tensor + j / 4096).eraseDups
    | none => []

/-- Bytes of a block, trailer included (Table 13-3). -/
def blockSize (x : Pset) (r : ExpRange) : Nat :=
  if r.kind = 0 then stageCodes x.sfmt + 128 + 32 else (if r.xfmt = fK4 then 512 else 1024) + 64

/-- A staged code and its scale byte: element `i` of staged bytes. -/
def stagedElem (sfmt : Nat) (bs : List Byte) (i : Nat) : Nat × Nat :=
  let code := if sfmt = fK4 then
      (let b := (bs.getD (i / 2) 0).toNat
       if i % 2 = 0 then b % 16 else b / 16)
    else (bs.getD i 0).toNat
  (code, (bs.getD (stageCodes sfmt + i / 32) 0).toNat)

/-- One row of a transposed tile: its codes and scale byte. `f` is the tensor's first consignment. -/
def tileRow (x : Pset) (r : ExpRange) (ftz : Bool) (f : Nat) (src : Table (List Byte)) (row : List Nat) :
    Fl (List Nat × Nat) := do
  let vs ← row.mapM fun j => do
    let c := stagedElem x.sfmt (tget src (f + j / 4096) []) (j % 4096)
    fdecode ftz x.sfmt c.1 c.2
  let k := fitParcel r.xfmt r.xmargin vs
  let cs ← vs.mapM fun v => convert ftz r.xfmt false none k v
  pure (cs.map (·.code), scaleByteOf k)

/-- The body of a transposed tile, with the values flushed (R269). -/
def tileBody (x : Pset) (r : ExpRange) (ftz : Bool) (i epoch : Nat) : List Byte × Nat :=
  match x.tensors[r.tensor]? with
  | none => ([], 0)
  | some e =>
    let f := x.firstOf r.tensor
    let src : Table (List Byte) := (blockCons x r i).foldl (fun t k => tset t k (x.staged k epoch)) []
    let o := ((pieces 32 32 (e.tile i)).mapM (tileRow x r ftz f src)).run 0
    (stageOf r.xfmt (o.1.flatMap (·.1)) (o.1.map (·.2)), o.2)

/-- The trailer grain (Table 13-4). -/
def trailer (x : Pset) (r : ExpRange) (i epoch reissue : Nat) (cleared : Bool) : Grain :=
  let tensor := if r.kind = 0 then (match x.tensorOf i with | some (t, _, _) => t | none => 0) else r.tensor
  bytesGrain (leBytes 2 r.pset ++ leBytes 2 tensor ++ leBytes 4 i ++ leBytes 8 epoch ++
    leBytes 1 (if r.kind = 0 then x.sfmt else r.xfmt) ++ leBytes 1 (b2n cleared + 2 * r.kind) ++ leBytes 1 reissue ++
    leBytes 13 0)

/-- Parcels of consignment k that a block reads. -/
def blockParcels (x : Pset) (r : ExpRange) (i k : Nat) : List Nat :=
  if r.kind = 0 then allParcels
  else
    match x.tensors[r.tensor]? with
    | some e => ((e.tile i).filter fun j => x.firstOf r.tensor + j / 4096 == k).map (· % 4096 / 32) |>.eraseDups
    | none => []

/-- Values of consignment k that the conversion of R19 replaces while the export engine serves a block of an epoch that the
staging no longer holds (R138; log entry 119). -/
def convFlush (x : Pset) (r : ExpRange) (ftz : Bool) (i epoch k : Nat) : Nat :=
  if (x.con k).stageEpoch.toNat = epoch then 0 else x.stageFlush ftz k epoch (blockParcels x r i k)

/-- The body of a block and the values replaced under FTZ while it is formed (R19, R138, R269). -/
def blockBody (x : Pset) (r : ExpRange) (ftz : Bool) (i epoch : Nat) : List Byte × Nat :=
  let b := if r.kind = 0 then (x.staged i epoch, 0) else tileBody x r ftz i epoch
  (b.1, (blockCons x r i).foldl (fun n k => n + convFlush x r ftz i epoch k) b.2)

/-- REISSUE of a block of the active epoch or of the next (Table 13-4). -/
def blockReissue (x : Pset) (r : ExpRange) (i epoch : Nat) : Nat :=
  (blockCons x r i).foldl (fun n k =>
    n + (if epoch = x.ep.epoch.toNat then (x.con k).reissueOld else (x.con k).reissue)) 0

/-! ### Delivery (R268, R271) -/

/-- Where a global address leads: here, to another harbour, or nowhere that export writes. -/
inductive ExpPlace where
  | here (a : Nat)
  | away (h a : Nat)
  | nowhere
  deriving DecidableEq, Repr

def expPlace (s : State) (ga : Nat) : ExpPlace :=
  if gaSpace ga = 1 ∨ (gaSpace ga = 0 ∧ gaHarbour ga = selfNum s) then .here (gaLocal ga)
  else if gaSpace ga = 0 ∧ gaHarbour ga < countNum s then .away (gaHarbour ga) (gaLocal ga)
  else .nowhere

/-- Sends grains to another harbour as WRITE packets of at most 128 grains; `fuel` bounds the packets. -/
def sendWrites : Nat → State → Nat → Nat → Nat → List Codeword → State
  | 0, s, _, _, _, _ => s
  | n + 1, s, src, dest, a, ws =>
    if ws.isEmpty then s
    else
      sendWrites n (sendCounted s { hdr := { newHdr s tyWRITE dest with target := a, source := src, len := (ws.take 128).length },
                                    payload := ws.take 128 }) src dest (a + 4096) (ws.drop 128)

/-- Adds a write that waits for acknowledgements of its source. -/
def addWaiting (s : State) (src stage : Nat) (o : ExpOut) : State :=
  { s with exp := { s.exp with waiting := s.exp.waiting ++ [(src, stage, o)] } }

/-- Writes a block at its destination: the trailer takes effect after the rest (R268), at once with it on this harbour. `i`
and `epoch` name the block. -/
def deliver (s0 : State) (src : Nat) (place : ExpPlace) (i epoch : Nat) (body : List Byte) (tr : Grain) : State :=
  let s := rouse s0 0x32
  match place with
  | .here a => writeBytes s a (body ++ grainBytes tr)
  | .away h a =>
    let s1 := sendWrites (body.length / 4096 + 1) s src h a ((toGrains (body.length / 32 + 1) body).map codewordOf)
    addWaiting s1 src 0 (.packet i epoch
      { hdr := { newHdr s1 tyWRITE h with target := a + body.length, source := src, rel := true, len := 1 },
        payload := [codewordOf tr] })
  | .nowhere => s

/-- Where block `i` of a range goes: an offset from DST. -/
def ExpPlace.plus (p : ExpPlace) (n : Nat) : ExpPlace :=
  match p with
  | .here a => .here (a + n)
  | .away h a => .away h (a + n)
  | .nowhere => .nowhere

/-- Serves one block of an epoch (R270) under the FTZ bit that the request took at its start (R150). -/
def serveBlock (s : State) (ftz : Bool) (src : Nat) (dst : ExpPlace) (r : ExpRange) (i epoch : Nat) (cleared : Bool) : State :=
  match setOf? s r.pset with
  | none => s
  | some x =>
    let b := blockBody x r ftz i epoch
    let s1 := noteFlush (modSet s r.pset fun y => { y with sw := { y.sw with cFlush := y.sw.cFlush + b.2 } }) clExport b.2
    let s2 := { s1 with snap := { s1.snap with
      blocks := s1.snap.blocks + 1, lastExport := (r.pset, BitVec.ofNat 64 epoch) } }
    deliver s2 src (dst.plus ((i - r.first) * blockSize x r)) i epoch b.1 (trailer x r i epoch (blockReissue x r i epoch) cleared)

/-- Serves several blocks. -/
def serveBlocks (s : State) (ftz : Bool) (src : Nat) (dst : ExpPlace) (r : ExpRange) (l : List Nat) (epoch : Nat) (cleared : Bool) :
    State :=
  if l.isEmpty then s else l.foldl (fun s' i => serveBlock s' ftz src dst r i epoch cleared) (touchCtx s r.pset)

/-- The blocks of a range. -/
def ExpRange.blocks (r : ExpRange) : List Nat := upFrom r.first r.count

/-- Whether epoch e + 1 of a block can be served now: the walk is TENTATIVE and each consignment has its progress bit
(R226, R270). -/
def aheadReady (x : Pset) (r : ExpRange) (i : Nat) : Bool :=
  x.sw.phase == .walking && x.sw.tentative && (blockCons x r i).all fun k => (x.con k).progress

/-! ### EXPORT_PUSH (R271) -/

/-- The range of an EXPORT_PUSH packet (Table 13-5). -/
def pushRange (p : CmdPkt) : ExpRange :=
  { pset := p.at 64 2, kind := p.at 66 1, xfmt := p.at 68 1, xmargin := p.at 69 1 % 4, tensor := p.at 70 2,
    first := p.at 80 4, count := p.at 84 4 }

/-- Ends an EXPORT_PUSH once its packets are acknowledged. -/
def endPush (s : State) (cx status : Nat) : State :=
  match cmdOf? s cx with
  | none => s
  | some r => awaitAcks s cx status r.sent

/-- Blocks of epoch e + 1 that a running request takes; `cleared` after the commit point. -/
def pushAhead (s : State) (cx : Nat) (l : List Nat) (epoch : Nat) (cleared : Bool) : State :=
  match cmdOf? s cx with
  | none => s
  | some r =>
    match r.phase with
    | .push done =>
      putCmd (serveBlocks s (ftzAt r.ftz clExport) (cmdSource cx) (expPlace s (r.pkt.at 88 8)) (pushRange r.pkt) l epoch cleared) cx
        { r with phase := .push (done ++ l.filter (· ∉ done)), sent := r.sent + l.length }
    | _ => s

/-- Running requests for epoch e + 1 of a set: context and packet. -/
def aheadPushes (s : State) (n : Nat) : List (Nat × Running × List Nat) :=
  s.cmd.running.filterMap fun e =>
    match e.2.phase with
    | .push done => if e.2.pkt.opcode = 0x0503 ∧ e.2.pkt.at 64 2 = n then some (e.1, e.2, done) else none
    | _ => none

/-! ### Subscriptions (R272-R274) -/

def Sub.range (u : Sub) : ExpRange :=
  { pset := u.pset, kind := u.kind, xfmt := u.xfmt, xmargin := u.xmargin, tensor := u.tensor, first := u.first, count := u.count }

def putSub (s : State) (k : Nat) (u : Sub) : State := { s with exp := { s.exp with subs := tset s.exp.subs k u } }

/-- The status grain of a subscription (Table 13-7). -/
def subStatusGrain (u : Sub) : Grain :=
  bytesGrain (leBytes 8 u.clearedEpoch.toNat ++ leBytes 8 u.recalls.toNat ++ leBytes 8 u.sentEpoch.toNat ++ leBytes 8 0)

/-- Writes a subscription's status grain; R25 carries a remote one only to DRAM and beacons. -/
def writeStatus (s : State) (k : Nat) : State :=
  match tget? s.exp.subs k with
  | none => s
  | some u =>
    match expPlace s u.status.toNat with
    | .here a => if inMemory s a 32 then writeBytes s a (grainBytes (subStatusGrain u)) else s
    | .away h a =>
      if !carriedAway s u.status.toNat 32 then s
      else
        sendCounted s { hdr := { newHdr s tyWRITE h with target := a, source := subSource k, rel := true, len := 1 },
                        payload := [codewordOf (subStatusGrain u)] }
    | .nowhere => s

/-- A status write that becomes due: CLEARED_EPOCH takes the epoch. -/
def statusDue (s : State) (k : Nat) (epoch : Word) : State :=
  match tget? s.exp.subs k with
  | none => s
  | some u => writeStatus (putSub s k { u with clearedEpoch := epoch }) k

/-- Whether a source still waits for acknowledgements or has writes behind them, or a write of an engine is held. -/
def expBusy (s : State) (src : Nat) : Bool := !srcQuiet s src || s.exp.waiting.any (·.1 == src) || !s.berth.held.isEmpty

/-- Performs the next stage of a source's waiting writes once its packets are acknowledged and no write of an engine is
held. -/
def expStage (s : State) (src : Nat) : State :=
  if !srcQuiet s src || !s.berth.held.isEmpty then s
  else
    let mine := s.exp.waiting.filter (·.1 == src)
    match mine with
    | [] => s
    | e :: _ =>
      let st := mine.foldl (fun m x => min m x.2.1) e.2.1
      let now := mine.filter (·.2.1 == st)
      let s1 := { s with exp := { s.exp with waiting := s.exp.waiting.filter fun x => !(x.1 == src && x.2.1 == st) } }
      now.foldl (fun s' x =>
        match x.2.2 with
        | .packet _ _ p => sendCounted s' p
        | .status k e => statusDue s' k e) s1

/-- Every source whose writes wait is looked at. -/
def expStages (s : State) : State := ((s.exp.waiting.map (·.1)).eraseDups).foldl expStage s

/-- Offset of an epoch's range from DST (R273). -/
def Sub.shift (u : Sub) (x : Pset) (epoch : Nat) : Nat :=
  if u.double && epoch % 2 == 1 then u.count * blockSize x u.range else 0

/-- Pushes blocks of a subscription. -/
def subPush (s : State) (k : Nat) (l : List Nat) (epoch : Nat) (cleared : Bool) : State :=
  match tget? s.exp.subs k with
  | none => s
  | some u =>
    match setOf? s u.pset with
    | none => s
    | some x =>
      if l.isEmpty then s
      else
        let s1 := putSub s k { u with pushed := u.pushed + l.length, sentEpoch := BitVec.ofNat 64 epoch }
        serveBlocks s1 (ftzOf s clExport) (subSource k) ((expPlace s u.dst.toNat).plus (u.shift x epoch)) u.range l epoch cleared

/-- The status write of an epoch, after its blocks (R273). -/
def subDone (s : State) (k : Nat) (epoch : Nat) : State :=
  if expBusy s (subSource k) then addWaiting s (subSource k) 1 (.status k (BitVec.ofNat 64 epoch))
  else statusDue s k (BitVec.ofNat 64 epoch)

/-- Pushes a whole range at an epoch that has cleared (INITIAL, and step 6 of R357). -/
def subInitial (s : State) (k : Nat) : State :=
  match tget? s.exp.subs k with
  | none => s
  | some u =>
    match setOf? s u.pset with
    | none => s
    | some x => subDone (subPush s k u.range.blocks x.ep.epoch.toNat true) k x.ep.epoch.toNat

/-- Blocks of epoch e + 1 that a RUNAHEAD subscription takes now. -/
def subAhead (s : State) (k : Nat) (only : Option Nat) : State :=
  match tget? s.exp.subs k with
  | none => s
  | some u =>
    match setOf? s u.pset with
    | none => s
    | some x =>
      if !u.runahead then s
      else
        let l := u.range.blocks.filter fun i =>
          i ∉ u.ahead && (match only with | some c => (blockCons x u.range i).contains c | none => true) &&
          aheadReady x u.range i
        let s1 := subPush s k l (x.ep.epoch.toNat + 1) false
        match tget? s1.exp.subs k with
        | some v => putSub s1 k { v with ahead := v.ahead ++ l, sentAhead := v.sentAhead ++ l.filter (· ∉ v.sentAhead) }
        | none => s1

/-- Subscriptions of a set. -/
def subsOf (s : State) (n : Nat) : List Nat := (s.exp.subs.filter (·.2.pset == n)).map (·.1)

/-! ### Events of a walk -/

/-- The progress bit of consignment c of set n has taken effect (R226). -/
def exportProgress (s : State) (n c : Nat) : State :=
  let s1 := (subsOf s n).foldl (fun s' k => subAhead s' k (some c)) s
  match setOf? s1 n with
  | none => s1
  | some x =>
    (aheadPushes s1 n).foldl (fun s' e =>
      let r := pushRange e.2.1.pkt
      let l := r.blocks.filter fun i => i ∉ e.2.2 && (blockCons x r i).contains c && aheadReady x r i
      pushAhead s' e.1 l (x.ep.epoch.toNat + 1) false) s1

/-- The commit point has passed: the epoch word holds the new epoch (R226, R270, R273). -/
def exportCommit (s : State) (n : Nat) : State :=
  match setOf? s n with
  | none => s
  | some x =>
    let e := x.ep.epoch.toNat
    let s1 := (aheadPushes s n).foldl (fun s' a =>
      let r := pushRange a.2.1.pkt
      endPush (pushAhead s' a.1 (r.blocks.filter (· ∉ a.2.2)) e true) a.1
        (if a.2.1.recalled then stRECALLED else stDONE)) s
    (subsOf s1 n).foldl (fun s' k =>
      match tget? s'.exp.subs k with
      | none => s'
      | some u =>
        let s2 := subPush s' k (u.range.blocks.filter (· ∉ u.ahead)) e true
        match tget? s2.exp.subs k with
        | some v => subDone (putSub s2 k { v with ahead := [], sentAhead := [] }) k e
        | none => s2) s1

/-- A walk is abandoned, or stops under R224 or R225: requests for epoch e + 1 complete with RECALLED (R271). -/
def exportStop (s : State) (n : Nat) : State :=
  (aheadPushes s n).foldl (fun s' a =>
    let s1 := { s' with exp := { s'.exp with waiting := s'.exp.waiting.filter (·.1 != cmdSource a.1) } }
    completeAcked s1 a.1 stRECALLED a.2.1.sent a.2.1.refused) s

/-! ### Recall (R275, R276) -/

/-- Blocks of a list that depend on consignment c. -/
def touching (x : Pset) (r : ExpRange) (c : Nat) (l : List Nat) : List Nat := l.filter fun i => (blockCons x r i).contains c

/-- The RECALL message for one consignment (R276): its REISSUE is that of the blocks that replace `l`, the greatest where they
differ, so that every replaced block lies below it (log entry 105). -/
def recallMsg (x : Pset) (r : ExpRange) (c : Nat) (l : List Nat) : BitVec 128 :=
  let e := x.ep.epoch.toNat + 1
  let reissue := (l.map fun i => blockReissue x r i e).foldl max 0
  pilotBits 2 0 r.pset (BitVec.ofNat 64 (c + 2 ^ 26 + reissue % 256 * 2 ^ 42 + e % 16384 * 2 ^ 50))

/-- Sends a RECALL to a subscriber. -/
def sendRecall (s : State) (k : Nat) (u : Sub) (m : BitVec 128) : State :=
  let s1 := match expPlace s u.dst.toNat with
    | .here _ => pilotPort s u.port u.engine m
    | .away h _ => sendPacket s { hdr := { newHdr s tyPILOT h with len := 1 }, payload := [codewordOf (m.zeroExtend 256)] }
    | .nowhere => s
  let s2 := bump { s1 with snap := { s1.snap with recalls := s1.snap.recalls + 1 } } rExStat 15 0 1
  writeStatus (putSub s2 k { u with recalls := u.recalls + 1 }) k

/-- Whether a block of epoch e + 1 that depends on consignment c has been served (R226, R275). -/
def servedAhead (s : State) (n c : Nat) : Bool :=
  match setOf? s n with
  | none => false
  | some x =>
    (subsOf s n).any (fun k =>
      match tget? s.exp.subs k with
      | some u => u.sentAhead.any fun i => (blockCons x u.range i).contains c
      | none => false) ||
    (aheadPushes s n).any fun a => a.2.2.any fun i => (blockCons x (pushRange a.2.1.pkt) i).contains c

/-- The range that a source of pushes of set n serves. -/
def sourceRange (s : State) (n src : Nat) : Option ExpRange :=
  match (s.exp.subs.find? fun e => subSource e.1 == src && e.2.pset == n).map (·.2.range) with
  | some r => some r
  | none => ((aheadPushes s n).find? fun a => cmdSource a.1 == src).map fun a => pushRange a.2.1.pkt

/-- Cancels the queued pushes of epoch e + 1 that depend on consignment c (R275, step 1): their trailers do not leave. -/
def cancelPushes (s : State) (n c : Nat) (x : Pset) : State :=
  let stays (w : Nat × Nat × ExpOut) : Bool :=
    match w.2.2, sourceRange s n w.1 with
    | .packet i epoch _, some r => !(epoch == x.ep.epoch.toNat + 1 && (blockCons x r i).contains c)
    | _, _ => true
  { s with exp := { s.exp with waiting := s.exp.waiting.filter stays } }

/-- Withdraws consignment c of epoch e + 1 (R275, steps 1 to 4). -/
def recallCon (s : State) (n c : Nat) : State :=
  match setOf? s n with
  | none => s
  | some x0 =>
    let d := x0.con c
    let x := x0.setCon c { d with reissue := d.reissue + 1 }
    let s1 := putSet (cancelPushes s n c x0) n x
    let s2 := (subsOf s1 n).foldl (fun s' k =>
      match tget? s'.exp.subs k with
      | some u =>
        let l := touching x u.range c u.sentAhead
        if l.isEmpty then s' else sendRecall s' k u (recallMsg x u.range c l)
      | none => s') s1
    (aheadPushes s2 n).foldl (fun s' a =>
      if !(touching x (pushRange a.2.1.pkt) c a.2.2).isEmpty then
        match cmdOf? s' a.1 with
        | some r => putCmd s' a.1 { r with recalled := true }
        | none => s'
      else s') s2

/-- Counts blocks sent again. -/
def countReissued (s : State) (n : Nat) : State := bump s rExStat 31 16 n

/-- Reissues the blocks that depend on consignment c (R275, step 5). -/
def reissueCon (s : State) (n c : Nat) : State :=
  match setOf? s n with
  | none => s
  | some x =>
    let e := x.ep.epoch.toNat + 1
    let s1 := (subsOf s n).foldl (fun s' k =>
      match tget? s'.exp.subs k with
      | some u =>
        let l := touching x u.range c u.sentAhead
        subPush (putSub (countReissued s' l.length) k { u with ahead := u.ahead ++ l.filter (· ∉ u.ahead) }) k l e false
      | none => s') s
    (aheadPushes s1 n).foldl (fun s' a =>
      let l := touching x (pushRange a.2.1.pkt) c a.2.2
      if l.isEmpty then s' else pushAhead (countReissued s' l.length) a.1 l e false) s1

/-- Blocks sent ahead are forgotten when the round ends without a commit (R232). -/
def dropAhead (s : State) (n : Nat) : State :=
  (subsOf s n).foldl (fun s' k =>
    match tget? s'.exp.subs k with
    | some u => putSub s' k { u with ahead := [], sentAhead := [] }
    | none => s') s

/-! ### Commands -/

/-- Faults that EXPORT_PUSH and EXPORT_SUB share; `u` names the units of set and tensor, of the range and of DST. -/
def rangeParams (s : State) (r : ExpRange) (dst span : Nat) (u : Nat × Nat × Nat) : List (Bool × Nat) :=
  match setOf? s r.pset with
  | none => [(true, u.1)]
  | some x =>
    let ent := x.tensors[r.tensor]?
    let bad8 := x.isDispatch || decide (1 < r.kind) || (r.kind == 1 && !(r.xfmt ∈ [3, 4, 7])) ||
      (r.kind == 1 && (match ent with | some e => !e.transposable | none => true))
    let limit := if r.kind = 0 then x.total else (match ent with | some e => e.tiles | none => 0)
    let place := match expPlace s dst with
      | .here a => !inSoftware s a span
      | .away _ a => regionOfRange s.part a span != some .dram
      | .nowhere => true
    [(bad8, u.1), (!bad8 && decide (limit < r.first + r.count), u.2.1), (decide (dst % 32 ≠ 0) || place, u.2.2)]

/-- Whether the issuing port lacks the write right for a global destination (R75, R26). -/
def globalDenied (s : State) (p : CmdPkt) (ga n : Nat) : Bool := !p.hasRight s rightWrite (gaLocal ga) n

/-- Bytes that a range needs at DST. -/
def rangeSpan (s : State) (r : ExpRange) (copies : Nat) : Nat :=
  match setOf? s r.pset with
  | some x => r.count * blockSize x r * copies
  | none => 0

def pushLayout : List Named := [(8, 23, 0), (8, 41, 32), (8, 63, 48), (9, 63, 0), (10, 63, 0), (11, 63, 0)]

/-- EXPORT_PUSH (R271). -/
def execExportPush (cx : Nat) (s : State) : Answer :=
  .next <| whole s fun s =>
  match turnOf s cx 0x0503 with
  | none => s
  | some q =>
    let p := q.pkt
    let r := pushRange p
    let dst := p.at 88 8
    let span := rangeSpan s r 1
    let e := match setOf? s r.pset with | some x => x.ep.epoch.toNat | none => 0
    let next := (e + 1) % 18446744073709551616
    let params := rangeParams s r dst span (8, 10, 11) ++ [((setOf? s r.pset).isSome && p.at 72 8 != e && p.at 72 8 != next, 9)]
    match checkFail p pushLayout params [] (globalDenied s p dst span) with
    | some (st, f) => completeBad s cx st f
    | none =>
      if r.count = 0 then complete s cx stDONE_EMPTY 0
      else if p.at 72 8 = e then
        endPush (putCmd (serveBlocks s (ftzAt q.ftz clExport) (cmdSource cx) (expPlace s dst) r r.blocks e true) cx
          { q with sent := r.count }) cx stDONE
      else
        let s1 := putCmd (touchCtx s r.pset) cx { q with phase := .push [] }
        match setOf? s r.pset with
        | some x => pushAhead s1 cx (r.blocks.filter (aheadReady x r)) next false
        | none => s1

def subLayout : List Named :=
  [(8, 26, 0), (8, 41, 32), (8, 63, 48), (9, 14, 0), (9, 23, 16), (9, 63, 32), (10, 31, 0), (11, 63, 0), (12, 63, 0)]

/-- The range of an EXPORT_SUB packet (Table 13-6). -/
def subRange (p : CmdPkt) : ExpRange :=
  { pset := p.at 64 2, kind := p.at 66 1, xfmt := p.at 68 1, xmargin := p.at 69 1 % 4, tensor := p.at 70 2,
    first := p.at 76 4, count := p.at 80 4 }

/-- The subscription that an EXPORT_SUB packet arms (Table 13-6). -/
def subOfPkt (p : CmdPkt) : Sub :=
  let r := subRange p
  let flags := p.at 67 1
  { pset := r.pset, kind := r.kind, runahead := bit flags 0, double := bit flags 2, xfmt := r.xfmt, xmargin := r.xmargin,
    tensor := r.tensor, port := p.at 73 1 % 128, engine := p.at 74 1, first := r.first, count := r.count,
    dst := BitVec.ofNat 64 (p.at 88 8), status := BitVec.ofNat 64 (p.at 96 8), clearedEpoch := 0, recalls := 0, sentEpoch := 0,
    pushed := 0, ahead := [], sentAhead := [] }

/-- Whether the issuing port lacks the write right for the status grain of an EXPORT_SUB (R272). -/
def statusDenied (s : State) (p : CmdPkt) : Bool := globalDenied s p (p.at 96 8) 32

/-- EXPORT_SUB (R272, R273): with INITIAL it completes once the blocks it has pushed are acknowledged (R102). DESIGN CHOICE: the
arming itself is a request that takes a context of R22, and may evict one, although R273 names only its pushes (log entry 116;
unsafe for the order of evictions). -/
def execExportSub (cx : Nat) (s : State) : Answer :=
  .next <| whole s fun s =>
  match turnOf s cx 0x0501 with
  | none => s
  | some q =>
    let p := q.pkt
    let r := subRange p
    let flags := p.at 67 1
    let k := p.at 72 1
    let dst := p.at 88 8
    let status := p.at 96 8
    let span := rangeSpan s r (if bit flags 2 then 2 else 1)
    let statusBad := decide (status % 32 ≠ 0) || expPlace s status == .nowhere
    let params := rangeParams s r dst span (8, 9, 11) ++
      [(decide (ports s.part ≤ p.at 73 1 % 128), 9), (statusBad, 12)]
    match checkFail p subLayout params [] (globalDenied s p dst span || statusDenied s p) with
    | some (st, f) => completeBad s cx st f
    | none =>
      if r.count = 0 then complete s cx stDONE_EMPTY 0
      else if (tget? s.exp.subs k).isSome then complete s cx stBUSY 0
      else
        let s1 := putSub (touchCtx s r.pset) k (subOfPkt p)
        if bit flags 1 then awaitAcks (subAhead (subInitial s1 k) k none) cx stDONE 0
        else complete (subAhead s1 k none) cx stDONE 0

/-- Whether a RECALL for a local subscription still waits at its port's egress for a credit (R274, R275). -/
def recallWaits (s : State) (u : Sub) : Bool :=
  s.host.egress.any fun e =>
    match e.msg with
    | .pilot eng m => e.port == u.port && eng == u.engine && bits m.toNat 7 0 == 2 && bits m.toNat 47 32 == u.pset
    | _ => false

/-- EXPORT_UNSUB: it waits until no RECALL for the subscription is left to leave, and until the subscription's writes have been acknowledged (R274). -/
def execExportUnsub (cx : Nat) (s : State) : Answer :=
  .next <| whole s fun s =>
  match turnOf s cx 0x0502 with
  | none => s
  | some q =>
    let p := q.pkt
    let k := p.at 64 1
    match checkFail p [(8, 7, 0)] [] [] false with
    | some (st, f) => completeBad s cx st f
    | none =>
      match tget? s.exp.subs k with
      | none => complete s cx stDONE 0
      | some u =>
        if expBusy s (subSource k) || recallWaits s u then s
        else complete { s with exp := { s.exp with subs := terase s.exp.subs k } } cx stDONE u.pushed

end Sys2Proof.Machine
end

