-- ==== Sys2Proof/Machine/Sweep.lean ====
section
/-!
DEFINITION. The update sweep: the epoch word and its journal (R210, R228), the norm exchange and the decision (R213-R215),
loss scale (R216, R217), the walk with its checks (R220-R227, R333-R336), commit, skip and abandon (R229-R232), step
reports (R234-R236), digests and the replica exchange (R363-R366), and the recall hold (R340, R341).
-/
namespace Sys2Proof.Machine

open Sys2Proof

/-! ### The epoch word (R210, R228) -/

/-- A journaled write of the epoch word: SEQ grows by one and the entry supersedes the set's earlier one. `act` says what the
write does, which decides the actions that follow it. The word is homed on quay n mod N (R210). -/
def writeEpoch (s : State) (n : Nat) (f : Epoch → Epoch) (act : EpochAct) : State :=
  match setOf? s n with
  | none => s
  | some x =>
    let w := { f x.ep with seq := x.ep.seq + 1 }
    { putSet (wakeQuay s (n % quays s.part)) n { x with ep := w, sw := { x.sw with wholeCycle := act == .commit } } with
      boot := { s.boot with journal := (s.boot.journal.filter fun e => e.pset != n) ++ [{ pset := n, act := act, word := w }] },
      snap := { s.snap with journalSeq := w.seq } }

/-- The round's buckets and non-finite word end with it, as does ACTION 1 on its manifests (R341), and what waited for the
release is performed (R183, R211). -/
def releaseRound (s : State) (n : Nat) : State :=
  performReleased (modSet s n fun x =>
    { x with gradB := [], nonfinite := 0, nanRound := x.nanRound.filter fun t => t == x.ep.tround }) n

/-! ### Loss scale (R216) -/

/-- LS and CLEAN after a commit. -/
def lsCommit (r : PsetRegs) (e : Epoch) : Nat × Nat :=
  let c := (e.clean + 1) % 65536
  if r.dynamic ∧ r.g ≠ 0 ∧ c = r.g then (min r.lmax (e.ls + 1), 0) else (e.ls, c)

/-- LS and CLEAN after a skip. -/
def lsSkip (r : PsetRegs) (e : Epoch) : Nat × Nat := (if r.dynamic then max r.lmin (e.ls - 1) else e.ls, 0)

/-! ### The step report (R234-R236) -/

/-- The sums of one tensor's buckets; `none` stands for all tensors. -/
def bucketSel (t : Table Nat) (tensor : Option Nat) : Table Nat :=
  match tensor with
  | some k => t.filter fun e => decide (e.1 / 256 = k)
  | none => t

/-- A gradient norm: √N rounded to F32, times 2^-LS, rounded again only if subnormal (R215, R235). -/
def gradNorm (units ls : Nat) : Val := ((normVal units).scale (-(ls : Int))).round

/-- Weight, update and gradient norms of a tensor or of the harbour as 12 bytes. -/
def normEntry (x : Pset) (swept : Bool) (tensor : Option Nat) : List Byte :=
  let v (t : Table Nat) : F32 := if swept then toF32 (normVal (normUnits (bucketSel t tensor))) else 0
  leBytes 4 (v x.weightB).toNat ++ leBytes 4 (v x.updateB).toNat ++
  leBytes 4 (toF32 (gradNorm (normUnits (bucketSel x.gradB tensor)) x.ep.ls)).toNat

/-- The tick and the low 16 bits of the wrap count, as snapshot word 1 (R234). -/
def tickWord (s : State) : Nat := now s + s.boot.wraps % 65536 * tickMod

/-- How a round ends. -/
inductive RoundEnd where
  | commit | skip | abandon
  deriving DecidableEq, Repr

/-- A count of a report, saturating. -/
def rep32 (n : Nat) : List Byte := leBytes 4 (min n 4294967295)

/-- The 4 KiB of a step report (Table 11-7): the set before the epoch word is written, the new word, and how it ends. -/
def reportBytes (s : State) (n : Nat) (x : Pset) (w : Epoch) (how : RoundEnd) : List Byte :=
  let r := x.sw
  let walked := r.phase == .walking
  let tn := x.tensors.length
  let flags := b2n (how == .skip) + 2 * b2n (how == .abandon) + 4 * b2n r.resumed + 8 * b2n (walked && r.tentative) +
    16 * b2n (x.pr.localOnly || countNum s == 1) + 32 * b2n r.byHost + 64 * b2n (decide (320 < tn) && r.tnorms.isNone)
  leBytes 2 n ++ leBytes 1 x.consts.rule ++ leBytes 1 flags ++ leBytes 4 tn ++ leBytes 6 (x.ep.step + 1) ++ leBytes 2 0 ++
  leBytes 8 w.epoch.toNat ++ leBytes 4 r.clip.toNat ++ leBytes 4 r.gn.toNat ++ leBytes 1 x.ep.ls ++ leBytes 1 w.ls ++
  leBytes 2 w.clean ++ normEntry x (how == .commit) none ++ leBytes 8 (if r.byHost then 0 else r.nonfiniteTotal) ++
  leBytes 8 r.nonfiniteOwn ++ leBytes 8 r.decideTick ++ leBytes 8 (tickWord s) ++ rep32 r.cSwept ++ rep32 r.cKept ++
  rep32 r.cDup ++ rep32 r.cDetect ++ rep32 r.cRecall ++ rep32 r.cFlush ++ rep32 r.cSat ++ rep32 r.cTpc ++ rep32 r.cLazy ++
  rep32 x.drops ++ rep32 x.spills ++ rep32 r.cHolds ++ rep32 r.cResumes ++ leBytes 124 0 ++
  ((List.range (min tn 320)).flatMap fun t => normEntry x (how == .commit) (some t)) ++ leBytes (12 * (320 - min tn 320)) 0

/-- The entries of every tensor (R235). -/
def tnormsBytes (x : Pset) (how : RoundEnd) : List Byte :=
  (List.range x.tensors.length).flatMap fun t => normEntry x (how == .commit) (some t)

/-- The sweep record after a round: what a replay needs stays latched (R360). -/
def SweepRec.ended (r : SweepRec) (unreported : Bool) : SweepRec :=
  { r with phase := .idle, latch := none, skip := false, byHost := false, resumed := false, interrupted := false, poisoned := 0,
           stopped := none, unreported := unreported, cSwept := 0, cKept := 0, cDup := 0, cDetect := 0, cRecall := 0,
           cFlush := 0, cSat := 0, cTpc := 0, cLazy := 0, cDrop := 0, cSpill := 0, cHolds := 0, cResumes := 0 }

/-- Writes the step report that falls due, of the set as it stood before its epoch word was written (R236). -/
def writeReport (s : State) (n : Nat) (x : Pset) (how : RoundEnd) : State :=
  match setOf? s n with
  | none => s
  | some y =>
    let s1 := putSet s n { y with sw := y.sw.ended x.sw.report.isNone, drops := 0, spills := 0 }
    match x.sw.report with
    | none => s1
    | some a =>
      let s2 := match x.sw.tnorms with
        | some t => if 320 < x.tensors.length then writeBytes s1 t (tnormsBytes x how) else s1
        | none => s1
      writeBytes s2 a (reportBytes s n x y.ep how)

/-! ### The commands of a sweep -/

/-- The running SWEEP or SWEEP_RESUME of a set. -/
def sweepCmd? (s : State) (n : Nat) : Option (Nat × Running) :=
  s.cmd.running.find? fun e =>
    (e.2.pkt.opcode == 0x0401 || e.2.pkt.opcode == 0x0402) && e.2.pkt.at 64 2 == n &&
      (match e.2.phase with | .started | .waitAck _ _ => false | _ => true)

/-- Completes the running SWEEP or SWEEP_RESUME of a set, once no write of an engine is held (R102). -/
def endSweepCmd (s : State) (n status result : Nat) : State :=
  match sweepCmd? s n with
  | some (cx, _) =>
    awaitAcks { s with walk := { s.walk with wait := s.walk.wait.filter (· != cx) } } cx status result
  | none => s

/-- The next consignment of a quay in the walk that runs (Table 17-7): the first homed there that is still to be examined, and
the number of consignments where none is. -/
def nextOn (s : State) (x : Pset) (q : Nat) : Nat :=
  ((List.range x.total).find? fun k => homeQuay s k == q && !(x.con k).visited && !(x.con k).residue).getD x.total

/-- What snapshot word 4 of a crane shows: the next consignment of its walk, and between walks that at which the last one ended
(Table 17-7; log entry 121). -/
def nextWord (s : State) (q : Nat) : Nat :=
  match s.walk.set.bind (setOf? s) with
  | some x => nextOn s x q
  | none => (tget s.snap.lastCon q (0, 0, 0)).1

/-- The crane is released (R21). -/
def freeCrane (s : State) (n : Nat) : State :=
  if s.walk.set = some n then
    { s with walk := { s.walk with set := none },
             snap := { s.snap with lastCon := (List.range (quays s.part)).foldl (fun t q =>
               tput t q (nextWord s q, (tget s.snap.lastCon q (0, 0, 0)).2) (0, 0, 0)) s.snap.lastCon } }
  else s

/-- A walk stops before its commit point (R224, R225, R230). -/
def stopWalk (s : State) (n status result : Nat) : State :=
  let s1 := modSet s n fun x => { x with sw := { x.sw with interrupted := true } }
  endSweepCmd (exportStop (freeCrane s1 n) n) n status result

/-! ### Abandon (R232) -/

/-- A consignment is withdrawn from those whom its blocks of epoch e + 1 have reached, and counted (R275, Table 16-15). -/
def recallServed (s : State) (n k : Nat) : State :=
  modSet (bump (recallCon s n k) rInStat 63 48 1) n fun y => { y with sw := { y.sw with cRecall := y.sw.cRecall + 1 } }

/-- Restages one swept consignment from the active slip, under the FTZ bit of its walk, and recalls it where it was served. The
conversion gives the bits of R19, and what it replaces is counted (R138; log entry 119). -/
def unstageCon (s : State) (n k : Nat) : State :=
  let s1 := if servedAhead s n k then recallServed s n k else s
  match setOf? s1 n with
  | none => s1
  | some x =>
    let c := x.con k
    let f := x.stageFlush x.sw.ftz k x.ep.epoch.toNat allParcels
    noteFlush (putSet s1 n ({ x with sw := { x.sw with cFlush := x.sw.cFlush + f } }.setCon k
      { c with stage := c.oldStage, stageEpoch := x.ep.epoch, oldStage := [] })) clCrane f

/-- Consignments of a walk whose staging holds epoch e + 1. -/
def Pset.writtenCons (x : Pset) : List Nat := (List.range x.total).filter fun k => (x.con k).progress

/-- What follows the epoch word of an abandon: the release, the report and the end of the walk. `x` is the set before it. -/
def afterAbandon (s : State) (n : Nat) (x : Pset) : State := freeCrane (writeReport (releaseRound s n) n x .abandon) n

/-- Ends a round without applying it; gives the number of consignments restaged. -/
def abandonRound (s : State) (n : Nat) : State × Nat :=
  match setOf? s n with
  | none => (s, 0)
  | some x =>
    let l := if x.sw.phase = .walking then x.writtenCons else []
    let s0 := l.foldl (fun s' k => unstageCon s' n k) s
    let s1 := dropAhead (if x.sw.phase = .walking then exportStop s0 n else s0) n
    let s2 := writeEpoch s1 n (fun e => { e with tround := (e.tround + 1) % 65536, skips := min (e.skips + 1) 4294967295 }) .abandon
    (afterAbandon s2 n ((setOf? s1 n).getD x), l.length)

/-! ### Digests of replicas (R363-R366) -/

/-- An exchange ends without judgement: MISSING and DIFFERS are of the last exchange (Table 17-10). -/
def endMissing (s : State) (n : Nat) : State :=
  modSet s n fun x =>
    if x.pr.pending then { x with pr := { x.pr with pending := false, missing := true, differs := false } } else x

/-- What follows the epoch word that sets EXPELLED or DISPUTED: the alert, and the abandon of a round under way, whose command
completes with the bit's status (R365, R366). -/
def afterDiffer (s : State) (n : Nat) (x : Pset) (disputed : Bool) : State :=
  let s1 := raiseAlert s 3
  if x.sw.phase = .idle then s1
  else endSweepCmd (abandonRound s1 n).1 n (if disputed then stDISPUTED else stEXPELLED) 0

/-- Sets EXPELLED or DISPUTED, and abandons a round under way (R366). -/
def expel (s : State) (n : Nat) (disputed : Bool) : State :=
  match setOf? s n with
  | none => s
  | some x =>
    afterDiffer (writeEpoch s n (fun e => if disputed then { e with disputed := true } else { e with expelled := true })
      .differ) n x disputed

/-- Reads the digest grains of an exchange (R326): step and value; none where a grain is unreadable. -/
def digestGrains (s : State) (x : Pset) : State × List (Option (Nat × Nat)) :=
  let r := readGrains s ((List.range x.pr.count).map fun r => beaconAddr (x.pr.beacon + 4 * r))
  (r.1, r.2.map fun g =>
    if g.bad then none else some (bits g.word.data.toNat 111 64, bits g.word.data.toNat 63 0))

/-- The value that more than half of the grains hold. -/
def majority (l : List Nat) : Option Nat := l.find? fun v => decide (l.length < 2 * (l.filter (· == v)).length)

/-- The outcome of an exchange (Table 17-5). -/
def judgeValues (s : State) (n : Nat) (x : Pset) (l : List Nat) : State :=
  let own := x.pr.digest.toNat
  let put (f : PsetRegs → PsetRegs) : State := modSet s n fun y => { y with pr := f { y.pr with pending := false, missing := false } }
  let worse (p : PsetRegs) : PsetRegs := { p with mismatches := satAdd p.mismatches 1 255, differs := false }
  if l.all (· == own) then
    put fun p => { p with agreed := true, differs := false, agreedStep := p.dstep }
  else
    match majority l with
    | some v =>
      if v = own then put fun p => { worse p with differs := true }
      else if 3 ≤ x.pr.count then expel (put worse) n false
      else expel (put worse) n true
    | none => expel (put worse) n true

/-- Compares the grains of a pending exchange once they carry its step (R364). Only a look that ends the exchange counts as a read
of them (R326; DESIGN CHOICE, log entry 124; unsafe). -/
def judgeSet (s : State) (n : Nat) : State :=
  match setOf? s n with
  | none => s
  | some x =>
    if !x.pr.pending then s
    else
      let rd := digestGrains s x
      let gs := rd.2
      if gs.any fun g => match g with | some (t, _) => decide (x.pr.dstep < t) | none => false then endMissing rd.1 n
      else if gs.all fun g => match g with | some (t, _) => t == x.pr.dstep | none => false then
        judgeValues rd.1 n x (gs.map fun g => match g with | some (_, v) => v | none => 0)
      else s

/-- Every pending exchange is looked at after a write to the beacons, while the harbourmaster runs (R364, R415). A judgement whose
epoch word lies on a sleeping quay waits until the quay is Active (R388). -/
def judgeAll (s : State) : State :=
  if !hmRuns s then s
  else s.sets.foldl (fun s' e => if e.2.pr.pending then (attempt s' fun t => judgeSet t e.1).1 else s') s

/-- The grain of a digest write (R364). -/
def digestGrain (x : Pset) (step : Nat) : Grain :=
  bytesGrain (leBytes 8 x.pr.digest.toNat ++ leBytes 6 step ++ leBytes 1 x.pr.self ++ leBytes 1 0 ++
    leBytes 8 x.ep.epoch.toNat ++ leBytes 8 0)

/-- The harbour of replica r of a set. -/
def replicaHarbour (s : State) (n r : Nat) : Nat := fld s (rHbReplPeer (n * 8 + r)) 17 0

/-- Writes the digest of a step on this harbour and its peers. DESIGN CHOICE: a peer is named by its harbour number, and one at or
above HB_ROADSTEAD.COUNT, of which no rule says whether the write leaves, gets its packet too (log entry 117; unsafe). -/
def sendDigest (s : State) (n step : Nat) : State :=
  match setOf? s n with
  | none => s
  | some x =>
    if x.pr.count ≤ 1 ∨ x.ep.expelled ∨ x.ep.disputed then s
    else
      let a := beaconAddr (x.pr.beacon + 4 * x.pr.self)
      let g := digestGrain x step
      let s1 := modSet (endMissing s n) n fun y => { y with pr := { y.pr with pending := true, pendTick := now s } }
      let s2 := beaconsWritten (storeGrain s1 a g) a 32
      ((List.range x.pr.count).filter (· != x.pr.self)).foldl (fun s' r =>
        sendCounted s' { hdr := { newHdr s' tyWRITE (replicaHarbour s' n r) with target := a, source := digestSource n, len := 1 },
                         payload := [codewordOf g] }) s2

/-- The digest of a committed step (R363). -/
def commitDigest (s : State) (n : Nat) (x : Pset) : State :=
  let step := x.ep.step + 1
  if x.pr.d = 0 ∨ step % x.pr.d ≠ 0 then s
  else
    sendDigest (modSet s n fun y =>
      { y with pr := { y.pr with digest := x.digestSum, dstep := step, agreed := false } }) n step

/-- DIGEST_EXCHANGE_TIMEOUT (R364). -/
def execDigestExchangeTimeout (n : Nat) (s : State) : Answer :=
  .next <|
  match setOf? s n with
  | none => s
  | some x =>
    if clocksRun s && x.pr.pending && x.pr.digTimeout != 0 && expired s x.pr.pendTick (x.pr.digTimeout * 1024) then endMissing s n else s

/-! ### Skip -/

/-- What follows the epoch word of a skip. `x` is the set before it. -/
def afterSkip (s : State) (n : Nat) (x : Pset) : State :=
  endSweepCmd (writeReport (turnSet (releaseRound s n) n) n x .skip) n stDONE_SKIPPED 0

/-- A decision to skip is applied by the running command (R216, R220). -/
def applySkip (s : State) (n : Nat) : State :=
  match setOf? s n with
  | none => s
  | some x =>
    let l := lsSkip x.pr x.ep
    afterSkip (writeEpoch s n (fun e => { e with
      tround := (e.tround + 1) % 65536, skips := min (e.skips + 1) 4294967295, ls := l.1, clean := l.2 }) .skip) n x

/-! ### Starting a walk (R219, R220, R231) -/

/-- Whether the step size belongs to another step (R219). -/
def staleEta (x : Pset) : Bool := !x.pr.etaHold && x.pr.etaStep != x.ep.step + 1

/-- Clears what a walk notes on each consignment. -/
def Pset.mapCons (x : Pset) (f : Consign → Consign) : Pset :=
  (List.range x.total).foldl (fun y k => y.setCon k (f (y.con k))) x

/-- Writes the group table of the inactive slip (R257). -/
def Pset.putTable (x : Pset) (t : Table (Nat × Nat)) : Pset := if x.ep.active then { x with last0 := t } else { x with last1 := t }

/-- What each walk and each resume begins with: classification, factors, buckets and counts. -/
def Pset.beginWalk (x : Pset) (lanes : List (Nat × Nat)) : Pset :=
  let carried := x.carriedGroups
  let y := (x.putTable (x.walkTable (x.ep.step + 1) carried)).mapCons fun c => { c with visited := false, residue := false }
  let f := x.factorFlushes x.ep.active (x.ep.step + 1) carried
  { y with weightB := [], updateB := [], digestSum := 0,
           sw := { y.sw with phase := .walking, interrupted := false, poisoned := 0, stopped := none, carried := carried,
                             lanesOut := lanes, cLazy := carried.length, cFlush := y.sw.cFlush + f } }

/-- Crane lanes retired so far, in the order of retirement. -/
def retiredPairs (s : State) : List (Nat × Nat) :=
  s.integ.retired.filterMap fun u => match u with | .lane q l => some (q, l) | _ => none

/-! ### The power hold of a crane (R20) -/

/-- Whether a walk has consignments homed on a quay that it has still to begin. -/
def restOn (s : State) (n q : Nat) : Bool :=
  match setOf? s n with
  | none => false
  | some x => (List.range x.total).any fun k => homeQuay s k == q && !(x.con k).visited && !(x.con k).residue

/-- Counts a hold of the crane of quay q, where it keeps a consignment of the walk waiting (R20). -/
def countHold (s : State) (q : Nat) : State :=
  match s.walk.set with
  | some n =>
    if restOn s n q then
      modSet (bump s (rCrStat q) 31 16 1) n fun x => { x with sw := { x.sw with cHolds := x.sw.cHolds + 1 } }
    else s
  | none => s

/-- The crane of quay q holds each new consignment until the next interval begins (R20). -/
def holdCrane (s : State) (q : Nat) : State :=
  countHold { s with walk := { s.walk with powerHeld := insertNew s.walk.powerHeld q } } q

/-- The cranes begin a walk; those that hold already hold its consignments too (R20). -/
def beginHolds (s : State) : State := s.walk.powerHeld.foldl countHold s

/-- A walk of set n starts or resumes for a command; it latches the seeds that were in force when the SWEEP of its step started
(R160, R349), those of the command itself where no SWEEP opened the round, and the rule constants (R239). -/
def startWalk (s : State) (cx n : Nat) : State :=
  match setOf? s n, cmdOf? s cx with
  | some x, some r =>
    if x.sw.phase = .walking then
      let y := x.beginWalk (retiredPairs s)
      let s1 := putSet s n { y with sw := { y.sw with resumed := true } }
      noteFlush (beginHolds (putCmd { s1 with walk := { s1.walk with set := some n } } cx
        { r with phase := .walking true, sent := 0 })) clCrane (y.sw.cFlush - x.sw.cFlush)
    else if staleEta x then complete s cx stSTALE_STEP_SIZE 0
    else
      let t := walkThreshold s
      let seeds := x.sw.latch.getD (r.seed, r.cseed)
      let x1 := { x with sw := { x.sw with
        eta := x.pr.eta, seed := seeds.1, cseed := seeds.2, consts := some x.consts, ls := x.ep.ls,
        tentative := bit (r.pkt.at 66 1) 0, frac := t.2, ftz := ftzOf s clCrane } }
      let y := (x1.mapCons fun c => { c with progress := false, cleared := false }).beginWalk (retiredPairs s)
      noteFlush (beginHolds (putCmd { putSet t.1 n y with walk := { s.walk with set := some n } } cx
        { r with phase := .walking false, sent := 0 })) clCrane (y.sw.cFlush - x.sw.cFlush)
  | _, _ => s

/-- A command reaches its walk: it waits while the crane works on another set or other commands wait (R21, R220). -/
def toWalk (s : State) (cx n : Nat) : State :=
  if s.walk.set.isSome ∨ !s.walk.wait.isEmpty then
    match cmdOf? s cx with
    | some r => { (putCmd s cx { r with phase := .sweepCrane }) with walk := { s.walk with wait := s.walk.wait ++ [cx] } }
    | none => s
  else startWalk s cx n

/-- CRANE_SWITCH (R21): the first waiting command takes the released crane. -/
def execCraneSwitch (s : State) : Answer :=
  .next <| whole s fun s =>
  if !hmRuns s then s
  else
  match s.walk.set, s.walk.wait with
  | none, cx :: t =>
    match cmdOf? s cx with
    | some r => startWalk { s with walk := { s.walk with wait := t } } cx (r.pkt.at 64 2)
    | none => { s with walk := { s.walk with wait := t } }
  | _, _ => s

/-- A command goes on from the phase of the sweep record (R220). -/
def proceed (s : State) (cx n : Nat) : State :=
  match setOf? s n, cmdOf? s cx with
  | some x, some r =>
    match x.sw.phase with
    | .idle => putCmd s cx { r with phase := .sweepLand (now s) }
    | .normSent => putCmd s cx { r with phase := .sweepNorm (now s) }
    | .decided =>
      if x.sw.skip then applySkip (putCmd s cx { r with phase := .sweepNorm (now s) }) n else toWalk s cx n
    | .walking => toWalk s cx n
  | _, _ => s

/-- The running command of a set goes on after its phase has changed. -/
def advance (s : State) (n : Nat) : State :=
  match sweepCmd? s n with
  | some (cx, _) => proceed s cx n
  | none => s

/-! ### The decision (R213-R215) -/

/-- The running command of a set goes on after its decision, unless the harbourmaster's cores stand still (R415) or the epoch word
of a skip lies on a sleeping quay (R388); it is then tried again. -/
def afterDecision (s : State) (n : Nat) : State := if hmRuns s then (attempt s fun t => advance t n).1 else s

/-- The decision on a total of `units` and `nonfinite`. -/
def decideRound (s : State) (n units nonfinite : Nat) : State :=
  match setOf? s n with
  | none => s
  | some x =>
    let gn := gradNorm units x.ep.ls
    let skip := nonfinite != 0 || !gn.isFinite
    let c := if skip || gn.isZero then Val.one else minVal .one (divVal (ofF32 x.consts.maxnorm) gn)
    afterDecision (putSet s n { x with sw := { x.sw with
      phase := .decided, skip := skip, clip := toF32 c, gn := toF32 gn, nonfiniteTotal := nonfinite, decideTick := tickWord s,
      byHost := false } }) n

/-- The summed and normalised bucket vector of a set, with its saturation (R190, R213). -/
def Pset.ownVector (x : Pset) : List Nat × Bool :=
  normalise (bucketList (x.gradB.foldl (fun t e => tset t (e.1 % 256) (tget t (e.1 % 256) 0 + e.2)) []))

/-- N of a vector of 256 sums. -/
def vectorUnits (l : List Nat) : Nat := normUnits (l.zipIdx.map fun e => (e.2, e.1))

/-- The payload of a NORM packet (Table 9-2). -/
def normPayload (v : List Nat) (nonfinite n step : Nat) : List Codeword :=
  ((toGrains 64 (v.flatMap (leBytes 8))) ++
    [bytesGrain (leBytes 8 nonfinite ++ leBytes 2 n ++ leBytes 6 step)]).map codewordOf

/-- Values of a report that no decision has given yet (log entry 17). -/
def freeDecision (s : State) : State × List Byte := drawBytes 24 s

/-- The set at NORM_SENT, with this harbour's norm and counts; the fields of the decision are free until it comes (R213; log
entry 17). -/
def normSentState (s : State) (n : Nat) (x : Pset) : State :=
  let v := x.ownVector
  let free := freeDecision s
  putSet free.1 n { x with sw := { x.sw with
    phase := .normSent, skip := false, byHost := false, normOwn := vectorUnits v.1, nonfiniteOwn := x.nonfinite + b2n v.2,
    clip := BitVec.ofNat 32 (fieldAt free.2 0 4), gn := BitVec.ofNat 32 (fieldAt free.2 4 4),
    nonfiniteTotal := fieldAt free.2 8 8, decideTick := fieldAt free.2 16 8 } }

/-- NORM_EXCHANGE_START (R213). -/
def execNormExchangeStart (n : Nat) (s : State) : Answer :=
  .next <| whole s fun s =>
  match setOf? s n with
  | none => s
  | some x =>
    if x.isDispatch || x.sw.phase != .idle || !x.allFinal || x.ep.expelled || x.ep.disputed || !hmRuns s then s
    else
      let v := x.ownVector
      let nf := x.nonfinite + b2n v.2
      let s1 := advance (normSentState s n x) n
      if x.pr.localOnly ∨ countNum s = 1 then decideRound s1 n (vectorUnits v.1) nf
      else sendPacket s1 { hdr := { newHdr s1 tyNORM x.pr.root with len := 65 },
                           payload := normPayload v.1 nf n (x.ep.step + 1) }

/-- The grains of a NORM packet; none where one is unreadable. -/
def normGrains (p : Packet) : Option (List Grain) :=
  let l := (List.range 65).map (payloadGrain p)
  if l.all (·.isSome) then some (l.map (·.getD 0)) else none

/-- NORM_PACKET (R214): a total for a set and step at NORM_SENT is recorded; any other is counted in BAD_PKT. -/
def execNormPacket (src : LandSrc) (hdr : BitVec 256) (payload : List Codeword) (s : State) : Answer :=
  .next <|
  withPacket s src hdr payload (ofType tyNORM) fun s1 p =>
    match normGrains p with
    | none => countBadPkt s1
    | some gs =>
      let last := (gs.getD 64 0).toNat
      match setOf? s1 (bits last 79 64) with
      | none => countBadPkt s1
      | some x =>
        if x.sw.phase = .normSent ∧ bits last 127 80 = x.ep.step + 1 then
          decideRound s1 (bits last 79 64)
            (vectorUnits ((gs.take 64).flatMap fun g => (List.range 4).map fun i => bits g.toNat (64 * i + 63) (64 * i)))
            (bits last 63 0)
        else countBadPkt s1

/-! ### SWEEP and SWEEP_RESUME (R218, R231) -/

def sweepLayout (resume : Bool) : List Named :=
  [(8, 17, 0), (8, 63, 32), (9, 63, 0), (10, 47, 0), (11, 43, 0), (12, 43, 0), (13, 31, 0)] ++
  (if resume then [(8, 26, 24)] else [])

/-- The checks of R218 with the exceptions of R231. -/
def sweepCheck (s : State) (cx : Nat) (p : CmdPkt) (resume : Bool) : Option (Nat × Nat) :=
  let n := p.at 64 2
  let tnEn := bit (p.at 66 1) 1
  let report := p.at 88 8 % 2 ^ 44
  let tn := p.at 96 8 % 2 ^ 44
  let abandon := resume && bit (p.at 67 1) 0
  match setOf? s n with
  | none => checkFail p (sweepLayout resume) [(true, 8)] [] false
  | some x =>
    let size := 12 * x.tensors.length
    let params :=
      [(x.isDispatch || (resume && x.sw.phase == .idle), 8),
       (p.at 80 8 % 2 ^ 48 != x.ep.step + 1 || x.ep.step == 281474976710655, 10),
       (report % 32 != 0 || leavesRegion s report 4096, 11), (tnEn && (tn % 32 != 0 || leavesRegion s tn size), 12)]
    match checkFail p (sweepLayout resume) params [] (writeDenied s p report 4096 || (tnEn && writeDenied s p tn size)) with
    | some e => some e
    | none =>
      if (s.cmd.running.any fun e => e.1 != cx && (e.2.pkt.opcode == 0x0401 || e.2.pkt.opcode == 0x0402) &&
            e.2.pkt.at 64 2 == n && e.2.phase != .started) || (!resume && x.sw.phase == .walking) then some (stBUSY, 0)
      else if x.ep.expelled then some (stEXPELLED, 0)
      else if x.ep.disputed then some (stDISPUTED, 0)
      else if !abandon && x.sw.phase != .walking && staleEta x then some (stSTALE_STEP_SIZE, 0)
      else none

/-- The sweep record takes the addresses of a command that it has received (R236). -/
def noteAddresses (s : State) (n : Nat) (p : CmdPkt) : State :=
  modSet s n fun x => { x with sw := { x.sw with
    report := some (p.at 88 8 % 2 ^ 44), tnorms := if bit (p.at 66 1) 1 then some (p.at 96 8 % 2 ^ 44) else none,
    interrupted := false } }

/-- The sweep record keeps the seeds of the SWEEP that starts (R160, R349; log entry 83). -/
def latchSeeds (s : State) (n : Nat) (r : Running) : State :=
  modSet s n fun x => { x with sw := { x.sw with latch := some (r.seed, r.cseed) } }

/-- SWEEP (R218, R220). -/
def execSweep (cx : Nat) (s : State) : Answer :=
  .next <| whole s fun s =>
  match turnOf s cx 0x0401 with
  | none => s
  | some r =>
    match sweepCheck s cx r.pkt false with
    | some (st, f) => completeBad s cx st f
    | none => proceed (latchSeeds (noteAddresses s (r.pkt.at 64 2) r.pkt) (r.pkt.at 64 2) r) cx (r.pkt.at 64 2)

/-- Records the decision that host software names (R231). -/
def hostDecision (s : State) (n : Nat) (p : CmdPkt) : State :=
  let skip := bit (p.at 67 1) 2
  modSet s n fun x => { x with sw := { x.sw with
    phase := .decided, skip := skip, byHost := true, clip := if skip then toF32 .one else BitVec.ofNat 32 (p.at 76 4),
    gn := BitVec.ofNat 32 (p.at 104 4), nonfiniteTotal := 0, decideTick := tickWord s } }

/-- SWEEP_RESUME (R231, R232). -/
def execSweepResume (cx : Nat) (s : State) : Answer :=
  .next <| whole s fun s =>
  match turnOf s cx 0x0402 with
  | none => s
  | some r =>
    let p := r.pkt
    let n := p.at 64 2
    match sweepCheck s cx p true with
    | some (st, f) => completeBad s cx st f
    | none =>
      if bit (p.at 67 1) 0 then
        let a := abandonRound (noteAddresses s n p) n
        awaitAcks a.1 cx stDONE a.2
      else
        let s1 := modSet (noteAddresses s n p) n fun x => { x with sw := { x.sw with cResumes := x.sw.cResumes + 1 } }
        let normSent := match setOf? s1 n with | some x => x.sw.phase == .normSent | none => false
        proceed (if bit (p.at 67 1) 1 && normSent then hostDecision s1 n p else s1) cx n

/-- SWEEP_LAND_TIMEOUT (R220): the command has had no effect. -/
def execSweepLandTimeout (cx : Nat) (s : State) : Answer :=
  .next <|
  match cmdOf? s cx with
  | none => s
  | some r =>
    match r.phase, setOf? s (r.pkt.at 64 2) with
    | .sweepLand t0, some x =>
      if r.pkt.at 68 4 ≠ 0 ∧ expired s t0 (r.pkt.at 68 4) ∧ hmRuns s then
        complete (putSet s (r.pkt.at 64 2) { x with sw := { x.sw with latch := none } }) cx stINCOMPLETE_LANDING
          ((List.range x.total).filter fun k => !x.finalised k).length
      else s
    | _, _ => s

/-- SWEEP_NORM_TIMEOUT (R220). -/
def execSweepNormTimeout (cx : Nat) (s : State) : Answer :=
  .next <|
  match cmdOf? s cx with
  | none => s
  | some r =>
    match r.phase with
    | .sweepNorm t0 => if r.pkt.at 72 4 ≠ 0 ∧ expired s t0 (r.pkt.at 72 4) ∧ hmRuns s then complete s cx stTIMEOUT 0 else s
    | _ => s

/-- LOSS_SCALE (R217). -/
def execLossScale (cx : Nat) (s : State) : Answer :=
  .next <| whole s fun s =>
  match turnOf s cx 0x0403 with
  | none => s
  | some r =>
    let p := r.pkt
    let n := p.at 64 2
    let ls := p.at 66 1
    let bad := match setOf? s n with
      | some x => x.isDispatch || decide (ls < x.pr.lmin) || decide (x.pr.lmax < ls)
      | none => true
    match checkFail p [(8, 23, 0)] [(bad, 8)] [] false with
    | some (st, f) => completeBad s cx st f
    | none =>
      let busy : Bool := match setOf? s n with | some x => x.sw.phase != .idle | none => false
      if busy then complete s cx stBUSY 0
      else complete (writeEpoch s n (fun e => { e with ls := ls, clean := 0 }) .scale) cx stDONE 0

/-! ### The walk -/

/-- Adds the norm buckets and digest of a written consignment to the sums of the walk, or takes them out (R227, R363). -/
def Pset.fold (x : Pset) (k : Nat) (add : Bool) : Pset :=
  match x.tensorOf k with
  | none => x
  | some (t, e, f) =>
    let old := codes16 ((x.slipBytes x.ep.active k).take 8192)
    let new := codes16 ((x.slipBytes (!x.ep.active) k).take 8192)
    let real := x.real k
    let wB := bucketsOf t (new.take real)
    let uB := bucketsOf t (((old.zip new).take real).map fun c => updateCode (decodeCode fB16 c.1) (decodeCode fB16 c.2))
    let d := digestOf x.sw.seed e.tensorId ((k - f) * 4096) real new
    let put (a b : Table Nat) : Table Nat :=
      if add then addBuckets a b else (b.foldl (fun t e => tput t e.1 (tget t e.1 0 - e.2) 0) a)
    { x with weightB := put x.weightB wB, updateB := put x.updateB uB,
             digestSum := if add then x.digestSum + BitVec.ofNat 64 d else x.digestSum - BitVec.ofNat 64 d }

/-- Applies silent errors to a consignment's bytes. -/
def flipBytes (bs : List Byte) (flips : List Flip) : List Byte :=
  flips.foldl (fun b f => setAt b f.off (b.getD f.off 0 ^^^ f.mask)) bs

/-- What the crane forms for consignment k in the walk that runs. -/
def Pset.walkCon (x : Pset) (k : Nat) : Option ConOut :=
  x.crane k (x.ep.step + 1) x.ep.active (x.ep.epoch.toNat + 1) (x.tvalid k) (x.con k).zeroed

/-- Writes slip, staging and record of a consignment and its progress bit (R222): `bs` holds the slip bytes and the staged
bytes. -/
def Pset.writeCon (x : Pset) (n k : Nat) (bs : List Byte) (checked : Bool) : Pset :=
  let c := x.con k
  let len := slipLen x.consts.rule
  let slip := bs.take len
  let stage := bs.drop len
  let step := x.ep.step + 1
  let sel := kwSelected x.sw.cseed n step k x.sw.frac
  let c1 := c.putSlip x.consts.rule (!x.ep.active) slip []
  let c2 := if c.stageEpoch = x.ep.epoch then { c1 with oldStage := c.stage } else c1
  (x.setCon k { c2 with
    stage := tsparse stage 0 (stageDefault x.sfmt), stageEpoch := x.ep.epoch + 1, sealWord := sealOf n k step slip stage,
    selected := sel, checked := checked, progress := true, visited := true, residue := false,
    cleared := !sel || checked }).fold k true

/-- Counts of the sweep record grow. -/
def Pset.countSw (x : Pset) (f : SweepRec → SweepRec) : Pset := { x with sw := f x.sw }

/-- Snapshot words 5 and 6 of the home quay's crane: the consignment that has been written and its SEAL (Table 17-7). -/
def noteWritten (s : State) (n k : Nat) : State :=
  match setOf? s n with
  | none => s
  | some x =>
    let q := homeQuay s k
    { s with snap := { s.snap with
      lastCon := tset s.snap.lastCon q ((tget s.snap.lastCon q (0, 0, 0)).1, k, (x.con k).sealWord) } }

/-- What follows a consignment's write: its counts, snapshot, run-ahead export and the running command's count. -/
def afterWrite (s : State) (n k : Nat) : State :=
  let s1 := noteWritten s n k
  let s2 := match sweepCmd? s1 n with
    | some (cx, r) => putCmd s1 cx { r with sent := r.sent + 1 }
    | none => s1
  exportProgress s2 n k

/-- After a consignment has been dealt with: a walk that left some for poison ends without a commit, once the harbourmaster runs
(R225, R415). -/
def walkEnd (s : State) (n : Nat) : State :=
  match setOf? s n with
  | none => s
  | some x =>
    let rest := (List.range x.total).any fun k => let c := x.con k; !c.visited || (c.progress && !c.cleared)
    if x.sw.poisoned ≠ 0 ∧ !rest ∧ hmRuns s then stopWalk s n stDATA_POISON x.sw.poisoned else s

/-- A recomputation that does not clear stops the walk (R224). -/
def checkStop (s : State) (n k : Nat) : State :=
  let s1 := modSet s n fun x => (x.setCon k { x.con k with progress := false, cleared := false, visited := true }).countSw
    fun r => { r with stopped := some k }
  stopWalk (bump s1 rInStat 47 32 1) n stCHECK_FAIL k

/-- The blocks of a consignment that has been recomputed after it was served are recalled and reissued (R275). -/
def withdraw (s : State) (n k : Nat) : State := reissueCon (recallServed s n k) n k

/-- The low word of the CRC-64 of a crane's input for a consignment (R346; log entry 18). -/
def Pset.inputHash (x : Pset) (k : Nat) : BitVec 32 :=
  (crc64 (x.slipBytes x.ep.active k ++ bytes16 ((tdense (x.con k).fg 0 4096 (fun _ => 0)).map (·.toNat)))).setWidth 32

/-- Whether a quay's crane may take consignment k: at most 64 of its quay are in flight (R221). -/
def inWindow (s : State) (x : Pset) (k : Nat) : Bool :=
  decide (((List.range k).filter fun j => j % quays s.part == k % quays s.part && !(x.con j).visited).length < 64)

/-- A residue detection discards the consignment before its writes (R333). -/
def residueHit (s : State) (n k lane : Nat) (x : Pset) : State :=
  let s1 := putSet s n ((x.setCon k { x.con k with residue := true, progress := false, cleared := false }).countSw
    fun r => { r with cDetect := r.cDetect + 1 })
  detect (bump s1 rInStat 15 0 1) (.lane (homeQuay s k) lane) 0 (x.inputHash k)

/-- A consignment that is written for the first time in a walk is counted, with its saturations, flushes and fallback tiles
(R234, R251-R254, R138). -/
def countCon (o : ConOut) (r : SweepRec) : SweepRec :=
  { r with cSwept := r.cSwept + 1, cSat := r.cSat + o.sat, cFlush := r.cFlush + o.flush, cTpc := r.cTpc + o.fell }

/-- Sweeps consignment k with the silent errors of its crane. One that was served before a failed check cleared its bit is
recalled and reissued, at most 255 times in the epoch (R275). -/
def sweepOne (s : State) (n k : Nat) (residue : Option Nat) (flips : List Flip) (x : Pset) : State :=
  match residue with
  | some lane => residueHit s n k lane x
  | none =>
    match x.walkCon k with
    | none => s
    | some o =>
      let served := servedAhead s n k
      if served && decide (255 ≤ (x.con k).reissue) then checkStop (putSet s n x) n k
      else
        let y := (x.writeCon n k (flipBytes (o.slip ++ o.stage) flips) false).countSw (countCon o)
        let s1 := noteFlush (putSet s n y) clCrane o.flush
        walkEnd (afterWrite (if served then withdraw s1 n k else s1) n k) n

/-- The crane of a quay works: its quay is awake (R388) and it leaves Idle (R386). -/
def useCrane (s : State) (q : Nat) : State := rouse (wakeQuay s q) q

/-- CONSIGNMENT_SWEEP (R222) (R221-R225, R231). A consignment with grains that the crane cannot read is left, and each of them
is counted (R326). -/
def execConsignmentSweep (n k : Nat) (residue : Option Nat) (flips : List Flip) (s : State) : Answer :=
  .next <| whole s fun s =>
  match setOf? s n with
  | none => s
  | some x =>
    let c := x.con k
    let q := homeQuay s k
    if s.walk.set ≠ some n || x.sw.phase != .walking || decide (x.total ≤ k) || c.visited || c.residue || !inWindow s x k ||
       (!hmRuns s && servedAhead s n k) then s
    else if s.walk.powerHeld.contains q then wakeQuay s q
    else
      let s0 := useCrane s q
      if x.unreadable k x.ep.active then
        walkEnd (putSet (bump s0 (rInEccStat q) 47 32 (x.badReads k x.ep.active)) n ((x.setCon k { c with visited := true, progress := false, cleared := false }).countSw
          fun r => { r with poisoned := r.poisoned + 1 })) n
      else if c.progress then
        let sl := sealOf n k (x.ep.step + 1) (x.slipBytes (!x.ep.active) k) (stageBytes x.sfmt c.stage)
        if sl = c.sealWord then
          walkEnd (putSet s0 n (((x.setCon k { c with visited := true, cleared := !c.selected || c.checked }).fold k true).countSw
            fun r => { r with cKept := r.cKept + 1 })) n
        else sweepOne s0 n k residue flips (x.setCon k { c with progress := false, cleared := false })
      else sweepOne s0 n k residue flips x

/-! ### Duplicate execution (R335, R336) -/

/-- Working width of a crane. -/
def craneWidth : Part → Nat
  | .z16 => 256
  | .z8 => 128

/-- The results of the elements of one lane position, in element order: slip bytes and staged code (R335). -/
def laneBytes (rule sfmt w p : Nat) (bs : List Byte) : List Byte :=
  let len := slipLen rule
  (List.range (4096 / w)).flatMap fun j =>
    let i := p + j * w
    [bs.getD (2 * i) 0, bs.getD (2 * i + 1) 0, bs.getD (8192 + i) 0] ++
    (if rule = rADW then [bs.getD (12416 + i) 0] else []) ++
    (if sfmt = fK4 then
       [BitVec.ofNat 8 ((bs.getD (len + i / 2) 0).toNat / (if i % 2 = 0 then 1 else 16) % 16)]
     else [bs.getD (len + i) 0])

/-- Lane positions whose seals differ between two results. -/
def laneDiffs (part : Part) (x : Pset) (a b : List Byte) : List Nat :=
  (List.range (craneWidth part)).filter fun p =>
    decide (Config.laneSeal (laneBytes x.consts.rule x.sfmt (craneWidth part) p a) ≠
      Config.laneSeal (laneBytes x.consts.rule x.sfmt (craneWidth part) p b))

/-- The physical lane that carries a position: its own, or the spare that replaced it when the walk started; without a
spare, the next lane that works (R335, R348; log entry 18). -/
def physLane (part : Part) (out : List (Nat × Nat)) (q p : Nat) : Nat :=
  let w := craneWidth part
  let mine := (out.filter (·.1 == q)).map (·.2)
  if p ∉ mine then p
  else
    let spares := (upFrom w (craneSpares part)).filter fun l => l ∉ mine
    match spares[((mine.filter (· < w)).takeWhile (· != p)).length]? with
    | some l => l
    | none => ((upFrom (p + 1) w).find? fun l => (l % w) ∉ mine).getD p % w

/-- Charges a seal difference to the lanes of a quay (R336). -/
def chargeLanes (s : State) (q : Nat) (x : Pset) (k : Nat) (lanes : List Nat) : State :=
  escalate (lanes.foldl (fun s' p => charge s' (.lane q (physLane s.part x.sw.lanesOut q p)) 1 (x.inputHash k)) s) (.lane q 0)

/-- The consignment's written bytes. -/
def Pset.writtenBytes (x : Pset) (k : Nat) : List Byte :=
  x.slipBytes (!x.ep.active) k ++ stageBytes x.sfmt (x.con k).stage

/-- The third crane writes the consignment; a served one is recalled and reissued (R336, R340). One that nothing had written
yet is counted, with what its formation counts (`o`). -/
def thirdWrites (s : State) (n k : Nat) (x : Pset) (o : ConOut) (bs : List Byte) (replaces : Bool) : State :=
  let served := servedAhead s n k
  if served && decide (255 ≤ (x.con k).reissue) then checkStop s n k
  else
    let s1 := putSet s n ((if replaces then x.fold k false else x).setCon k { x.con k with progress := false, cleared := false })
    let s2 := modSet s1 n fun y => y.writeCon n k bs true
    let s3 := if served then
        modSet (withdraw s2 n k) n fun y => { y with
          held := true, heldTick := if y.held then y.heldTick else now s, heldRound := (y.ep.tround + 1) % 65536 }
      else s2
    if replaces then noteWritten s3 n k
    else afterWrite (noteFlush (modSet s3 n fun y => y.countSw (countCon o)) clCrane o.flush) n k

/-- Marks the check of a consignment as passed. -/
def passCheck (s : State) (n k : Nat) : State :=
  modSet s n fun x => x.setCon k { x.con k with progress := true, checked := true, cleared := true, visited := true }

/-- DUPLICATE_CHECK (R335, R336). `partner` and `third` are the silent errors of the two cranes that recompute; the quays of
the cranes that work are awake (R388). -/
def execDuplicateCheck (n k : Nat) (partner third : List Flip) (s : State) : Answer :=
  .next <| whole s fun s =>
  match setOf? s n with
  | none => s
  | some x0 =>
    let c := x0.con k
    if s.walk.set ≠ some n || x0.sw.phase != .walking || decide (x0.total ≤ k) || !hmRuns s ||
       !(c.residue || (c.visited && c.progress && c.selected && !c.checked)) then s
    else
      match x0.walkCon k with
      | none => s
      | some o =>
        let x := x0.countSw fun r => { r with cDup := r.cDup + 1 }
        let q := homeQuay s k
        let q1 := (q + 1) % quays s.part
        let s0 := putSet (useCrane (useCrane s q) q1) n x
        let wakeThird (s' : State) : State := useCrane s' ((q + 2) % quays s.part)
        let step := x.ep.step + 1
        let len := slipLen x.consts.rule
        let sealB := fun bs : List Byte => sealOf n k step (bs.take len) (bs.drop len)
        let pb := flipBytes (o.slip ++ o.stage) partner
        let tb := flipBytes (o.slip ++ o.stage) third
        if c.residue then
          if sealB pb = sealB tb then walkEnd (thirdWrites (wakeThird s0) n k x o tb false) n
          else
            checkStop (escalate (bump (putSet (wakeThird s0) n (x.countSw fun r => { r with cDetect := r.cDetect + 1 })) rInStat
              31 16 1) (.lane q 0)) n k
        else if sealB pb = c.sealWord then walkEnd (passCheck s0 n k) n
        else
          let y := x.countSw fun r => { r with cDetect := r.cDetect + 1 }
          let s1 := bump (putSet (wakeThird s0) n y) rInStat 31 16 1
          let lanes := laneDiffs s.part x (x.writtenBytes k) pb
          if sealB tb = c.sealWord then walkEnd (passCheck (chargeLanes s1 q1 y k lanes) n k) n
          else if sealB tb = sealB pb then walkEnd (thirdWrites (chargeLanes s1 q y k lanes) n k y o tb true) n
          else checkStop (escalate s1 (.lane q 0)) n k

/-- Whether the crane of quay q works in the walk that runs: it sweeps the consignments homed there, or recomputes those of its
neighbours that a duplicate or a third result is due of (R335, R336). -/
def craneWalks (s : State) (q : Nat) : Bool :=
  match s.walk.set with
  | none => false
  | some n =>
    match setOf? s n with
    | none => false
    | some x =>
      let N := quays s.part
      decide (q < x.total) || (List.range x.total).any fun k =>
        let c := x.con k
        ((k + 1) % N == q && (c.residue || (c.visited && c.progress && c.selected && !c.checked))) ||
        ((k + 2) % N == q && c.residue)

/-! ### Commit (R228, R229) -/

/-- What follows the epoch word of a commit (R228-R230). `x` is the set before it. -/
def afterCommit (s : State) (n : Nat) (x : Pset) : State :=
  let swept := match sweepCmd? s n with | some (_, r) => r.sent | none => 0
  let s2 := modSet s n fun y => y.mapCons fun c => { c with oldStage := [], reissueOld := c.reissue, reissue := 0 }
  let s3 := { s2 with integ := { s2.integ with commits := s2.integ.commits + 1 },
                      snap := { s2.snap with lastCommit := (n, x.ep.epoch + 1) } }
  let s4 := turnSet (releaseRound (exportCommit s3 n) n) n
  let sw := match setOf? s4 n with | some y => y.sw | none => x.sw
  let s5 := writeReport (commitDigest s4 n x) n { x with sw := sw } .commit
  judgeAll (endSweepCmd (freeCrane s5 n) n stDONE swept)

/-- The commit of a set: its epoch word, and what follows it (R228-R230). -/
def commitWalk (s : State) (n : Nat) (x : Pset) : State :=
  let l := lsCommit x.pr x.ep
  afterCommit (writeEpoch s n (fun e => { e with
    epoch := e.epoch + 1, step := e.step + 1, active := !e.active, tround := (e.tround + 1) % 65536, ls := l.1,
    clean := l.2 }) .commit) n x

/-- What follows the epoch word of a RESTORE: what waited for the release of the old round is performed, what was sent ahead is
forgotten, and each subscription pushes its range again (R357). -/
def afterRestore (s : State) (n : Nat) : State := (subsOf s n).foldl subInitial (dropAhead (performReleased s n) n)

/-- The actions that follow the write of an epoch word, by what the write does; LOSS_SCALE has none (R228). `x` is the set before
it. -/
def followEpoch (s : State) (n : Nat) (act : EpochAct) (x : Pset) : State :=
  match act with
  | .commit => afterCommit s n x
  | .skip => afterSkip s n x
  | .abandon => afterAbandon s n x
  | .release => releaseRound s n
  | .restore => afterRestore s n
  | .scale => s
  | .differ => afterDiffer s n x (match setOf? s n with | some y => y.ep.disputed && !x.ep.disputed | none => false)

/-- What a sweep or an exchange has had to leave for a sleeping quay or for halted cores is tried again: decisions, judgements
and the end of a walk (R388, R415). -/
def retrySweeps (s : State) : State :=
  if !hmRuns s then s
  else
    let s1 := s.cmd.running.foldl (fun s' e =>
      let n := e.2.pkt.at 64 2
      match e.2.phase, setOf? s' n with
      | .sweepNorm _, some x => if x.sw.phase = .decided then (attempt s' fun t => proceed t e.1 n).1 else s'
      | _, _ => s') s
    let s2 := judgeAll s1
    match s2.walk.set with
    | some n => walkEnd s2 n
    | none => s2

/-- COMMIT (R229). -/
def execCommit (n : Nat) (s : State) : Answer :=
  .next <| whole s fun s =>
  match setOf? s n with
  | none => s
  | some x =>
    if s.walk.set ≠ some n || x.sw.phase != .walking || !hmRuns s || x.sw.poisoned != 0 ||
       !((List.range x.total).all fun k => let c := x.con k; c.visited && c.progress && c.cleared) then s
    else
      commitWalk s n x

/-! ### The recall hold (R341) -/

/-- Ends a set's hold; ACTION 1 finalises as non-finite every tally manifest of the round that the hold keeps, those that open
later among them. -/
def endHold (s : State) (n : Nat) (nonfinite : Bool) : State :=
  match setOf? s n with
  | none => s
  | some x =>
    if !x.held then s
    else
      let s1 := putSet s n { x with held := false, nanRound := if nonfinite then some x.heldRound else x.nanRound }
      let mark (m : Manifest) : Manifest :=
        if m.kind = 1 ∧ m.pset = n ∧ (m.state = .opened ∨ m.state = .finalising) then { m with nonfiniteFinal := true } else m
      if nonfinite then
        { s1 with land := { s1.land with
          mans := s1.land.mans.map fun e => (e.1, mark e.2), finalising := s1.land.finalising.map fun e => (e.1, mark e.2) } }
      else s1

/-- RECALL_HOLD_TIMEOUT (R341). -/
def execRecallHoldTimeout (n : Nat) (s : State) : Answer :=
  .next <|
  match setOf? s n with
  | none => s
  | some x =>
    if clocksRun s && x.held && fld s rInCheckCfg 63 40 != 0 && expired s x.heldTick (fld s rInCheckCfg 63 40 * 1024) then endHold s n true else s

end Sys2Proof.Machine
end

