-- ==== Sys2Proof/Machine/Sets.lean ====
section
/-!
DEFINITION. Parameter sets as objects: PSET_CREATE (R262, R263), PSET_DESTROY (R264), PSET_CONST (R239) and PSET_QUERY
(R265).
-/
namespace Sys2Proof.Machine

open Sys2Proof

/-! ### Rule constants (R239, Tables 12-2 and 12-6) -/

/-- The constants block at bytes 66-111 of a packet. -/
def constsOf (p : CmdPkt) : Consts :=
  let f (off : Nat) : F32 := BitVec.ofNat 32 (p.at off 4)
  { rule := p.at 66 1, nesterov := bit (p.at 67 1) 0, noBias := bit (p.at 67 1) 1, mstoch := bit (p.at 67 1) 2,
    beta1 := f 68, beta2 := f 72, eps := f 76, lambda := f 80, maxnorm := f 84, delta := f 88, pivot := f 92 }

/-- Whether a constant lies outside [0, 1). -/
def outsideUnit (x : F32) : Bool :=
  let v := ofF32 x
  !v.isFinite || (v.isNeg && !v.isZero) || !v.lt .one

/-- Whether a constant is not positive and finite. -/
def notPositive (x : F32) : Bool :=
  let v := ofF32 x
  !v.isFinite || v.isZero || v.isNeg

/-- Whether λ is negative or non-finite. -/
def badLambda (x : F32) : Bool :=
  let v := ofF32 x
  !v.isFinite || (v.isNeg && !v.isZero)

/-- Whether MAXNORM is not positive; +∞ is allowed. -/
def badMaxnorm (x : F32) : Bool :=
  let v := ofF32 x
  v.isNan || v.isZero || v.isNeg

/-- BAD_PARAM faults of a constants block under a rule of 1-4: fields that the rule does not read are ignored. -/
def constFaults (rule : Nat) (k : Consts) : List (Bool × Nat) :=
  [(outsideUnit k.beta1, 8),
   (rule != rMOM && outsideUnit k.beta2, 9),
   ((rule == rADW || rule == rTPC) && notPositive k.eps, 9),
   (badLambda k.lambda || badMaxnorm k.maxnorm, 10),
   (rule == rTPC && (notPositive k.delta || outsideUnit k.pivot), 11)]

/-! ### Tensor tables (Table 13-2) -/

/-- The entry of 128 bits. -/
def tensorOfBits (v : Nat) : TensorEnt :=
  { elements := bits v 39 0, tensorId := bits v 55 40, noDecay := bit v 56, tiled := bit v 57, cols := bits v 87 64,
    group := bits v 115 96 }

/-- BAD_DESCRIPTOR: a non-zero reserved bit. -/
def tensorStray (v : Nat) : Bool := bits v 63 58 != 0 || bits v 95 88 != 0 || bits v 127 116 != 0

/-- BAD_PARAM of an entry. With GROUPS 0 no group number is at fault: the command completes with DONE_EMPTY (R86, R262). -/
def tensorFault (rule groups : Nat) (e : TensorEnt) : Bool :=
  (groups != 0 && decide (groups ≤ e.group)) || (e.cols != 0 && e.elements % e.cols != 0) ||
  (e.tiled && (rule != rTPC || e.cols == 0 || e.cols % 8 != 0 || e.elements % (8 * e.cols) != 0))

/-- The first readable entry that meets a condition. -/
def firstEntry (es : List (Option Nat)) (f : Nat → Bool) : Option Nat :=
  (es.zipIdx.find? fun e => match e.1 with | some v => f v | none => false).map (·.2)

/-! ### The arena (R263, Table 2-4) -/

/-- Rows of the address hash, of one chunk on each quay, that hold a set: every quay has room for the consignments homed on it
(R15), beside the epoch word, the group tables and what else the range holds. -/
def setRows (part : Part) (rule sfmt cons groups tensors : Nat) : Nat :=
  ceilDiv (ceilDiv cons (quays part) * conBytes rule sfmt) 512 +
  ceilDiv (32 + 16 * groups + (Config.arenaOverhead rule cons groups tensors).val) (512 * quays part)

/-- Bytes of a set's arena range, in whole chunks of 512: its rows, and one more because the range may begin within a row
(log entry 11). -/
def setBytes (part : Part) (rule sfmt cons groups tensors : Nat) : Nat :=
  (setRows part rule sfmt cons groups tensors + 1) * (512 * quays part)

/-- The first chunk from an address on that is homed on quay q. -/
def firstOnQuay (s : State) (q a : Nat) : Option Nat :=
  let a0 := ceilDiv a 512 * 512
  ((List.range (2 * quays s.part)).find? fun i => quayOf s.part (a0 + 512 * i) == some q).map fun i => a0 + 512 * i

/-- The lowest free range of the arena that holds set number `p` in `n` bytes: its epoch word stands at its start, homed on quay
p mod N (R210, R263). -/
def arenaPlace (s : State) (p n : Nat) : Option Nat :=
  let starts := (arenaBase s :: (s.sets.map fun e => e.2.base + e.2.length).filter (fun a => decide (arenaBase s ≤ a))).filterMap
    (firstOnQuay s (p % quays s.part))
  let fits := starts.filter fun a => decide (a + n ≤ anchBase s) && !s.sets.any fun e => overlaps a n e.2.base e.2.length
  fits.foldl (fun b a => match b with | none => some a | some m => some (min m a)) none

/-- The settings that PSET_CREATE gives (Table 20-15). -/
def PsetRegs.created : PsetRegs :=
  { eta := 0, etaStaged := 0, etaStep := 0, etaHold := false, lmin := 0, lmax := 24, dynamic := true, g := 2000, root := 0,
    localOnly := true, d := 16, count := 1, self := 0, beacon := 0, digTimeout := 400, digest := 0, dstep := 0,
    pending := false, agreed := false, missing := false, differs := false, mismatches := 0, agreedStep := 0, pendTick := 0 }

/-- The epoch word at creation (R263). -/
def Epoch.created : Epoch :=
  { epoch := 0, step := 0, active := false, expelled := false, disputed := false, ls := 16, clean := 0, tround := 0,
    skips := 0, seq := 0 }

/-- A set at creation (R263). -/
def Pset.created (k : Consts) (sfmt smargin : Nat) (sround : Bool) (tensors : List TensorEnt) (groups base length : Nat) :
    Pset :=
  { consts := k, sfmt := sfmt, smargin := smargin, sround := sround, tensors := tensors, groups := groups, lazy := [],
    last0 := [], last1 := [], base := base, length := length, ep := Epoch.created, sw := SweepRec.zero,
    pr := PsetRegs.created, cons := [], gradB := [], weightB := [], updateB := [], nonfinite := 0, digestSum := 0,
    dispStep := 0, held := false, heldTick := 0, heldRound := 0, nanRound := none, drops := 0, spills := 0 }

/-- HB_REPL_PEER of a set number reads zero while no set holds it, and at creation (Table 20-15). -/
def clearPeers (s : State) (n : Nat) : State :=
  (List.range 8).foldl (fun s' r => setRegW s' (rHbReplPeer (n * 8 + r)) 0) s

/-! ### PSET_CREATE -/

def psetCreateLayout : List Named :=
  [(8, 15, 0), (8, 23, 16), (8, 27, 24), (8, 63, 32), (9, 63, 0), (10, 63, 0), (11, 63, 0), (12, 43, 0), (14, 7, 0),
   (14, 9, 8), (14, 16, 16), (14, 63, 32), (15, 43, 0)]

/-- The tensor table of a packet: where it is formed, its entries. -/
structure TensorTab where
  state : State
  entries : List (Option Nat)
  bad : Bool

/-- Reads the tensor table, unless it leaves its region. -/
def readTensors (s : State) (p : CmdPkt) : TensorTab :=
  let a := p.at 120 8 % 2 ^ 44
  let n := p.at 64 2
  if badSource s a (16 * n) then { state := s, entries := [], bad := false }
  else
    let r := readTable s a (16 * n)
    { state := r.1, entries := tableEntries r.2 16 n, bad := tableBad r.2 }

/-- The readable entries of a table. -/
def TensorTab.tensors (t : TensorTab) : List TensorEnt := t.entries.map fun e => tensorOfBits (e.getD 0)

/-- The lowest free parameter set number. -/
def freeSet (s : State) : Option Nat := (List.range 64).find? fun n => (setOf? s n).isNone

/-- Bytes of the arena range of a packet's set. -/
def createBytes (s : State) (p : CmdPkt) (t : TensorTab) : Nat :=
  setBytes s.part (p.at 66 1) (p.at 112 1) (t.tensors.foldl (fun n e => n + e.cons) 0) (p.at 116 4) (p.at 64 2)

/-- The arena range that a packet's set would take, where every entry of its table can be read; with no number free, that of
any set. -/
def createPlace (s : State) (p : CmdPkt) (t : TensorTab) : Option Nat :=
  arenaPlace s ((freeSet s).getD 0) (createBytes s p t)

/-- Whether the table as a whole is at fault: it leaves its region, is misaligned, spells too many consignments or finds no
room. -/
def tableFault (s : State) (p : CmdPkt) (t : TensorTab) : Bool :=
  badSource s (p.at 120 8 % 2 ^ 44) (16 * p.at 64 2) ||
  (!t.bad && p.at 64 2 != 0 && p.at 116 4 != 0 &&
    (decide (2 ^ 26 < t.tensors.foldl (fun n e => n + e.cons) 0) || (createPlace s p t).isNone))

/-- The journal entries of a set number that is freed or taken anew are of no set any more (R228). -/
def dropJournal (s : State) (n : Nat) : State :=
  { s with boot := { s.boot with journal := s.boot.journal.filter fun e => e.pset != n } }

/-- Creates the set of a packet whose checks have passed. -/
def createSet (s : State) (cx : Nat) (p : CmdPkt) (t : TensorTab) : State :=
  match freeSet s, createPlace s p t with
  | some n, some base =>
    let x := Pset.created (constsOf p) (p.at 112 1) (p.at 113 1 % 4) (bit (p.at 114 1) 0) t.tensors (p.at 116 4) base
      (createBytes s p t)
    complete (clearPeers (dropJournal (putSet s n x) n) n) cx stDONE n
  | _, _ => complete s cx stFULL 0

/-- PSET_CREATE (R262, R263). Where only the table at TLIST is at fault, RESULT is the first entry at fault. -/
def execPsetCreate (cx : Nat) (s : State) : Answer :=
  .next <| whole s fun s =>
  match turnOf s cx 0x0101 with
  | none => s
  | some r =>
    let p := r.pkt
    let rule := p.at 66 1
    let t := readTensors s p
    let entryBad := firstEntry t.entries fun v => tensorFault rule (p.at 116 4) (tensorOfBits v)
    let entryStray := firstEntry t.entries tensorStray
    let params := [(decide (4 < rule), 8)] ++ (if rule = 0 ∨ 4 < rule then [] else constFaults rule (constsOf p)) ++
      [((rule != 0 && p.at 112 1 != fE4M3 && p.at 112 1 != fK4) || decide (1048576 < p.at 116 4), 14),
       (entryBad.isSome || tableFault s p t, 15)]
    match checkFail p psetCreateLayout params [(entryStray.isSome, 15)] (readDenied s p (p.at 120 8 % 2 ^ 44) (16 * p.at 64 2)) with
    | some (st, f) =>
      let entry := if st = stBAD_PARAM then entryBad else if st = stBAD_DESCRIPTOR then entryStray else none
      settleTodo t.state [.fin cx st f (if f = 15 then entry.getD 0 else 0)]
    | none =>
      if p.at 64 2 = 0 ∨ p.at 116 4 = 0 then complete s cx stDONE_EMPTY 0
      else if t.bad then complete t.state cx stDATA_POISON 0
      else createSet t.state cx p t

/-! ### PSET_DESTROY -/

/-- Whether a set is in use (R264). -/
def setInUse (s : State) (cx n : Nat) (x : Pset) : Bool :=
  x.sw.phase != .idle ||
  [0x0401, 0x0402, 0x0304, 0x0503, 0x0901, 0x0902].any (fun op => runsOther s cx op fun q => q.at 64 2 == n) ||
  s.exp.subs.any (fun e => e.2.pset == n) ||
  s.land.mans.any (fun e => e.2.kind == 1 && e.2.pset == n && (e.2.state == .opened || e.2.state == .finalising)) ||
  s.land.finalising.any (fun e => e.2.pset == n)

/-- The bytes of a set's range are not cleared when it is destroyed (R264): they go on reading as they did. -/
def leaveBytes (s : State) (n : Nat) (x : Pset) : State :=
  (List.range (x.length / 32)).foldl (fun s' i =>
    storeRaw s' (x.base + 32 * i) (rangeGrain s n x (x.base + 32 * i) (32 * i)).word) s

/-- Frees a set's number and range. -/
def destroySet (s0 : State) (n : Nat) : State :=
  let s := match setOf? s0 n with | some x => leaveBytes s0 n x | none => s0
  clearPeers (dropJournal { s with
    sets := terase s.sets n,
    exp := { s.exp with contexts := s.exp.contexts.filter (· != n) },
    land := { s.land with waitZero := s.land.waitZero.filter fun z => z.2.1 != n } } n) n

/-- PSET_DESTROY (R264). -/
def execPsetDestroy (cx : Nat) (s : State) : Answer :=
  .next <|
  match turnOf s cx 0x0102 with
  | none => s
  | some r =>
    let n := r.pkt.at 64 2
    match checkFail r.pkt [(8, 15, 0)] [((setOf? s n).isNone, 8)] [] false with
    | some (st, f) => completeBad s cx st f
    | none =>
      match setOf? s n with
      | none => s
      | some x => if setInUse s cx n x then complete s cx stBUSY 0 else complete (destroySet s n) cx stDONE 0

/-! ### PSET_CONST -/

def psetConstLayout : List Named :=
  [(8, 15, 0), (8, 23, 16), (8, 27, 24), (8, 63, 32), (9, 63, 0), (10, 63, 0), (11, 63, 0), (12, 43, 0)]

/-- The groups that a bitmap sets. -/
def lazyOf (groups : Nat) (bs : List (Option Byte)) : List Nat :=
  (bs.zipIdx.flatMap fun e => (List.range 8).filterMap fun i =>
    if bit ((e.1.getD 0).toNat) i then some (8 * e.2 + i) else none).filter fun g => decide (g < groups)

/-- PSET_CONST (R239). -/
def execPsetConst (cx : Nat) (s : State) : Answer :=
  .next <| whole s fun s =>
  match turnOf s cx 0x0103 with
  | none => s
  | some r =>
    let p := r.pkt
    let n := p.at 64 2
    let known := match setOf? s n with | some x => !x.isDispatch | none => false
    let rule := match setOf? s n with | some x => x.consts.rule | none => 0
    let groups := match setOf? s n with | some x => x.groups | none => 0
    let mapEn := bit (p.at 67 1) 3
    let map := p.at 96 8 % 2 ^ 44
    let params := [(!known || p.at 66 1 != rule, 8), (mapEn && leavesRegion s map (ceilDiv groups 8), 12)] ++
      (if known then constFaults rule (constsOf p) else [])
    match checkFail p psetConstLayout params [] (mapEn && readDenied s p map (ceilDiv groups 8)) with
    | some (st, f) => completeBad s cx st f
    | none =>
      match setOf? s n with
      | none => s
      | some x =>
        if x.sw.phase ≠ .idle then complete s cx stBUSY 0
        else
          let rd := if mapEn then readTable s map (ceilDiv groups 8) else (s, [])
          if tableBad rd.2 then complete rd.1 cx stDATA_POISON 0
          else
            complete (modSet rd.1 n fun y =>
              { y with consts := constsOf p, lazy := if mapEn then lazyOf groups rd.2 else y.lazy }) cx stDONE 0

/-! ### PSET_QUERY -/

/-- The 64 bytes of a query (R265). -/
def queryBytes (s : State) (n : Nat) (x : Pset) : List Byte :=
  epochBytes x.ep ++ leBytes 2 x.tensors.length ++ leBytes 1 x.consts.rule ++ leBytes 1 x.sfmt ++ leBytes 4 x.total ++
  leBytes 4 x.groups ++ leBytes 4 (s.exp.subs.filter fun e => e.2.pset == n).length ++ leBytes 8 x.base ++ leBytes 8 x.length

/-- PSET_QUERY (R265). -/
def execPsetQuery (cx : Nat) (s : State) : Answer :=
  .next <| whole s fun s =>
  match turnOf s cx 0x0106 with
  | none => s
  | some r =>
    let p := r.pkt
    let n := p.at 64 2
    let dst := p.at 72 8 % 2 ^ 44
    let params := [((setOf? s n).isNone, 8), (decide (dst % 32 ≠ 0) || !inSoftware s dst 64, 9)]
    match checkFail p [(8, 15, 0), (9, 43, 0)] params [] (!p.hasRight s rightWrite dst 64) with
    | some (st, f) => completeBad s cx st f
    | none =>
      match setOf? s n with
      | none => s
      | some x => complete (writeBytes s dst (queryBytes s n x)) cx stDONE 0

end Sys2Proof.Machine
end

