-- ==== Sys2Proof/Machine/Integrity.lean ====
section
/-!
DEFINITION. Silent-error defence by command: check fractions (R339), field tests and their packages (R344, R345), row repair
(R330), the scrubber and SCRUB_RANGE (R328, R329, R331).
-/
namespace Sys2Proof.Machine

open Sys2Proof

/-! ### CHECK_FRACTION -/

/-- CHECK_FRACTION (R339). It ends a running escalation. -/
def execCheckFraction (cx : Nat) (s : State) : Answer :=
  .next <|
  match turnOf s cx 0x0801 with
  | none => s
  | some r =>
    let c := r.pkt.at 64 1
    let b := r.pkt.at 65 1
    match checkFail r.pkt [(8, 15, 0)] [(decide (5 < c) || decide (5 < b), 8)] [] false with
    | some (st, f) => completeBad s cx st f
    | none =>
      let s1 := setFld (setFld s rInCheckCfg 2 0 c) rInCheckCfg 6 4 b
      complete { s1 with integ := { s1.integ with escWalks := 0, escBerth := [] } } cx stDONE 0

/-! ### FIELD_TEST -/

/-- Crane lanes of a quay, spare lanes included (Table 0-1, R346). -/
def craneLanes : Part → Nat
  | .z16 => 272
  | .z8 => 136

/-- The units of a quay that a test covers: lanes, or the units of banks in MEMORY mode. -/
def testedUnits (s : State) (kind q : Nat) : List Nat :=
  if kind = 0 then List.range (craneLanes s.part)
  else (List.range 1024).filter fun b => !(bankOf s (q * 1024 + b)).compute

/-- The unit that a number names on a quay. -/
def testUnit (kind q u : Nat) : UnitId := if kind = 0 then .lane q u else .berth (q * 1024 + u)

/-- What a field test runs with: the package of its slot, or none with PACKAGE 0; TEST; the check seed in force when it started;
and what the hardware gives. -/
structure TestRun where
  kind : Nat
  package : Option (List Byte)
  test : Nat
  seed : BitVec 128
  errors : List TestError
  deriving DecidableEq, Repr

/-- The operands of a round (R344, Table 8-3): the package, or 256 draws of purpose 0x12 (log entry 13). -/
def TestRun.operands (t : TestRun) (round : Nat) : List Byte :=
  match t.package with
  | some bs => bs
  | none => (List.range 256).flatMap fun d => leBytes 16 (kewen (kwCounter t.test round 0 0x12 d) t.seed).toNat

/-- The seal that a unit gives in a round. -/
def TestRun.unitSeal (t : TestRun) (round q u : Nat) : BitVec 16 :=
  Config.testSeal t.kind (t.operands round) ^^^
    (match t.errors.find? fun e => e.round == round && e.quay == q && e.unit == u with | some e => e.err | none => 0)

/-- Whether a seal is in the minority among those of its quay and of the partner quay. -/
def inMinority (l : List (BitVec 16)) (v : BitVec 16) : Bool := decide (2 * (l.filter (· == v)).length < l.length)

/-- The units of a quay that fail a round: in the minority, or other than the package's expected seal. -/
def TestRun.failing (t : TestRun) (s : State) (q round : Nat) : List Nat :=
  let seals (q' : Nat) : List (BitVec 16) := (testedUnits s t.kind q').map (t.unitSeal round q')
  match t.package with
  | some bs => (testedUnits s t.kind q).filter fun u => t.unitSeal round q u != Config.packageSeal bs
  | none =>
    let l := seals q ++ seals ((q + 1) % quays s.part)
    (testedUnits s t.kind q).filter fun u => inMinority l (t.unitSeal round q u)

/-- The low word of the CRC-64 of a round's operands (R346). -/
def TestRun.hash (t : TestRun) (round : Nat) : BitVec 32 := (crc64 (t.operands round)).setWidth 32

/-- Charges one detection for a round to each unit that fails it. -/
def TestRun.charge (t : TestRun) (q round : Nat) (us : List Nat) (s : State) : State :=
  us.foldl (fun s' u => detect s' (testUnit t.kind q u) (if t.package.isNone then 2 else 3) (t.hash round)) s

/-- The rounds of a quay's test: the state they leave and the units that failed one of them, in increasing number. -/
def TestRun.rounds (t : TestRun) (s : State) (q n : Nat) : State × List Nat :=
  let fs := (List.range n).map fun r => (r, t.failing s q r)
  (fs.foldl (fun s' f => t.charge q f.1 f.2 s') s,
    (testedUnits s t.kind q).filter fun u => fs.any fun f => f.2.contains u)

/-- One quay's test: its record and its failing units. With no failing unit, bytes 8-11 of the record are free (log
entry 13). -/
def testQuay (t : TestRun) (n : Nat) (a : State × List Byte × Nat) (q : Nat) : State × List Byte × Nat :=
  let s := rouse (wakeQuay a.1 q) (if t.kind = 0 then q else 0x20 + q)
  let r := t.rounds s q n
  let first : State × List Byte :=
    match r.2 with
    | u :: _ => (r.1, leBytes 4 (if t.kind = 0 then u else q * 1024 + u))
    | [] => drawBytes 4 r.1
  (first.1, a.2.1 ++ leBytes 4 (testedUnits s t.kind q).length ++ leBytes 4 r.2.length ++ first.2 ++ leBytes 20 0,
    a.2.2 + r.2.length)

/-- Whether a berth test on quay q waits for a permit: each unit that it covers takes one in turn, behind the banks that wait
already (R311, R344). -/
def testWaits (s : State) (q : Nat) : Bool :=
  let p := permitsOf s q
  (decide (p.pool ≤ p.holders.length) || !p.waiting.isEmpty) && !(testedUnits s 1 q).isEmpty

/-- FIELD_TEST (R344). -/
def execFieldTest (cx : Nat) (errors : List TestError) (s : State) : Answer :=
  .next <| whole s fun s =>
  match turnOf s cx 0x0802 with
  | none => s
  | some r =>
    let p := r.pkt
    let kind := p.at 64 1
    let pkg := p.at 65 1
    let qs := maskBits (p.at 66 2) 16
    let dst := p.at 80 8 % 2 ^ 44
    let n := 32 * qs.length
    let params :=
      [(decide (1 < kind) || (pkg != 0 && (tget? s.integ.packages pkg).isNone) || qs.any (fun q => decide (quays s.part ≤ q)), 8),
       (decide (dst % 32 ≠ 0) || leavesRegion s dst n, 10)]
    match checkFail p [(8, 63, 0), (9, 15, 0), (10, 43, 0)] params [] (writeDenied s p dst n) with
    | some (st, f) => completeBad s cx st f
    | none =>
      if p.at 68 4 = 0 then complete s cx stDONE_EMPTY 0
      else if kind = 0 ∧ qs.any (craneWalks s) then complete s cx stBUSY 0
      else if kind = 1 ∧ qs.any (testWaits s) then s
      else
        let t : TestRun :=
          { kind := kind, package := if pkg = 0 then none else some (tget s.integ.packages pkg []), test := p.at 72 2,
            seed := r.cseed, errors := errors }
        let a := qs.foldl (testQuay t (p.at 68 4)) (s, [], 0)
        complete (writeBytes a.1 dst a.2.1) cx stDONE a.2.2

/-! ### PATTERN_LOAD -/

/-- Whether a package passes the checks of R345. -/
def packageOk (bs : List Byte) : Bool :=
  let n := bs.length
  let pub := (bs.drop (n - 193)).take 97
  decide (64 + 193 ≤ n) && fieldAt bs 4 4 == n && Config.sha384 pub == Config.packageKeyHash &&
    Config.ecdsaOk pub (bs.drop (n - 96)) (bs.take (n - 96)) && Config.packageKindOk bs

/-- PATTERN_LOAD (R345). -/
def execPatternLoad (cx : Nat) (s : State) : Answer :=
  .next <| whole s fun s =>
  match turnOf s cx 0x0803 with
  | none => s
  | some r =>
    let p := r.pkt
    let slot := p.at 64 1
    let src := p.at 72 8 % 2 ^ 44
    let n := p.at 80 4
    let params := [(slot == 0 || decide (4 < slot), 8), (badSource s src n, 9), (decide (1048576 < n), 10)]
    match checkFail p [(8, 7, 0), (9, 43, 0), (10, 31, 0)] params [] (readDenied s p src n) with
    | some (st, f) => completeBad s cx st f
    | none =>
      if n = 0 then complete s cx stDONE_EMPTY 0
      else
        let rd := readTable s src n
        let bs := rd.2.map (·.getD 0)
        if tableBad rd.2 then complete rd.1 cx stDATA_POISON 0
        else if packageOk bs then
          complete { rd.1 with integ := { rd.1.integ with packages := tset rd.1.integ.packages slot bs } } cx stDONE 0
        else complete rd.1 cx stDENIED 0

/-! ### ROW_REPAIR -/

/-- Home addresses of the 64 grains of a row (R328). -/
def rowGrains (s : State) (b row : Nat) : List Nat := (List.range 64).map fun i => bankAddr s.part b (row * 2048 + 32 * i)

/-- Copies a grain to the spare row: a scrub-mode read (R326, R330). -/
def copyGrain (s : State) (home : Nat) : State :=
  let w := storedWord s home
  match classify true (tget s.chk home 0) with
  | .clean => s
  | .corrected m => noteCorrection (bump (storeRaw s home (codewordOf (w.data ^^^ m))) (eccEntry s home) 15 0 1) home
  | .uncorrectable => recordBad (bumpMirror (storeRaw s home (poisonOf w.data)) (eccEntry s home) 31 16 1) home
  | .poison => bump s (eccEntry s home) 47 32 1

/-- The started command that a row of two steps acts on: at its start, or in its later phase. -/
def turnIn (s : State) (cx op : Nat) (later : Phase → Bool) : Option Running :=
  match cmdOf? s cx with
  | none => none
  | some r => if r.pkt.opcode = op ∧ later r.phase then (if r.fast ∨ hmRuns s then some r else none) else turnOf s cx op

/-- The row has been copied and the map switches to the spare (R330). -/
def switchRow (s : State) (b row : Nat) : State :=
  let l := tget s.integ.repaired b []
  let s1 := (rowGrains s b row).foldl copyGrain (wakeQuay s (b / 1024))
  { s1 with integ := { s1.integ with repaired := tset s1.integ.repaired b (l ++ [row]) } }

/-- ROW_REPAIR (R330): at its start it is checked and the copy begins; then the copy ends and the map switches. -/
def execRowRepair (cx : Nat) (s : State) : Answer :=
  .next <| whole s fun s =>
  match turnIn s cx 0x0804 (· == .repair) with
  | none => s
  | some r =>
    let p := r.pkt
    let b := p.at 64 2 % 16384
    let row := p.at 68 4
    let l := tget s.integ.repaired b []
    let full := decide (32 ≤ l.length)
    if r.phase = .repair then
      if full then complete s cx stDONE 0xFFFFFFFFFFFFFFFF else complete (switchRow s b row) cx stDONE (31 - l.length)
    else
    match checkFail p [(8, 13, 0), (8, 63, 32)] [(decide (banksOf s.part ≤ b) || decide (49151 < row), 8)] [] false with
    | some (st, f) => completeBad s cx st f
    | none =>
      if bankRuns s b then complete s cx stBUSY 0
      else
        if full then complete s cx stDONE 0xFFFFFFFFFFFFFFFF
        else putCmd s cx { r with phase := .repair }

/-! ### The scrubber (R328, R329) -/

/-- What scrubbing does to a grain. -/
inductive Scrubbed where
  | kept
  | corrected
  | poisoned
  deriving DecidableEq, Repr

/-- Scrubs one grain: only a grain whose check symbols differ from the right ones can change. -/
def scrubGrain (s : State) (home : Nat) : State × Scrubbed :=
  let w := storedWord s home
  match classify true (tget s.chk home 0) with
  | .corrected m =>
    (noteCorrection (bump (storeRaw s home (codewordOf (w.data ^^^ m))) (eccEntry s home) 15 0 1) home, .corrected)
  | .uncorrectable =>
    (recordBad (bumpMirror (storeRaw s home (poisonOf w.data)) (eccEntry s home) 63 48 1) home, .poisoned)
  | _ => (s, .kept)

/-- The next visit in order, r × 1024 + bank, as QY_SCRUB_CFG.ROW holds it. -/
def scrubPos (s : State) (q : Nat) : Nat := fld s (rQyScrubCfg q) 57 32

/-- Visits of a full pass. -/
def scrubVisits : Nat := 49152 * 1024

/-- The banks of a quay that the scrubber has passed over in its row. -/
def scrubSkipped (s : State) (q : Nat) : List Nat := s.integ.skipped.filter fun b => b / 1024 == q

/-- The row that passed-over banks are due in: the row of the next visit, or the one before it when a new row would begin. -/
def scrubRow (s : State) (q : Nat) : Nat :=
  let p := scrubPos s q
  if p % 1024 = 0 then (p + scrubVisits - 1) % scrubVisits / 1024 else p / 1024

/-- The visit that comes next: a passed-over bank that is no longer busy comes first, and no new row begins while one is
left (R329). -/
inductive ScrubNext where
  | due (b row : Nat)
  | inOrder (b row : Nat)
  | waits
  deriving DecidableEq, Repr

def scrubNext (s : State) (q : Nat) : ScrubNext :=
  let p := scrubPos s q
  match (scrubSkipped s q).find? fun b => !bankRuns s b with
  | some b => .due b (scrubRow s q)
  | none => if p % 1024 = 0 ∧ scrubSkipped s q ≠ [] then .waits else .inOrder (q * 1024 + p % 1024) (p / 1024)

/-- A full pass is complete: it is counted, and corrections are counted anew (R330). -/
def scrubPass (s : State) (q : Nat) : State :=
  if scrubPos s q = 0 ∧ scrubSkipped s q = [] then
    let s1 := bump s (rQyScrubCfg q) 31 16 1
    { s1 with integ := { s1.integ with rowCorr := s1.integ.rowCorr.filter fun e => e.1 / 65536 / 1024 != q } }
  else s

/-- Scrubs a row of a bank. -/
def scrubBankRow (s : State) (b row : Nat) : State := (rowGrains s b row).foldl (fun s' a => (scrubGrain s' a).1) s

/-- SCRUB_ROW_VISIT of quay q (R328, R329). -/
def execScrubRowVisit (q : Nat) (s : State) : Answer :=
  .next <|
  if quays s.part ≤ q ∨ fld s (rQyScrubCfg q) 15 0 = 0 ∨ q ∈ s.pow.doze ∨ q ∈ s.pow.waking ∨ s.pow.harbour ≠ .active then s
  else
    match scrubNext s q with
    | .waits => s
    | .due b row =>
      let s1 := scrubBankRow s b row
      scrubPass { s1 with integ := { s1.integ with skipped := s1.integ.skipped.erase b } } q
    | .inOrder b row =>
      let s1 := if bankRuns s b then { s with integ := { s.integ with skipped := s.integ.skipped ++ [b] } }
        else scrubBankRow s b row
      scrubPass (setFld s1 (rQyScrubCfg q) 57 32 ((scrubPos s q + 1) % scrubVisits)) q

/-! ### SCRUB_RANGE -/

/-- Whether a range may be scrubbed: interleaved DRAM, the data part of the aperture, or one quay SRAM window. -/
def scrubbable (s : State) (a n : Nat) : Bool :=
  match regionOfRange s.part a n with
  | some .dram | some .aperture => true
  | some .qsram => decide ((a - qsramBase) % 0x3000000 + n ≤ 0x3000000)
  | _ => false

/-- Whether a home address lies in a range of one of the two views. -/
def homeIn (s : State) (a n home : Nat) : Bool :=
  if inRegion s.part a .aperture then
    inRegion s.part home .dram && decide (a ≤ toAperture s.part home ∧ toAperture s.part home < a + n)
  else decide (a ≤ home ∧ home < a + n)

/-- Scrubs a range: grains corrected and grains poisoned. Grains that hold right codewords are left as they are. -/
def scrubRange (s : State) (a n : Nat) : State × Nat × Nat :=
  ((s.chk.map (·.1)).filter (homeIn s a n)).foldl (fun (r : State × Nat × Nat) h =>
    let g := scrubGrain r.1 h
    (g.1, r.2.1 + b2n (g.2 == .corrected), r.2.2 + b2n (g.2 == .poisoned))) (s, 0, 0)

/-- Whether a grain of a range lies in a declared write region of a busy bank (R312, R331). -/
def scrubBlocked (s : State) (a n : Nat) : Bool :=
  !s.berth.banks.isEmpty && (grainsOf a n).any fun g =>
    inRegion s.part (homeAddr s.part g) .dram &&
      bankRuns s (bankPlace s.part (homeAddr s.part g)).1 &&
      regionMeets s (bankPlace s.part (homeAddr s.part g)).1 (bankPlace s.part (homeAddr s.part g)).2 32

/-- A range reaches the quays that hold it (R388). -/
def wakeRange (s : State) (a n : Nat) : State :=
  if s.pow.doze.isEmpty && s.pow.waking.isEmpty then s else (grainsOf a n).foldl (fun s' g => startWake s' (homeAddr s.part g)) s

/-- SCRUB_RANGE (R331). It waits while a grain of the range lies in a declared write region of a busy bank. -/
def execScrubRange (cx : Nat) (s : State) : Answer :=
  .next <| whole s fun s =>
  match turnOf s cx 0x0805 with
  | none => s
  | some r =>
    let p := r.pkt
    let a := p.at 72 8 % 2 ^ 44
    let n := p.at 80 8 % 2 ^ 44
    let params := [(decide (a % 32 ≠ 0) || !scrubbable s a n, 9), (decide (n % 32 ≠ 0), 10)]
    match checkFail p [(9, 43, 0), (10, 43, 0)] params [] (readDenied s p a n) with
    | some (st, f) => completeBad s cx st f
    | none =>
      if n = 0 then complete s cx stDONE_EMPTY 0
      else if scrubBlocked s a n then s
      else
        let s1 := wakeRange s a n
        let x := scrubRange s1 a n
        complete x.1 cx stDONE (x.2.1 % 4294967296 + x.2.2 % 4294967296 * 4294967296)

end Sys2Proof.Machine
end

