-- ==== Sys2Proof/Machine/Continuity.lean ====
section
/-!
DEFINITION. Checkpoint records and what writes and reads them (R352-R361, R368, R433), weight digests by command (R363), and
snapshots with the pilot messages that carry them (R63, R167, R277, R369-R371).
-/
namespace Sys2Proof.Machine

open Sys2Proof

/-! ### Records (R352) -/

/-- The header grain of a record (Table 17-1). -/
def recHeader (type rule tensor first n mtch pset epoch digest : Nat) : Grain :=
  bytesGrain (leBytes 1 type ++ leBytes 1 rule ++ leBytes 2 tensor ++ leBytes 5 first ++ leBytes 2 n ++ leBytes 1 mtch ++
    leBytes 2 pset ++ leBytes 2 0 ++ leBytes 8 epoch ++ leBytes 8 digest)

/-- Bytes of the body of a TYPE 1 record. -/
def conBody (rule : Nat) : Nat := if rule = 0 then 16384 else slipLen rule

/-- The grains of bytes; those whose number is in `bad` become poison with zero data symbols (R327, R355). -/
def bodyWords (bs : List Byte) (bad : List Nat) : List Codeword :=
  (toGrains (bs.length / 32) bs).zipIdx.map fun g => if g.2 ∈ bad then poisonOf 0 else codewordOf g.1

/-- Poisoned grains that a command reads of consignments are counted at their quays (R326). -/
def countPoison (s : State) (grains : Nat → Nat) (ks : List Nat) : State :=
  ks.foldl (fun s' k => bump s' (rInEccStat (homeQuay s' k)) 47 32 (grains k)) s

/-- The quays of consignments are reached (R388). -/
def reachQuays (s : State) (ks : List Nat) : State := ks.foldl (fun s' k => wakeQuay s' (homeQuay s' k)) s

/-- The bytes a TYPE 1 record holds: a slip of the consignment, or its residuals. -/
def Pset.conBytes (x : Pset) (k : Nat) (slip : Bool) : List Byte :=
  if x.isDispatch then (tdense (x.con k).resid 0 4096 (fun _ => 0)).flatMap fun r => leBytes 4 r.toNat
  else x.slipBytes slip k

/-- Tensor, first element and element count that a record of consignment k names. -/
def Pset.recPlace (x : Pset) (k : Nat) : Nat × Nat × Nat :=
  match x.tensorOf k with
  | some (t, _, f) => (t, (k - f) * 4096, x.real k)
  | none => (0, 0, 0)

/-- The grains of consignment k that hold poison in a record's body: of a slip, or of the residuals (R355). -/
def Pset.recBad (x : Pset) (k : Nat) (slip : Bool) : List Nat := if x.isDispatch then (x.con k).badResid else (x.con k).bad slip

/-- The TYPE 1 record of consignment k, and whether it holds poison (R355, R433). -/
def conRecord (x : Pset) (n k : Nat) (slip : Bool) (seed : BitVec 128) : List Codeword × Bool :=
  let bad := x.recBad k slip
  let d := if x.isDispatch || !bad.isEmpty then 0 else (x.conDigest seed k slip).getD 0
  let pl := x.recPlace k
  (codewordOf (recHeader 1 x.consts.rule pl.1 pl.2.1 pl.2.2 0 n x.ep.epoch.toNat d) :: bodyWords (x.conBytes k slip) bad,
    !bad.isEmpty)

/-- The 46 bytes of constants (bytes 66-111 of Table 12-2). The map of LAZY groups is a local address, which no record
holds. -/
def constBytes (k : Consts) : List Byte :=
  leBytes 1 k.rule ++ leBytes 1 (b2n k.nesterov + 2 * b2n k.noBias + 4 * b2n k.mstoch) ++
  [k.beta1, k.beta2, k.eps, k.lambda, k.maxnorm, k.delta, k.pivot].flatMap (fun v => leBytes 4 v.toNat) ++ leBytes 16 0

/-- The set header record (Table 17-2). -/
def setRecord (x : Pset) (n : Nat) (slip : Bool) (seed : BitVec 128) : List Codeword :=
  let d := if x.isDispatch then 0 else (x.setDigest seed slip).getD 0
  let body := epochBytes x.ep ++ constBytes x.consts ++ leBytes 1 x.sfmt ++ leBytes 1 x.smargin ++ leBytes 1 (b2n x.sround) ++
    leBytes 3 0 ++ leBytes 4 x.groups ++ leBytes 4 x.total ++ leBytes 4 0
  codewordOf (recHeader 2 x.consts.rule x.tensors.length 0 0 0 n x.ep.epoch.toNat d) :: bodyWords body []

/-- One group record of groups first to first + m - 1. -/
def groupRecord (x : Pset) (n : Nat) (slip : Bool) (first m : Nat) : List Codeword :=
  let bs := (upFrom first m).flatMap fun g => let r := x.groupRec slip g; leBytes 4 r.1 ++ leBytes 4 r.2
  codewordOf (recHeader 3 x.consts.rule 0 first m 0 n x.ep.epoch.toNat 0) :: bodyWords (bs ++ leBytes (ceilDiv m 4 * 32 - 8 * m) 0) []

/-- Every group record, each covering up to 1024 groups (R353). -/
def groupRecords (x : Pset) (n : Nat) (slip : Bool) : List Codeword :=
  (List.range (ceilDiv x.groups 1024)).flatMap fun i => groupRecord x n slip (1024 * i) (min 1024 (x.groups - 1024 * i))

/-- Bytes of the records of R353. -/
def recordsSize (x : Pset) (hdr : Bool) (count : Nat) : Nat :=
  (if hdr then 128 + ceilDiv x.groups 1024 * 32 + ceilDiv x.groups 4 * 32 else 0) + count * (32 + conBody x.consts.rule)

/-- The records of R353 over a range, and how many hold poison. -/
def recordsOf (x : Pset) (n : Nat) (hdr : Bool) (first count : Nat) (seed : BitVec 128) : List Codeword × Nat :=
  let slip := x.ep.active
  let cs := (upFrom first count).map fun k => conRecord x n k slip seed
  ((if hdr then setRecord x n slip seed ++ groupRecords x n slip else []) ++ cs.flatMap (·.1), (cs.filter (·.2)).length)

/-! ### CHECKPOINT and SHARD_COPY -/

/-- The consignments that the records of R353 read: those of the range, and with a set header of a set with weights all, for its
DIGEST (R433). -/
def readCons (x : Pset) (hdr : Bool) (first count : Nat) : List Nat :=
  if hdr && !x.isDispatch then List.range x.total else upFrom first count

/-- The poisoned grains that they read of consignment k: what its record holds, or its weights alone. -/
def readBad (x : Pset) (first count k : Nat) : Nat :=
  if first ≤ k ∧ k < first + count then (x.recBad k x.ep.active).length
  else (((x.con k).bad x.ep.active).filter (· < 256)).length

/-- What the reads of R353 do: quays are reached (R388) and poison is counted (R326). -/
def readsOf (s : State) (x : Pset) (hdr : Bool) (first count : Nat) : State :=
  countPoison (reachQuays s (readCons x hdr first count)) (readBad x first count) (readCons x hdr first count)

/-- Whether a CHECKPOINT, SHARD_COPY or RESTORE of the set runs. -/
def copyRuns (s : State) (cx n : Nat) : Bool :=
  [0x0901, 0x0906, 0x0902].any fun op => runsOther s cx op fun q => q.at 64 2 == n

def checkpointLayout : List Named := [(8, 15, 0), (8, 16, 16), (8, 63, 32), (9, 31, 0), (10, 43, 0), (11, 63, 0)]

/-- CHECKPOINT (R353-R355). -/
def execCheckpoint (cx : Nat) (s : State) : Answer :=
  .next <| whole s fun s =>
  match turnOf s cx 0x0901 with
  | none => s
  | some r =>
    let p := r.pkt
    let n := p.at 64 2
    let hdr := bit (p.at 66 1) 0
    let first := p.at 68 4
    let count := p.at 72 4
    let dst := p.at 80 8 % 2 ^ 44
    let size := match setOf? s n with | some x => recordsSize x hdr count | none => 0
    let beyond := match setOf? s n with | some x => decide (x.total < first + count) | none => false
    let params := [((setOf? s n).isNone || beyond, 8), (decide (dst % 32 ≠ 0) || !inSoftware s dst size, 10),
      (decide (p.at 88 8 < size), 11)]
    match checkFail p checkpointLayout params [] (!p.hasRight s rightWrite dst size) with
    | some (st, f) => completeBad s cx st f
    | none =>
      match setOf? s n with
      | none => s
      | some x =>
        if count = 0 then complete s cx stDONE_EMPTY 0
        else if copyRuns s cx n then complete s cx stBUSY 0
        else
          let rs := recordsOf x n hdr first count r.seed
          let s1 := writeWords (readsOf s x hdr first count) dst rs.1
          if rs.2 = 0 then complete s1 cx stDONE (32 * rs.1.length) else complete s1 cx stDATA_POISON rs.2

def shardLayout : List Named :=
  [(8, 15, 0), (8, 16, 16), (8, 63, 32), (9, 31, 0), (10, 63, 0), (11, 63, 0), (12, 13, 0), (12, 15, 15), (12, 31, 16)]

/-- Sends records to another harbour as WRITE packets of at most 128 grains; `fuel` bounds the packets. -/
def sendShard : Nat → State → Nat → Nat → Nat → Option (Nat × Nat) → List Codeword → State
  | 0, s, _, _, _, _, _ => s
  | n + 1, s, cx, dest, a, man, ws =>
    if ws.isEmpty then s
    else
      let h := { newHdr s tyWRITE dest with
        target := a, source := cmdSource cx, len := (ws.take 128).length, manValid := man.isSome,
        manifest := (man.getD (0, 0)).1, gen := (man.getD (0, 0)).2 }
      sendShard n (sendCounted s { hdr := h, payload := ws.take 128 }) cx dest (a + 4096) man (ws.drop 128)

/-- SHARD_COPY (R368): every record of the set, to another harbour. FLAGS, FIRST and COUNT are not read. -/
def execShardCopy (cx : Nat) (s : State) : Answer :=
  .next <| whole s fun s =>
  match turnOf s cx 0x0906 with
  | none => s
  | some r =>
    let p := r.pkt
    let n := p.at 64 2
    let dst := p.at 80 8
    let size := match setOf? s n with | some x => recordsSize x true x.total | none => 0
    let badDst := match expPlace s dst with
      | .away _ a => regionOfRange s.part a size != some .dram
      | _ => true
    let params := [((setOf? s n).isNone, 8), (decide (dst % 32 ≠ 0) || badDst, 10), (decide (p.at 88 8 < size), 11)]
    match checkFail p shardLayout params [] (globalDenied s p dst size) with
    | some (st, f) => completeBad s cx st f
    | none =>
      match setOf? s n with
      | none => s
      | some x =>
        if copyRuns s cx n then complete s cx stBUSY 0
        else
          let rs := recordsOf x n true 0 x.total r.seed
          let man := if bit (p.at 96 2) 15 then some (p.at 96 2 % 16384, p.at 98 2) else none
          let s1 := sendShard (rs.1.length + 1) (readsOf s x true 0 x.total) cx (gaHarbour dst) (gaLocal dst) man rs.1
          awaitAcks s1 cx (if rs.2 = 0 then stDONE else stDATA_POISON) (32 * rs.1.length % 4294967296)

/-! ### DIGEST -/

/-- DIGEST (R363). -/
def execDigest (cx : Nat) (s : State) : Answer :=
  .next <| whole s fun s =>
  match turnOf s cx 0x0904 with
  | none => s
  | some r =>
    let n := r.pkt.at 64 2
    let bad := match setOf? s n with | some x => x.isDispatch | none => true
    match checkFail r.pkt [(8, 15, 0)] [(bad, 8)] [] false with
    | some (st, f) => completeBad s cx st f
    | none =>
      match setOf? s n with
      | none => s
      | some x =>
        let ks := List.range x.total
        let s1 := countPoison (reachQuays s ks) (fun k => (((x.con k).bad x.ep.active).filter (· < 256)).length) ks
        match x.setDigest r.seed x.ep.active with
        | some d => complete s1 cx stDONE d
        | none => complete s1 cx stDATA_POISON 0

/-! ### Reading records (R356) -/

/-- Fields of a record header. -/
structure RecHdr where
  type : Nat
  rule : Nat
  tensor : Nat
  first : Nat
  n : Nat
  mtch : Nat
  zero : Nat
  epoch : Nat
  digest : Nat
  deriving DecidableEq, Repr

def RecHdr.ofNat (v : Nat) : RecHdr :=
  { type := bits v 7 0, rule := bits v 15 8, tensor := bits v 31 16, first := bits v 71 32, n := bits v 87 72,
    mtch := bits v 95 88, zero := bits v 127 112, epoch := bits v 191 128, digest := bits v 255 192 }

/-- The consignment of the set that a TYPE 1 header names. -/
def Pset.namedCon (x : Pset) (h : RecHdr) : Option Nat :=
  match x.tensors[h.tensor]? with
  | none => none
  | some e =>
    let k := x.firstOf h.tensor + h.first / 4096
    if h.type = 1 ∧ h.rule = x.consts.rule ∧ h.first % 4096 = 0 ∧ h.first < e.elements ∧ h.n = x.real k ∧ h.mtch = 0 ∧
       h.zero = 0 then some k
    else none

/-- What has been read of a record sequence. -/
structure RecAcc where
  count : Nat                              -- records
  header : Option (List Byte × Nat)        -- body and DIGEST of the set header
  epoch : Nat                              -- EPOCH of the set header
  groups : List (Nat × Nat)                -- group records, in order
  cons : List (Nat × List Byte × Nat)      -- consignment, body and DIGEST, in order
  poison : Option Nat                      -- first record that holds poison
  deriving DecidableEq, Repr

def RecAcc.none0 : RecAcc := { count := 0, header := none, epoch := 0, groups := [], cons := [], poison := none }

/-- How reading ends: a record at fault, or what was read. -/
inductive RecRead where
  | fault (n : Nat)
  | done (a : RecAcc)
  deriving DecidableEq, Repr

/-- Notes a record, with whether it holds poison. -/
def RecAcc.next (a : RecAcc) (bad : Bool) : RecAcc :=
  { a with count := a.count + 1, poison := if bad ∧ a.poison.isNone then some a.count else a.poison }

/-- The constants of bytes 66-111 of a packet, or of a set header. -/
def constsAt (bs : List Byte) : Consts :=
  constsOf { win := 0, port := 0, seq := 0, stamp := 0, unlocked := false, bad := false, bytes := List.replicate 66 0 ++ bs }

/-- Whether the body of a set header agrees with the set. Constants that fail R239 are malformed. -/
def headerOk (x : Pset) (h : RecHdr) (bs : List (Option Byte)) : Bool :=
  let is (off n v : Nat) : Bool := match tableAt bs off n with | some w => w == v | none => true
  let k := constsAt (((bs.drop 32).take 46).map (·.getD 0))
  h.type == 2 && h.rule == x.consts.rule && h.tensor == x.tensors.length && h.n == 0 && h.mtch == 0 && h.zero == 0 &&
  is 0 8 h.epoch && is 32 1 x.consts.rule && is 78 1 x.sfmt && is 81 3 0 && is 84 4 x.groups && is 88 4 x.total && is 92 4 0 &&
  (x.isDispatch || tableBad (bs.drop 32) || !(constFaults x.consts.rule k).any (·.1))

/-- One record of a full sequence: its body length, and what it adds where it is the one expected (R357). Every record
carries one epoch (R354). -/
def expectFull (x : Pset) (a : RecAcc) (h : RecHdr) (rest : List (Option Byte)) : Option (Nat × RecAcc) :=
  let body (n : Nat) : List (Option Byte) := rest.take n
  let plain (n : Nat) : List Byte := (body n).map (·.getD 0)
  match a.header with
  | none => if headerOk x h (body 96) then some (96, { a with header := some (plain 96, h.digest), epoch := h.epoch }) else none
  | some _ =>
    if a.groups.length < x.groups then
      let n := ceilDiv h.n 4 * 32
      if h.type = 3 ∧ h.rule = x.consts.rule ∧ h.tensor = 0 ∧ h.first = a.groups.length ∧ 1 ≤ h.n ∧ h.n ≤ 1024 ∧
         a.groups.length + h.n ≤ x.groups ∧ h.mtch = 0 ∧ h.zero = 0 ∧ h.digest = 0 ∧
         h.epoch = a.epoch then
        some (n, { a with groups := a.groups ++ (List.range h.n).map fun i => (fieldAt (plain n) (8 * i) 4, fieldAt (plain n) (8 * i + 4) 4) })
      else none
    else
      match x.namedCon h with
      | some k =>
        let n := conBody x.consts.rule
        if k = a.cons.length ∧ h.epoch = a.epoch then some (n, { a with cons := a.cons ++ [(k, plain n, h.digest)] }) else none
      | none => none

/-- One record of a patch (R358). -/
def expectPatch (x : Pset) (a : RecAcc) (h : RecHdr) (rest : List (Option Byte)) : Option (Nat × RecAcc) :=
  match x.namedCon h with
  | some k =>
    let n := conBody x.consts.rule
    if h.epoch = x.ep.epoch.toNat then some (n, { a with cons := a.cons ++ [(k, (rest.take n).map (·.getD 0), h.digest)] }) else none
  | none => none

/-- Whether a full sequence is complete. -/
def fullComplete (x : Pset) (a : RecAcc) : Bool :=
  a.header.isSome && a.groups.length == x.groups && a.cons.length == x.total

/-- Reads records in order; `n` bounds them. A header that cannot be read ends the reading: what follows it cannot be
told. -/
def readRecords (x : Pset) (full : Bool) : Nat → List (Option Byte) → RecAcc → RecRead
  | 0, _, a => .done a
  | n + 1, bs, a =>
    if bs.isEmpty then (if full && !fullComplete x a then .fault a.count else .done a)
    else if full && fullComplete x a then .fault a.count
    else if bs.length < 32 then .fault a.count
    else
      match tableAt bs 0 32 with
      | none => .done (a.next true)
      | some v =>
        let rest := bs.drop 32
        match (if full then expectFull x a (.ofNat v) rest else expectPatch x a (.ofNat v) rest) with
        | none => .fault a.count
        | some (m, b) =>
          if rest.length < m then .fault a.count
          else readRecords x full n (rest.drop m) (b.next (tableBad (rest.take m)))

/-! ### RESTORE -/

/-- The digest of a restored consignment's weights; 0 for a dispatch set (R433). -/
def bodyDigest (x : Pset) (seed : BitVec 128) (k : Nat) (bs : List Byte) : Nat :=
  if x.isDispatch then 0
  else
    match x.tensorOf k with
    | some (_, e, f) => digestOf seed e.tensorId ((k - f) * 4096) (x.real k) (codes16 (bs.take 8192))
    | none => 0

/-- The first record whose digest differs (R356); 0 is the set header, whose digest is the sum. -/
def verifyFault (x : Pset) (seed : BitVec 128) (full : Bool) (a : RecAcc) : Option Nat :=
  let base := a.count - a.cons.length
  let ds := a.cons.map fun c => bodyDigest x seed c.1 c.2.1
  match ((a.cons.zip ds).zipIdx.find? fun e => e.1.1.2.2 != e.1.2).map (·.2) with
  | some i => some (base + i)
  | none =>
    match full, a.header with
    | true, some (_, d) => if ds.foldl (· + ·) 0 % 18446744073709551616 ≠ d then some 0 else none
    | _, _ => none

/-- Puts a body into a slip, or into the residuals of a dispatch set. -/
def Pset.putBody (x : Pset) (slip : Bool) (k : Nat) (bs : List Byte) : Pset :=
  if x.isDispatch then
    x.setCon k { x.con k with
      resid := tsparse ((List.range 4096).map fun i => (BitVec.ofNat 32 (fieldAt bs (4 * i) 4) : F32)) 0 (fun _ => 0)
      badResid := [] }
  else x.setCon k ((x.con k).putSlip x.consts.rule slip bs [])

/-- A consignment's record zeroed (R357). -/
def Consign.zeroRecord (c : Consign) : Consign :=
  { c with zeroed := [], tvalid := false, finalised := false, selected := false, checked := false, tround := 0, sealWord := 0,
           progress := false, cleared := false, visited := false, residue := false, reissue := 0, reissueOld := 0 }

/-- The set after steps 1 to 3 of R357. -/
def Pset.takeRecords (x : Pset) (a : RecAcc) (k : Consts) : Pset :=
  let slip := !x.ep.active
  let y := a.cons.foldl (fun y c => (y.putBody slip c.1 c.2.1)) x
  let z := (List.range x.total).foldl (fun z i => z.setCon i (z.con i).zeroRecord) y
  let t := tsparse a.groups 0 (fun _ => ((0, 0) : Nat × Nat))
  let z1 := if slip then { z with last1 := t } else { z with last0 := t }
  { z1 with consts := k, gradB := [], nonfinite := 0, sw := { z1.sw with report := none, tnorms := none } }

/-- The epoch word of a full restore (R357); LS is bits [4:0] of its byte (Table 11-1). -/
def restoredEpoch (bs : List Byte) (e : Epoch) : Epoch :=
  { e with epoch := BitVec.ofNat 64 (fieldAt bs 0 8), step := fieldAt bs 8 6, active := !e.active, expelled := false,
           disputed := false, ls := fieldAt bs 15 1 % 32, clean := fieldAt bs 16 2, tround := (e.tround + 1) % 65536,
           skips := fieldAt bs 20 4 }

/-- Restages a consignment of set n under the job seed and the FTZ bit in force when the command started (R266, R150, R160), and
counts what is flushed (R138). -/
def restageIn (ftz : Bool) (seed : BitVec 128) (n : Nat) (s : State) (k : Nat) : State :=
  match setOf? s n with
  | none => s
  | some x =>
    if x.isDispatch then s
    else
      let r := x.restageCon ftz seed k x.ep.epoch.toNat
      noteFlush (putSet s n r.1) clCrane r.2

/-- Applies a full restore (R357). -/
def applyFull (s : State) (ftz : Bool) (seed : BitVec 128) (n : Nat) (x : Pset) (a : RecAcc) : State :=
  match a.header with
  | none => s
  | some (bs, _) =>
    let k := constsAt ((bs.drop 32).take 46)
    let s1 := writeEpoch (putSet s n (x.takeRecords a k)) n (restoredEpoch bs) .restore
    let s2 := (List.range x.total).foldl (restageIn ftz seed n) s1
    afterRestore s2 n

/-- Applies a patch restore (R358). -/
def applyPatch (s : State) (ftz : Bool) (seed : BitVec 128) (n : Nat) (x : Pset) (a : RecAcc) : State :=
  a.cons.foldl (fun s' c => restageIn ftz seed n (modSet s' n fun y => y.putBody x.ep.active c.1 c.2.1) c.1) s

/-- Whether a full restore is BUSY (R357). -/
def fullBusy (s : State) (cx n : Nat) (x : Pset) : Bool :=
  x.sw.phase != .idle ||
  s.land.mans.any (fun e => e.2.kind == 1 && e.2.pset == n && (e.2.state == .opened || e.2.state == .finalising)) ||
  s.land.finalising.any (fun e => e.2.pset == n) ||
  [0x0503, 0x0901, 0x0906, 0x0904, 0x0903].any fun op => runsOther s cx op fun q => q.at 64 2 == n

/-- Whether a patch restore is BUSY (R358). -/
def patchBusy (s : State) (cx n : Nat) (x : Pset) (a : RecAcc) : Bool :=
  x.sw.phase == .normSent || x.sw.phase == .decided ||
  [0x0401, 0x0402].any (fun op => runsOther s cx op fun q => q.at 64 2 == n) ||
  (x.sw.phase == .walking && a.cons.any fun c => (x.con c.1).progress)

def restoreLayout : List Named := [(8, 15, 0), (8, 23, 16), (8, 24, 24), (9, 43, 0), (10, 63, 0)]

/-- RESTORE (R356-R358). It completes once the blocks and status grains that it makes its subscriptions push are acknowledged
(R102). -/
def execRestore (cx : Nat) (s : State) : Answer :=
  .next <| whole s fun s =>
  match turnOf s cx 0x0902 with
  | none => s
  | some r =>
    let p := r.pkt
    let n := p.at 64 2
    let full := p.at 66 1 == 0
    let src := p.at 72 8 % 2 ^ 44
    let len := p.at 80 8
    let placed := src % 32 == 0 && inSoftware s src len
    let rd := match placed, setOf? s n with | true, some _ => readTable s src len | _, _ => (s, [])
    let got := match setOf? s n with
      | some x => readRecords x full (len / 32 + 1) rd.2 RecAcc.none0
      | none => .done RecAcc.none0
    let fault := match got with | .fault i => some i | .done _ => none
    let params := [((setOf? s n).isNone || decide (1 < p.at 66 1), 8), (!placed, 9)]
    match checkFail p restoreLayout params [(placed && len != 0 && fault.isSome, 9)] (readDenied s p src len) with
    | some (st, f) => settleTodo rd.1 [.fin cx st f (if st = stBAD_DESCRIPTOR then fault.getD 0 else 0)]
    | none =>
      if len = 0 then complete s cx stDONE_EMPTY 0
      else
        match setOf? s n, got with
        | some x, .done a =>
          if (if full then fullBusy s cx n x else patchBusy s cx n x a) then complete rd.1 cx stBUSY 0
          else
            match a.poison with
            | some i => complete rd.1 cx stDATA_POISON i
            | none =>
              match (if bit (p.at 67 1) 0 then verifyFault x r.seed full a else none) with
              | some i => complete rd.1 cx stCHECK_FAIL i
              | none =>
                let s0 := reachQuays rd.1 (a.cons.map (·.1))
                let z := ftzAt r.ftz clCrane
                let s1 := if full then applyFull s0 z r.seed n x a else applyPatch s0 z r.seed n x a
                awaitAcks s1 cx stDONE a.count
        | _, _ => s

/-! ### REPLAY (R360, R361) -/

/-- The bad grains that replay reads of consignment k: of its inactive slip, and of the final gradient of a parcel that was no
zero parcel. -/
def Pset.replayReads (x : Pset) (k : Nat) : Nat :=
  let c := x.con k
  (c.bad (!x.ep.active)).length + (if c.tvalid then (c.badFg.filter fun g => g / 2 ∉ c.zeroed).length else 0)

/-- Whether replay cannot read what consignment k needs. -/
def Pset.replayBad (x : Pset) (k : Nat) : Bool := x.replayReads k != 0

/-- What the record of a consignment's replay holds, whether its MATCH is 1, and the values flushed. -/
structure Replayed where
  words : List Codeword
  same : Bool
  flush : Nat
  deriving DecidableEq, Repr

/-- The TYPE 5 record of consignment k. `flips` are the silent errors of the crane on its result. -/
def replayRecord (x : Pset) (n k : Nat) (flips : List Flip) : Replayed :=
  let c := x.con k
  let pl := x.recPlace k
  let hdr (m d : Nat) : Codeword :=
    codewordOf (recHeader 5 x.consts.rule pl.1 pl.2.1 pl.2.2 m n x.ep.epoch.toNat d)
  let len := slipLen x.consts.rule
  match (if x.replayBad k then none else x.crane k x.ep.step (!x.ep.active) x.ep.epoch.toNat c.tvalid c.zeroed) with
  | some o =>
    let bs := flipBytes (o.slip ++ o.stage) flips
    let w := sealOf n k x.ep.step (bs.take len) (bs.drop len)
    ⟨hdr (b2n (w == c.sealWord)) w.toNat :: bodyWords bs [], w == c.sealWord, o.flush⟩
  | none => ⟨hdr 0 0 :: List.replicate ((len + stageCodes x.sfmt + 128) / 32) (poisonOf 0), false, 0⟩

/-- Bytes of a TYPE 5 record. -/
def replaySize (x : Pset) : Nat := 32 + slipLen x.consts.rule + stageCodes x.sfmt + 128

/-- The first consignment whose inputs are not unchanged (R361). -/
def replayFault (x : Pset) (first count : Nat) : Option Nat :=
  if !x.sw.wholeCycle || x.sw.phase == .walking then some first
  else (upFrom first count).find? fun k => (x.con k).tround != (x.ep.tround + 65535) % 65536

/-- The silent errors of one consignment's replay: offsets count on through the results of the range. -/
def replayFlips (x : Pset) (flips : List Flip) (i : Nat) : List Flip :=
  let len := slipLen x.consts.rule + stageCodes x.sfmt + 128
  (flips.filter fun f => f.off / len == i).map fun f => { f with off := f.off % len }

/-- REPLAY (R360, R361). The values that its cranes flush count towards the set's step report (R138); nothing else of the set
changes. -/
def execReplay (cx : Nat) (flips : List Flip) (s : State) : Answer :=
  .next <| whole s fun s =>
  match turnOf s cx 0x0903 with
  | none => s
  | some r =>
    let p := r.pkt
    let n := p.at 64 2
    let first := p.at 68 4
    let count := p.at 72 4
    let dst := p.at 80 8 % 2 ^ 44
    let size := match setOf? s n with | some x => count * replaySize x | none => 0
    let beyond := match setOf? s n with | some x => decide (x.total < first + count) | none => false
    let params := [((setOf? s n).isNone || decide (quays s.part ≤ p.at 66 1) || beyond, 8),
      (decide (dst % 32 ≠ 0) || !inSoftware s dst size, 10)]
    match checkFail p [(8, 23, 0), (8, 63, 32), (9, 31, 0), (10, 43, 0)] params [] (!p.hasRight s rightWrite dst size) with
    | some (st, f) => completeBad s cx st f
    | none =>
      match setOf? s n with
      | none => s
      | some x =>
        if count = 0 then complete s cx stDONE_EMPTY 0
        else
          match replayFault x first count with
          | some k => complete s cx stBUSY k
          | none =>
            let rs := (List.range count).map fun i => replayRecord x n (first + i) (replayFlips x flips i)
            let ks := upFrom first count
            let flush := rs.foldl (fun m e => m + e.flush) (x.factorFlushes (!x.ep.active) x.ep.step x.sw.carried)
            let s0 := countPoison (reachQuays (reachQuays s ks) (ks.map (· + p.at 66 1))) x.replayReads ks
            let s1 := noteFlush (modSet s0 n fun y => y.countSw fun w => { w with cFlush := w.cFlush + flush }) clCrane flush
            complete (writeWords s1 dst (rs.flatMap (·.words))) cx (if ks.any x.replayBad then stDATA_POISON else stDONE)
              (rs.filter fun e => !e.same).length

/-! ### Snapshots (R369-R371) -/

/-- The phase code of a set's sweep record (Table 11-11). -/
def phaseCode (p : SwPhase) : Nat :=
  match p with
  | .idle => 0
  | .normSent => 1
  | .decided => 2
  | .walking => 3

/-- Opcode, window and SEQ as snapshot words hold them. -/
def cmdWord (op win seq : Nat) : Nat := op + win * 2 ^ 16 + seq * 2 ^ 32

/-- The running command of the dispatch engine. -/
def dispatchWord (s : State) : Nat :=
  match s.cmd.running.find? fun e => e.2.pkt.opcode / 256 == 3 && e.2.phase != .started with
  | some (_, r) => cmdWord r.pkt.opcode r.pkt.win r.pkt.seq
  | none => 0

/-- Whether a manifest in FINALISING has consignments on quay q whose parcels are still to be finalised. -/
def finalisesOn (s : State) (q : Nat) (x : Manifest) : Bool :=
  x.state == .finalising && !x.tallied && x.kind == 1 && (upFrom x.first (min x.count (quays s.part))).any fun k => homeQuay s k == q

/-- What the tug of quay q works on: the set being landed, and the manifest and GEN in finalisation; without one, the last. -/
def tugWork (s : State) (q : Nat) : Nat × Nat × Nat :=
  match (s.land.finalising ++ s.land.mans).find? fun e => finalisesOn s q e.2 with
  | some e => (e.2.pset, e.1, e.2.gen)
  | none => tget s.snap.tugMan q (0, 0, 0)

/-- Consignments in flight on a quay's crane: those whose checks have not ended. -/
def inFlight (s : State) (q : Nat) : Nat :=
  match s.walk.set.bind (setOf? s) with
  | some x => min 64 (x.cons.filter fun e => e.1 % quays s.part == q && ((e.2.progress && !e.2.cleared) || e.2.residue)).length
  | none => 0

/-- Words 3 to 7 of an engine's record (Table 17-7). -/
def engineWords (s : State) (e : Nat) : List Nat :=
  let q := e % 16
  if e < 0x10 then
    let l := tget s.snap.lastCon q (0, 0, 0)
    let set := s.walk.set.getD 0
    let ph := match s.walk.set with | some n => (match setOf? s n with | some x => phaseCode x.sw.phase | none => 0) | none => 0
    [set + ph * 256 + inFlight s q * 1024, nextWord s q, l.2.1, l.2.2.toNat, 0]
  else if e < 0x20 then
    let t := tugWork s q
    [t.1, t.2.1 + t.2.2 * 65536, tget s.snap.contribs q 0, 0, 0]
  else if e < 0x30 then
    let m := tget s.snap.lastMerge q (0, 0)
    let p := permitsOf s q
    [p.pool + p.holders.length * 2 ^ 9 + p.waiting.length * 2 ^ 18, tget s.snap.merges q 0, m.1 + m.2 * 65536, 0, 0]
  else if e = 0x30 then
    [manActive s, anchUsed s / 32768, s.snap.landed, s.snap.lastMan.1 + s.snap.lastMan.2 * 65536, 0]
  else if e = 0x31 then [dispatchWord s, s.snap.pktSent, s.snap.pktRefused, 0, 0]
  else if e = 0x32 then
    [s.exp.contexts.length + s.exp.subs.length % 256 * 256, s.snap.blocks, s.snap.recalls, s.snap.lastExport.1,
      s.snap.lastExport.2.toNat]
  else
    let t := s.snap.lastTaken
    [hmTaken s + hmActive s * 2 ^ 11, cmdWord t.1 t.2.1 t.2.2, s.snap.lastCommit.1 + s.snap.lastCommit.2.toNat * 256,
      s.snap.journalSeq.toNat, 0]

/-- An engine takes a SNAP: an armed one latches its record and disarms itself (R370). -/
def snapEngine (tag : Nat) (pin woke : Bool) (s : State) (e : Nat) : State :=
  if fld s rPlSnapArmed e e = 0 then s
  else
    let ws := [tag, tickWord s, 1 + 2 * b2n pin + 4 * b2n woke + e * 256] ++ engineWords s e
    let recs := ws.zipIdx.foldl (fun t w => tput t (8 * e + w.2) (BitVec.ofNat 64 w.1) 0) s.snap.recs
    setFld { s with snap := { s.snap with recs := recs } } rPlSnapArmed e e 0

/-- All engines of Table 6-7. -/
def allEngines : List Nat := List.range 0x34

/-- A pilot message reaches the engines of the harbour, which it takes out of Idle (R386). Sleeping quays start their wake and
get it when they are Active (R63, R388); in a harbour whose clocks are stopped the engines of the harbour die do not get it. -/
def pilotArrive (s : State) (m : BitVec 128) (pin : Bool) (req : Option (Nat × Nat)) : State :=
  let kind := bits m.toNat 7 0
  let tag := bits m.toNat 127 64
  let awake := allEngines.filter fun e => match engineQuay e with | some q => q ∉ asleep s | none => clocksRun s
  let s1 := rouseUnits (awake.foldl rouse s) (awake.filterMap engineQuay)
  keepPilot (if kind = 3 then awake.foldl (snapEngine tag pin false) s1 else s1) m (asleep s) pin req

/-- A SNAP drives SNAP_OUT where it came by PLT or PILOT packet (R370). -/
def snapOut (s : State) : State := if fld s rPlSnapCtl 1 1 = 1 then emit s .snapOut else s

/-- SNAP_ARM (R369). -/
def execSnapArm (cx : Nat) (s : State) : Answer :=
  .next <|
  match turnOf s cx 0x0905 with
  | none => s
  | some r =>
    let mode := r.pkt.at 64 1
    let mask := r.pkt.at 72 8
    let absent := (maskBits mask 64).any fun e => !engineListed e || engineAbsent s e
    match checkFail r.pkt [(8, 7, 0), (9, 63, 0)] [(decide (1 < mode), 8), (absent, 9)] [] false with
    | some (st, f) => completeBad s cx st f
    | none =>
      if mask = 0 then complete s cx stDONE_EMPTY 0
      else
        let old := regW s rPlSnapArmed
        let new := if mode = 1 then old ||| mask else old &&& (2 ^ 64 - 1 - mask)
        complete (setRegW s rPlSnapArmed new) cx stDONE new

/-- SNAP_IN: a filtered rising edge on the pin (R370); a part without supply has none. -/
def execSnapIn (s : State) : Answer :=
  .next <|
  if fld s rPlSnapCtl 0 0 = 1 ∧ s.pow.harbour ≠ .off then
    pilotArrive s (pilotBits 3 0 0 (BitVec.ofNat 64 (fld s rPlSnapCtl 63 16))) true none
  else s

/-- Sends a RECALL that landed to the host ports that EX_RECALL_FWD names (R277). -/
def forwardRecall (s : State) (m : BitVec 128) : State :=
  (List.range (ports s.part)).foldl (fun s' p =>
    if bit (regW s' (if p < 64 then rExRecallFwd0 else rExRecallFwd1)) (p % 64) then pilotPort s' p (fld s' rExCfg 7 0) m
    else s') s

/-- PILOT_PACKET (R167, R277, R370): every quay engine accepts it; a RECALL goes on to host ports too. -/
def execPilotPacket (src : LandSrc) (hdr : BitVec 256) (payload : List Codeword) (s : State) : Answer :=
  .next <| withPacket s src hdr payload (ofType tyPILOT) fun s1 p =>
    match payloadGrain p 0 with
    | none => s1
    | some g =>
      let m : BitVec 128 := g.setWidth 128
      let s2 := pilotArrive s1 m false none
      if bits m.toNat 7 0 = 2 then forwardRecall s2 m
      else if bits m.toNat 7 0 = 3 then snapOut s2
      else s2

end Sys2Proof.Machine
end

