-- ==== Sys2Proof/Machine/Resets.lean ====
section
/-!
DEFINITION. What resets lose and keep: the Lost at column (R13), the loading of a configuration copy (R406, R423), the check
of the firmware image (R403-R405), Port, Engine, Quay, Warm and Cold resets (R58, R79, R192, R208, R278, R303, R393-R398).
-/
namespace Sys2Proof.Machine

open Sys2Proof

/-! ### Fields that are lost (R12, R13) -/

/-- The events of R13 from narrowest to widest. -/
def Lost.rank : Lost → Nat
  | .engine => 1
  | .moored => 2
  | .warm => 3
  | .cold => 4
  | .never => 5

/-- The bits of a field. -/
def Fld.mask (f : Fld) : Nat := (2 ^ (f.hi + 1 - f.lo) - 1) <<< f.lo

/-- The bits of the fields of a register that meet a condition. -/
def RegRow.maskOf (r : RegRow) (p : Fld → Bool) : Nat := r.fields.foldl (fun m f => if p f then m ||| f.mask else m) 0

/-- Whether a field is lost at an event: the event named, or a wider one. -/
def Fld.lostAt (f : Fld) (ev : Nat) : Bool := decide (f.lost.rank ≤ ev)

/-- Whether a field is mirrored in the logbook (R422): CFRAC and BFRAC are ordinary LB fields. -/
def RegRow.mirrored (r : RegRow) (f : Fld) : Bool := f.lb && f.acc == .ro && r.name != .inCheckCfg

/-- Registers whose LB fields belong to a set number (R423). -/
def RegName.perSet (n : RegName) : Bool := n == .hbPsetLs || n == .hbPsetNorm || n == .hbPsetRepl || n == .hbReplPeer

/-- The stored bits of a register after an event: kept fields, LB fields from the configuration `cfg` or the counter mirrors,
and zero. -/
def valueAfter (s : State) (cfg : Table Word) (ev off : Nat) : Nat :=
  match regAt off with
  | none => 0
  | some (r, _) =>
    if r.name.perSet ∧ 3 ≤ ev then 0
    else
      (regW s off &&& r.maskOf fun f => !f.lostAt ev) |||
      (((tget cfg off 0).toNat ||| (tget s.boot.mirrors off 0).toNat) &&& r.maskOf fun f => f.lostAt ev && f.lb)

/-- Every register meets an event; the ALERT pin follows HB_ALERT (R414). -/
def loseRegs (s : State) (cfg : Table Word) (ev : Nat) : State :=
  let put (t : Table Word) (off : Nat) : Table Word := tput t off (BitVec.ofNat 64 (valueAfter s cfg ev off)) 0
  alertEdge s { s with regs := ((s.regs ++ cfg ++ s.boot.mirrors).map (·.1)).foldl put [] }

/-- One register meets an Engine reset. -/
def loseReg (s : State) (off : Nat) : State := setRegW s off (valueAfter s [] 1 off)

/-! ### Configuration copies (R406) -/

/-- The copy that a load takes: none where neither is valid, else whether it is copy B. -/
def chosenCopy (b : BootSt) : Option Bool :=
  if b.copyA.valid then some (b.copyB.valid && decide (b.copyA.seq.toNat < b.copyB.seq.toNat))
  else if b.copyB.valid then some true else none

/-- The copy in use. -/
def copyInUse (b : BootSt) : CfgCopy := if b.useB then b.copyB else b.copyA

/-- The configuration that a load takes. -/
def loadedCopy (s : State) : CfgCopy :=
  match chosenCopy s.boot with
  | some true => s.boot.copyB
  | some false => s.boot.copyA
  | none => { valid := true, seq := 0, regs := initialConfig s.part, arenas := [] }

/-- After the load: which copy is in use, what HB_BOOT_STAT shows, and the alert of a load without a valid copy (R406). With
no valid copy, the next CONFIG_SAVE writes copy A. -/
def noteLoad (s : State) : State :=
  let c := loadedCopy s
  let sel := chosenCopy s.boot
  let s1 := { s with boot := { s.boot with
    useB := sel.getD true, stagedSeed := tget s.regs rHbKwSeed0 0, stagedCseed := tget s.regs rInKwCseed0 0 } }
  let s2 := setFld (setFld (setFld s1 rHbBootStat 6 6 (b2n sel.isNone)) rHbBootStat 7 7 (b2n (sel.getD false))) rHbBootStat 63 16
    c.seq.toNat
  if sel.isNone then raiseAlert s2 5 else s2

/-! ### The firmware image (Tables 19-2 and 19-3) -/

/-- The check of Table 19-3 that an image fails first, 0 where it passes. `placed` is the part of check 1 that concerns where
the image lay. -/
def imageError (f : Fuses) (img : List Byte) (placed : Bool) : Nat :=
  let len := fieldAt img 4 4
  let entry := fieldAt img 16 4
  let pub := (img.drop (len - 193)).take 97
  if !placed || img.length != len || decide (1572864 < len) || fieldAt img 0 2 != 0x0101 || decide (entry < 64) ||
     decide (len < entry + 194) then 1
  else if !((Config.sha384 pub == Config.fwKeyHash 0 && !bit f.keyRevoked.toNat 0) ||
            (Config.sha384 pub == Config.fwKeyHash 1 && !bit f.keyRevoked.toNat 1)) then 2
  else if fieldAt img 2 1 < f.fwSvnMin.toNat then 3
  else if !Config.ecdsaOk pub (img.drop (len - 96)) (img.take (len - 193)) then 4
  else 0

/-- Firmware commands taken. -/
def takenFirmware (s : State) : List Nat := (s.cmd.running.filter fun e => !e.2.fast).map (·.1)

/-- Leaves no work of a command behind that its end does not itself remove. -/
def dropWork (s : State) (cx : Nat) : State :=
  { s with walk := { s.walk with wait := s.walk.wait.filter (· != cx) },
           exp := { s.exp with waiting := s.exp.waiting.filter (·.1 != cmdSource cx) },
           berth := { s.berth with batches := terase s.berth.batches cx, images := terase s.berth.images cx } }

/-- Completes commands with ABORTED. -/
def abortAll (s : State) (l : List Nat) : State := l.foldl (fun s' cx => complete (dropWork s' cx) cx stABORTED 0) s

/-- The result of the check of the kept image: RUNNING, or FAILED with ALERT, when the held firmware commands complete with
ABORTED (R404). -/
def bootResult (s : State) (err : Nat) : State :=
  if err = 0 then
    let s1 := setFld (setFld (setFld (setFld s rHbBootStat 2 0 3) rHbBootStat 5 3 0) rHbBootStat 15 8 (fieldAt s.boot.image 2 1))
      rHbHmStat 0 0 1
    answerBadOps { s1 with boot := { s1.boot with everRan := true } }
  else
    let s1 := raiseAlert (setFld (setFld s rHbBootStat 2 0 4) rHbBootStat 5 3 err) 6
    abortAll s1 (takenFirmware s1)

/-- Bytes of harbourmaster SRAM (R14). -/
def hmSramBytes : Nat := 2097152

/-- A GO (R403): accepted in WAIT_IMAGE, and in FAILED without HALTED. -/
def bootGo (s : State) : State :=
  let st := fld s rHbBootStat 2 0
  if st = 1 ∨ (st = 4 ∧ fld s rHbHmStat 2 2 = 0) then
    let a := fld s rHbBoot 43 5 * 32
    let n := fld s rHbBoot 60 44 * 32
    let placed := inPools a n
    let r := if placed then readBytes s a n else (s, [], false)
    let s1 := { r.1 with boot := { r.1.boot with image := r.2.1.take hmSramBytes } }
    bootResult s1 (imageError s1.fuses r.2.1 placed)
  else s

/-! ### Ports (R58, R375) -/

/-- Whether links may be trained: the reference is present, the boot has reached its ports, and the harbour is powered. -/
def mayTrain (s : State) : Bool := fld s rHbClk 0 0 == 1 && fld s rHbBootStat 2 0 != 0 && s.pow.harbour == .active

/-- The host ports and landing ports train, where they may (R9, R375). -/
def trainPorts (s : State) : State :=
  if mayTrain s then
    let s1 := (List.range (ports s.part)).foldl (fun s' p => setFld s' (rHbPortStat p) 0 0 1) s
    { s1 with land := { s1.land with stopped := false } }
  else s

/-- The pilot credits that responses of a port hold: those that wait, those behind a reused tag, and those of messages that a
mooring harbour has refused (R58, R61). -/
def heldPilots (h : HostSt) (p : Nat) : Nat :=
  (h.egress.filter fun e => e.port == p && e.ch == .pilot && (match e.msg with | .resp _ _ _ => true | _ => false)).length +
  (h.reused.filter fun t => t.1 == p && t.2.2 == .pilot).length + (h.late.filter fun l => l.port == p && l.ch == .pilot).length

/-- A Port reset (R58): requests that have not taken effect are discarded, and every tag and every credit of the port is free;
the pilot credits of its host die stay as they are: where a discarded response would have brought one back, the credit itself
waits at the port (log entry 63). What engines have sent to the port keeps waiting for credits. A write of
mode words whose change has begun is discarded too, while the change itself goes on (Table 20-13; log entry 108). -/
def portReset (s : State) (p : Nat) : State :=
  if ports s.part ≤ p then s
  else
    let h := s.host
    let s1 := { s with host := { h with
      reqs := h.reqs.filter (fun r => r.req.port != p),
      tags := h.tags.filter (fun t => t.1 != p),
      reused := h.reused.filter (fun t => t.1 != p),
      turns := terase h.turns p,
      egress := h.egress.filter (fun e => !(e.port == p && match e.msg with | .resp _ _ _ => true | _ => false)) ++
        List.replicate (heldPilots h p) { port := p, ch := .pilot, msg := .pilotCredit, frees := false },
      late := h.late.filter (fun l => l.port != p),
      pilots := h.pilots.map fun k => match k.req with
        | some (q, _) => if q = p then { k with req := none } else k
        | none => k } }
    let s2 := loseReg s1 (rHbPortStat p)
    if mayTrain s2 then setFld s2 (rHbPortStat p) 0 0 1 else s2

/-! ### Restart of the harbourmaster (R79, R228, R230) -/

/-- Epoch words that a journal entry is ahead of are written, and the actions that follow that write are performed (R228); one
whose quay sleeps waits for it (R388). -/
def replayJournal (s : State) : State :=
  s.boot.journal.foldl (fun s' e =>
    match setOf? s' e.pset with
    | some x =>
      if x.ep.seq.toNat < e.word.seq.toNat then
        (attempt s' fun t => followEpoch (putSet (wakeQuay t (e.pset % quays s.part)) e.pset { x with
          ep := e.word
          sw := { x.sw with wholeCycle := e.act == .commit } }) e.pset e.act x).1
      else s'
    | none => s') s

/-- The same, while the harbourmaster runs, for an entry that its restart has had to leave. -/
def replayDue (s : State) : State := if hmRuns s then replayJournal s else s

/-- A round past IDLE waits for SWEEP or SWEEP_RESUME (Table 11-11). -/
def Pset.interrupt (x : Pset) : Pset :=
  if x.sw.phase = .idle then x else { x with sw := { x.sw with interrupted := true } }

/-- The walk under way stops, and the running sweeps complete with ABORTED (R21, R230). -/
def abortSweeps (s : State) : State :=
  let runs := s.cmd.running.filter fun e =>
    (e.2.pkt.opcode == 0x0401 || e.2.pkt.opcode == 0x0402) && e.2.phase != .started
  let s1 := runs.foldl (fun s' e => modSet s' (e.2.pkt.at 64 2) Pset.interrupt) s
  abortAll { s1 with walk := { s1.walk with set := none, wait := [] } } (runs.map (·.1))

/-- A restart: firmware commands whose work has begun complete with ABORTED, and the image is checked again (R79, R405). The
harbourmaster restarts only while its firmware runs. -/
def restartHm (s : State) : State :=
  if fld s rHbHmStat 0 0 = 0 then s
  else
    let s1 := abortSweeps s
    let s2 := abortAll s1 ((s1.cmd.running.filter fun e => !e.2.fast && e.2.phase != .started).map (·.1))
    let s3 := bumpMirror (replayJournal s2) rHbHmStat 47 32 1
    if imageError s3.fuses s3.boot.image true = 0 then answerBadOps { s3 with boot := { s3.boot with halted := false } }
    else
      let s4 := raiseAlert (setFld (setFld s3 rHbHmStat 0 0 0) rHbHmStat 2 2 1) 0
      abortAll s4 (takenFirmware s4)

/-! ### Pilot messages kept for sleeping quays (R63) -/

/-- One kept message reaches the engines of the quays that wake, and takes them out of Idle (R386); the last quay brings the response of its PLT (R61). -/
def applyPilot (qs : List Nat) (s : State) (k : KeptPilot) : State :=
  let mine := k.quays.filter (· ∈ qs)
  let rest := k.quays.filter (· ∉ qs)
  let engines := mine.flatMap fun q => [q, 0x10 + q, 0x20 + q]
  let s0 := rouseUnits (engines.foldl rouse s) mine
  let s1 := if bits k.msg.toNat 7 0 = 3 then engines.foldl (snapEngine (bits k.msg.toNat 127 64) k.pin true) s0 else s0
  if rest.isEmpty then
    match k.req with
    | some (p, t) => respond s1 p .pilot t .ok []
    | none => s1
  else { s1 with host := { s1.host with pilots := s1.host.pilots ++ [{ k with quays := rest }] } }

/-- Kept pilot messages are applied at a wake, in order of arrival. -/
def applyPilots (s : State) (qs : List Nat) : State :=
  s.host.pilots.foldl (applyPilot qs) { s with host := { s.host with pilots := [] } }

/-! ### QUAY_STATE on quays that wake (R387, R392) -/

/-- Whether a FINALISING tally manifest covers a consignment homed on a quay, where its tug works. -/
def tugWorks (s : State) (q : Nat) (x : Manifest) : Bool :=
  finalisesOn s q x && !(match setOf? s x.pset with | some y => y.held | none => false)

/-- Whether a quay has work that keeps it from Doze: a bank, its crane or its tug (R387). -/
def quayBusy (s : State) (q : Nat) : Bool :=
  (s.berth.banks.any fun e => e.1 / 1024 == q && bankBusy e.2) || craneWalks s q ||
  (s.land.mans.any fun e => tugWorks s q e.2) || (s.land.finalising.any fun e => tugWorks s q e.2)

/-- A started QUAY_STATE goes on: it waits for waking quays, then applies its STATE (R392). -/
def applyQuayState (s : State) (cx : Nat) (r : Running) : State :=
  let qs := maskBits (r.pkt.at 64 2) 16
  if r.pkt.at 66 1 = 0 then
    let s1 := { qs.foldl wakeQuay s with pow := { (qs.foldl wakeQuay s).pow with reached := s.pow.reached } }
    if qs.any fun q => q ∈ s1.pow.waking then putCmd s1 cx { r with phase := .doze (r.pkt.at 64 2) }
    else complete s1 cx stDONE 0
  else if qs.any fun q => q ∈ s.pow.waking then putCmd s cx { r with phase := .doze (r.pkt.at 64 2) }
  else if qs.any fun q => !(s.pow.doze.contains q) && quayBusy s q then complete s cx stBUSY 0
  else complete { s with pow := { s.pow with doze := qs.foldl insertNew s.pow.doze } } cx stDONE 0

/-- The QUAY_STATE commands that wait for quays go on, while the harbourmaster runs (R392, R415). -/
def retryQuayStates (s : State) : State :=
  if !hmRuns s then s
  else s.cmd.running.foldl (fun s' e =>
    match e.2.phase with
    | .doze _ => applyQuayState s' e.1 e.2
    | _ => s') s

/-- A quay is Active. -/
def quayActive (s : State) (q : Nat) : State :=
  if q ∈ s.pow.doze ∨ q ∈ s.pow.waking then
    applyPilots { s with pow := { s.pow with doze := s.pow.doze.filter (· != q), waking := s.pow.waking.filter (· != q) } } [q]
  else s

/-! ### Quay resets (R303, R396) -/

/-- The operations of a bank end with ABORTED, without a release. -/
def abortBank (s : State) (b : Nat) : State :=
  let k := bankOf s b
  let end1 (s' : State) (o : Option BOp) : State :=
    match o with
    | none => s'
    | some o => settleBatch (closeOp s' b o stABORTED o.nelem o.nsat o.nflush false) o
  end1 (end1 (dropPermits (setBank s b { k with run := none, queued := none }) b) k.run) k.queued

/-- The crane of a quay loses its working state; a power hold stays only while TRIPPED is set (R13, R384). -/
def craneReset (s : State) (q : Nat) : State :=
  let s1 := loseReg s (rCrStat q)
  let s2 := if fld s rPwHbStat 21 21 = 1 then s1
    else { s1 with walk := { s1.walk with powerHeld := s1.walk.powerHeld.filter (· != q) } }
  abortSweeps s2

/-- Row repairs in progress on a quay end with ABORTED, the old row still mapped (R350). -/
def abortRepairs (s : State) (q : Nat) : State :=
  abortAll s ((s.cmd.running.filter fun e => e.2.phase == .repair && e.2.pkt.at 64 2 % 16384 / 1024 == q).map (·.1))

/-- A Quay reset (R396). A quay in Doze wakes first (R393), and what waited for it to be Active goes on (R392). -/
def quayReset (s : State) (q : Nat) : State :=
  if quays s.part ≤ q then s
  else
    let s1 := [q, 0x10 + q, 0x20 + q].foldl rouse (quayActive s q)
    let mine := (s1.berth.banks.map (·.1)).filter fun b => b / 1024 == q
    retryQuayStates (abortRepairs (craneReset (mine.foldl abortBank s1) q) q)

/-! ### Engine resets -/

/-- The landing engine (R192). Commands that waited for counts of acknowledgements go on, since every count is zero (R172). -/
def landingReset (s : State) : State :=
  tryAll (expStages { s with land := { LandSt.reset with stopped := s.land.stopped, nextEntry := s.land.nextEntry } })

/-- The dispatch engine (R208): its commands are discarded as under R89, without a reply or a release. -/
def dispatchReset (s : State) : State :=
  let gone (e : Nat × Running) : Bool :=
    (e.2.pkt.opcode == 0x0302 || e.2.pkt.opcode == 0x0303 || e.2.pkt.opcode == 0x0304 || e.2.pkt.opcode == 0x0305) &&
    e.2.phase != .started
  { s with cmd := { s.cmd with running := s.cmd.running.filter fun e => !gone e }, disp := { s.disp with prod := 0 } }

/-- The export engine (R278). What subscribers have been sent ahead stays known to a later recall (R275). -/
def exportReset (s : State) : State :=
  let runs := s.cmd.running.filter fun e => e.2.pkt.opcode == 0x0503 && e.2.phase != .started
  let s1 := abortAll s (runs.map (·.1))
  let again (e : Nat × Sub) : Nat × Sub := (e.1, { e.2 with ahead := [] })
  let s2 := { s1 with exp := { subs := s1.exp.subs.map again, contexts := [], waiting := [] } }
  tryAll ((s2.exp.subs.map (·.1)).foldl subInitial s2)

/-- An Engine reset by ENGINE_ID of Table 6-7; an absent engine resets nothing (R394). The tugs hand on what they had taken
(R396), and no rule gives a berth scheduler or a tug a field that is lost. -/
def engineReset (s0 : State) (e : Nat) : State :=
  let s := rouse s0 e
  if e < 0x30 then
    if quays s.part ≤ e % 16 then s
    else
      let s1 := quayActive s (e % 16)
      retryQuayStates (if e < 0x10 then craneReset s1 e else s1)
  else if e = 0x30 then landingReset s
  else if e = 0x31 then dispatchReset s
  else if e = 0x32 then exportReset s
  else if e = 0x33 then restartHm s
  else s

/-! ### Warm reset (R89, R395) -/

/-- LB fields of HB_PSET_LS, HB_PSET_NORM and HB_PSET_REPL as a set's settings. -/
def PsetRegs.ofRegs (ls norm repl : Nat) : PsetRegs :=
  { PsetRegs.created with
    lmin := bits ls 12 8, lmax := bits ls 20 16, dynamic := bit ls 24, g := bits ls 47 32, root := bits norm 17 0,
    localOnly := bit norm 18, d := bits repl 12 0, count := bits repl 19 16, self := bits repl 22 20, beacon := bits repl 47 32,
    digTimeout := bits repl 63 48 }

/-- The settings a reloaded set takes: those of the loaded copy where it records the same arena base (R423). -/
def reloadedRegs (c : CfgCopy) (n : Nat) (x : Pset) : PsetRegs :=
  if tget? c.arenas n = some x.base then
    PsetRegs.ofRegs (tget c.regs (rHbPsetLs n) 0).toNat (tget c.regs (rHbPsetNorm n) 0).toNat (tget c.regs (rHbPsetRepl n) 0).toNat
  else PsetRegs.created

/-- A resident set as it is reloaded from its arena header. -/
def Pset.reload (c : CfgCopy) (n : Nat) (x : Pset) : Pset :=
  { x with pr := reloadedRegs c n x, held := false, heldTick := 0, heldRound := 0, nanRound := none,
           sw := { x.sw with interrupted := x.sw.phase != .idle, unreported := false } }

/-- HB_REPL_PEER of a reloaded set. -/
def reloadPeers (c : CfgCopy) (s : State) (n : Nat) (x : Pset) : State :=
  if tget? c.arenas n = some x.base then
    (List.range 8).foldl (fun s' r =>
      setRegW s' (rHbReplPeer (n * 8 + r)) (bits (tget c.regs (rHbReplPeer (n * 8 + r)) 0).toNat 17 0)) s
  else s

/-- The sets at Warm exit with KEEP: reloaded; at IDLE the round is discarded by a new TROUND (R233). -/
def reloadSets (s : State) (c : CfgCopy) : State :=
  s.sets.foldl (fun s' e =>
    let s1 := reloadPeers c (modSet s' e.1 (Pset.reload c e.1)) e.1 e.2
    if e.2.sw.phase = .idle then
      modSet (writeEpoch s1 e.1 (fun w => { w with tround := (w.tround + 1) % 65536 }) .release) e.1 fun x =>
        { x with gradB := [], nonfinite := 0 }
    else s1) s

/-- What integrity keeps over a Warm or wider reset: the logbook's records (Table 18-7). -/
def IntegSt.afterReset (g : IntegSt) : IntegSt :=
  { g with escWalks := 0, escBerth := [], packages := [], rowCorr := [], skipped := [] }

/-- The objects that no reset as wide as Warm keeps. -/
def clearObjects (s : State) : State :=
  { s with host := HostSt.reset, cmd := CmdSt.reset, sync := SyncSt.reset, tds := [], land := LandSt.reset,
           disp := DispSt.reset, walk := WalkSt.reset, exp := ExpSt.reset, berth := BerthSt.reset,
           integ := s.integ.afterReset, pow := PowSt.reset }

/-- The reference and the source of the harbour PLL at reset exit (R376). -/
def pllLock (s : State) (ref : Bool) : State := setFld (setFld s rHbClk 0 0 (b2n ref)) rHbClk 1 1 (b2n ref)

/-- A Warm reset (R395). -/
def warmNow (s : State) (keep ref : Bool) : State :=
  let s0 := if keep then s else { s with sets := [] }
  let c := loadedCopy s0
  let s1 := loseRegs (clearObjects s0) c.regs 3
  let s2 := { s1 with mem := if keep then s1.mem.filter (fun e => decide (e.1 < qsramBase)) else [],
                      chk := if keep then s1.chk.filter (fun e => decide (e.1 < qsramBase)) else [],
                      snap := { SnapSt.reset with recs := s1.snap.recs },
                      boot := { s1.boot with everRan := false, halted := false } }
  let s3 := reloadSets (replayJournal (pllLock (noteLoad s2) ref)) c
  trainPorts (bootResult s3 (imageError s3.fuses s3.boot.image true))

/-- The cause of a wake is recorded once; the wake then runs (R391, R392). -/
def recordWake (s : State) (cause : Nat) : State :=
  match s.pow.harbour with
  | .moored _ | .mooring _ =>
    if s.pow.harbourWaking then s
    else setFld { s with pow := { s.pow with harbourWaking := true } } rPwState 34 32 cause
  | _ => s

/-- A Warm reset of a moored harbour first wakes it (R393); one that arrives meanwhile is absorbed (R397). -/
def warmReset (s : State) (keep ref : Bool) : State :=
  match s.pow.harbour with
  | .active => warmNow s keep ref
  | .off => s
  | _ =>
    match s.pow.warmAfter with
    | some _ => s
    | none =>
      let s1 := recordWake s 5
      { s1 with pow := { s1.pow with warmAfter := some (keep, ref) } }

/-- The reset that KIND and TARGET name (R394), in an Active harbour. The reference stays as it is. -/
def kindReset (s : State) (kt : Nat × Nat) : State :=
  match kt.1 with
  | 1 => engineReset s kt.2
  | 2 => portReset s kt.2
  | 3 => quayReset s kt.2
  | 4 => warmReset s false (fld s rHbClk 0 0 == 1)
  | 5 => warmReset s true (fld s rHbClk 0 0 == 1)
  | _ => s

/-- Whether a reset that waits is of the same kind and target as another, or a Quay reset that covers it (R397). -/
def resetCovers (a b : Nat × Nat) : Bool := a == b || (a.1 == 3 && b.1 == 1 && decide (b.2 < 0x30) && b.2 % 16 == a.2)

/-- The resets that wait once another one is ordered: one that a waiting reset covers is absorbed into it, and one that covers
waiting ones takes their place (R397). -/
def addReset (l : List (Nat × Nat)) (kt : Nat × Nat) : List (Nat × Nat) :=
  if l.any fun a => resetCovers a kt then l else l.filter (fun a => !resetCovers kt a) ++ [kt]

/-- A reset is ordered: a harbour that is moored, or on its way there, wakes first, with the cause given (R392, R393; log
entry 112). -/
def orderReset (s : State) (cause : Nat) (kt : Nat × Nat) : State :=
  match s.pow.harbour with
  | .active => kindReset s kt
  | .off => s
  | _ =>
    if 4 ≤ kt.1 then kindReset s kt
    else
      let s1 := recordWake s cause
      { s1 with pow := { s1.pow with resetsAfter := addReset s1.pow.resetsAfter kt } }

/-- The resets whose write has its response out begin (R394). -/
def runOrders (s : State) : State :=
  let due (o : Nat × Nat × Nat × Nat) : Bool := !s.host.tags.contains (o.1, o.2.1)
  (s.host.orders.filter due).foldl (fun s' o => orderReset s' 1 o.2.2)
    { s with host := { s.host with orders := s.host.orders.filter fun o => !due o } }

/-! ### Cold reset and supply (R393, R402) -/

/-- Everything that a Cold reset loses (Table 18-7). -/
def coldClear (s : State) : State :=
  let s0 := clearObjects { s with fuses := s.blown, sets := [], mem := [], chk := [], snap := SnapSt.reset }
  let s1 := loseRegs s0 (loadedCopy s0).regs 4
  { s1 with boot := { s1.boot with image := [], everRan := false, hmSram := [], tap := .idcode, halted := false } }

/-- The quay links are trained, and each lane that fails is retired (R347, Tables 18-5 and 19-1). Which lanes fail is free (log
entry 122). -/
def trainLinks (s : State) : State :=
  let t := ((Config.linkFails s.free).filter fun e => decide (e.1 < quays s.part)).foldl (fun s' e => retireLink s' e.1 e.2) s
  { s with free := s.free + 1, integ := t.integ, regs := t.regs, out := t.out }

/-- A Cold reset and the boot up to WAIT_IMAGE (Table 19-1). -/
def coldReset (s : State) (ref : Bool) : State :=
  let s1 := trainLinks (pllLock (noteLoad (addWrap (coldClear s))) ref)
  trainPorts (setFld s1 rHbBootStat 2 0 1)

/-- Removal of supply (R385). -/
def removeSupply (s : State) : State :=
  let s1 := coldClear s
  { s1 with pow := { s1.pow with harbour := .off, supply := false } }

end Sys2Proof.Machine
end

