-- ==== Sys2Proof/Machine/Start.lean ====
section
/-!
DEFINITION. What keeps the oldest pending command of a window from starting: the order of the window (R73, R115) and the
bounds of Table 4-8, with the crane's own hold (R21).
-/
namespace Sys2Proof.Machine

open Sys2Proof

/-- A command that waits once it has started: BEACON_WAIT, or GATE_ARRIVE with WAIT set (R115). -/
def waitingCmd (p : CmdPkt) : Bool := p.opcode == 0x0704 || (p.opcode == 0x0702 && bit (p.at 67 1) 0)

/-- Whether a window runs a command that a predicate holds of. -/
def winRuns (s : State) (w : Nat) (f : CmdPkt → Bool) : Bool := s.cmd.running.any fun e => e.2.pkt.win == w && f e.2.pkt

/-- Whether the order of the window holds its next command: a waiting command runs (R115), or ORDER is set and an earlier
command has not completed or its reply is held (R73). -/
def orderHolds (s : State) (w : Nat) (p : CmdPkt) : Bool :=
  winRuns s w waitingCmd || (p.ordered && (winRuns s w (fun _ => true) || !(winOf s w).held.isEmpty))

/-- The banks that the readable entries of a BERTH_BATCH list name. -/
def listedBanks (s : State) (p : CmdPkt) : List Nat :=
  (List.range (min (p.at 64 4) 16384)).filterMap fun i =>
    let a := p.at 80 8 % 2 ^ 44 + 8 * i
    match decodedGrain s (homeAddr s.part (a / 32 * 32)) with
    | some g => some (bits (fieldAt (grainBytes g) (a % 32) 8) 13 0)
    | none => none

/-- Whether a bound holds the next command of a window: 64 replies are held, 1024 firmware commands are taken, the crane
works on another set, or a listed bank has no free place (R21, R81, R299, Table 4-8). -/
def boundHolds (s : State) (w : Nat) (p : CmdPkt) : Bool :=
  decide (64 ≤ (winOf s w).held.length) || (!fastOp p.opcode && decide (1024 ≤ hmTaken s)) ||
  ((p.opcode == 0x0401 || p.opcode == 0x0402) && (match s.walk.set with | some n => n != p.at 64 2 | none => false)) ||
  (p.opcode == 0x0601 && (listedBanks s p).any fun b => !placeFree s b)

/-- Whether a firmware command launched earlier, at the head of its window and free to start, is taken before this one: the
harbourmaster takes commands in order of launch (R78). -/
def launchWaits (s : State) (p : CmdPkt) : Bool :=
  !fastOp p.opcode && s.cmd.wins.any fun e =>
    match e.2.pend with
    | [] => false
    | q :: _ => !fastOp q.opcode && decide (q.stamp < p.stamp) && !orderHolds s e.1 q && !boundHolds s e.1 q

/-- HB_CMDW.HELD: the oldest pending command is held by a bound. -/
def headHeld (s : State) (w : Nat) : Bool :=
  match (winOf s w).pend with
  | [] => false
  | p :: _ => boundHolds s w p

end Sys2Proof.Machine
end

