-- ==== Sys2Proof/Machine/Regs.lean ====
section
/-!
DEFINITION. Reading and writing registers: what each register shows (the chapters' register tables), the access codes
(Table 0-8), the writes that have no effect, and the writes that act (R39, R412, R418-R421).
-/
namespace Sys2Proof.Machine

open Sys2Proof

/-! ### Reads -/

/-- HB_ID.IDCODE (R415). -/
def idcodeOf (f : Fuses) : Nat := f.stepping.toNat * 2 ^ 28 + 0x2A01 * 2 ^ 12 + 0x2E5 * 2 + 1

/-- HB_ID (Table 19-6). -/
def hbIdOf (f : Fuses) : Nat :=
  (match f.part with | .z16 => 1 | .z8 => 2) + f.stepping.toNat * 2 ^ 4 + b2n f.dbgKill * 2 ^ 8 + f.keyRevoked.toNat * 2 ^ 9 +
  f.fwSvnMin.toNat * 2 ^ 16 + idcodeOf f * 2 ^ 32

/-- HB_CMDW (Table 4-9). -/
def cmdwOf (w : Window) (held : Bool) : Nat :=
  w.head + b2n w.enable * 2 ^ 7 + w.seq * 2 ^ 16 + pendSlots w * 2 ^ 32 + b2n held * 2 ^ 39 + w.fulls * 2 ^ 40

/-- Progress bits set (Table 11-11). -/
def Pset.progressCount (x : Pset) : Nat := (x.cons.filter fun e => e.2.progress).length

/-- The registers of a resident set (Tables 11-8 to 11-12, 17-8 to 17-11). -/
def setReg (s : State) (name : RegName) (n : Nat) (x : Pset) : Nat :=
  let r := x.pr
  match name with
  | .hbEtaVal => r.eta.toNat
  | .hbEtaStep => r.etaStep + b2n r.etaHold * 2 ^ 63
  | .hbPsetLs => x.ep.ls + r.lmin * 2 ^ 8 + r.lmax * 2 ^ 16 + b2n r.dynamic * 2 ^ 24 + r.g * 2 ^ 32 + x.ep.clean * 2 ^ 48
  | .hbSweepStat =>
    phaseCode x.sw.phase + b2n x.sw.skip * 4 + b2n x.sw.interrupted * 8 + b2n (sweepCmd? s n).isSome * 16 +
    b2n x.sw.unreported * 32 + x.progressCount * 2 ^ 8
  | .hbPsetNorm => r.root + b2n r.localOnly * 2 ^ 18
  | .hbPsetRepl => r.d + r.count * 2 ^ 16 + r.self * 2 ^ 20 + r.beacon * 2 ^ 32 + r.digTimeout * 2 ^ 48
  | .hbPsetDigest => r.digest.toNat
  | .hbPsetDstat =>
    r.dstep + b2n r.pending * 2 ^ 48 + b2n r.agreed * 2 ^ 49 + b2n r.missing * 2 ^ 50 + b2n r.differs * 2 ^ 51 +
    r.mismatches * 2 ^ 56
  | .hbPsetAgreed => r.agreedStep
  | _ => 0

/-- CR_STAT (Table 11-13). -/
def crStatOf (s : State) (q : Nat) : Nat :=
  s.walk.set.getD 0 + b2n s.walk.set.isSome * 2 ^ 6 + b2n (s.walk.powerHeld.contains q) * 2 ^ 7 + inFlight s q * 2 ^ 8

/-- Reads that a port holds (R57). Table 3-6 does not list what an acquire waits for before it (R97), so the first acquire
of a queue that waits for its turn while the harbour is Active is not one of them. -/
def heldReads (s : State) (p : Nat) : Nat :=
  ((s.host.reqs.filter fun r => r.req.port == p && (r.req.kind == .rd || r.req.kind == .rda)).filter fun r =>
    r.req.kind == .rd || r.why != .order || s.pow.harbour != .active ||
    (s.host.reqs.takeWhile fun h => h.req.hdr.tag != r.req.hdr.tag || h.req.port != p).any fun h =>
      h.req.port == p && h.req.kind == .rda && h.req.hdr.queue == r.req.hdr.queue).length

/-- BT_STAT (Table 14-12). -/
def btStatOf (s : State) (q : Nat) : Nat :=
  let p := permitsOf s q
  (s.berth.banks.filter fun e => e.1 / 1024 == q && bankMode s e.1).length + p.holders.length * 2 ^ 11 +
  p.waiting.length * 2 ^ 20

/-- BT_PERMIT_STAT (Table 15-5), apart from the last measurements. -/
def permitStatOf (s : State) (q : Nat) : Nat :=
  let p := permitsOf s q
  p.pool + b2n (decide (p.pool < p.holders.length)) * 2 ^ 9 + b2n p.fallback * 2 ^ 10

/-- IN_UNIT_STAT (Table 16-17), apart from DETECTIONS. -/
def unitStatOf (s : State) (q : Nat) : Nat :=
  sparesLeft s q + linkSparesLeft s q * 2 ^ 8 + retiredLanes s q * 2 ^ 16 + retiredBerths s q * 2 ^ 32

/-- QY_SCRUB_CFG.ROW: the next visit (Table 16-18). -/
def scrubRowField (s : State) (q : Nat) : Nat :=
  match scrubNext s q with
  | .due b row | .inOrder b row => row * 1024 + b % 1024
  | .waits => scrubPos s q

/-- What a register of the index shows beyond its stored bits. -/
def derivedReg (s : State) (name : RegName) (i : Nat) : Nat :=
  match name with
  | .hbId => hbIdOf s.fuses
  | .hbWatch => s.boot.wraps % 65536 * 2 ^ 48
  | .hbHmStat => min (hmTaken s) 1024 * 2 ^ 16 + hmActive s * 2 ^ 27
  | .hbPortStat => heldReads s i * 2 ^ 32
  | .hbCmdw => cmdwOf (winOf s i) (headHeld s i)
  | .hbCmdr => (winOf s i).base + (winOf s i).size * 2 ^ 48
  | .hbCmdc => (winOf s i).cons + (winOf s i).prod * 2 ^ 32
  | .crStat => crStatOf s i
  | .ldAnch => b2n (stalled s) * 2 ^ 7 + anchUsed s / 32768 * 2 ^ 8
  | .ldStat2 => manActive s * 2 ^ 32
  | .ldTok => s.land.openToks.length * 2 ^ 48
  | .dsPoolCfg => s.disp.prod % 65536 * 2 ^ 32
  | .exStat => s.exp.subs.length * 2 ^ 32 + s.exp.contexts.length * 2 ^ 41
  | .btStat => btStatOf s i
  | .btPermitStat => permitStatOf s i
  | .plSnapRec => (tget s.snap.recs i 0).toNat
  | .gtStat => gatesInProgress s * 2 ^ 48
  | .inCheckCfg => b2n (s.integ.escWalks != 0 || !s.integ.escBerth.isEmpty) * 2 ^ 7
  | .inRecallStat => maskOf ((s.sets.filter fun e => e.2.held).map (·.1))
  | .inUnitStat => unitStatOf s i
  | .pwState => maskOf s.pow.doze + maskOf s.pow.waking * 2 ^ 16
  | .hbEtaVal | .hbEtaStep | .hbPsetLs | .hbSweepStat | .hbPsetNorm | .hbPsetRepl | .hbPsetDigest | .hbPsetDstat
  | .hbPsetAgreed =>
    match setOf? s i with
    | some x => setReg s name i x
    | none => 0
  | _ => 0

/-- Whether a register's stored bits show as they are. QY_SCRUB_CFG.ROW shows the next visit in their place. -/
def regShown (s : State) (r : RegRow) (i off : Nat) : Nat :=
  if r.name = .qyScrubCfg then regW s off % 2 ^ 32 + scrubRowField s i * 2 ^ 32
  else regW s off + derivedReg s r.name i

/-- A register read (R39, R419, R421): zero where no register or no instance is. -/
def readReg (s : State) (off : Nat) : Nat :=
  match regAt off with
  | some (r, i) => if regPresent s.part r.name i then regShown s r i off % 2 ^ 64 else 0
  | none => 0

/-! ### Writes -/

/-- Fields that a write sets in the stored bits under their access codes; locked RWL fields keep their value. -/
def storedWrite (lock : Bool) (r : RegRow) (old v : Nat) : Nat :=
  r.fields.foldl (fun w f =>
    match f.acc with
    | .rw => putBits w f.hi f.lo (bits v f.hi f.lo)
    | .rwl => if lock then w else putBits w f.hi f.lo (bits v f.hi f.lo)
    | .w1c => putBits w f.hi f.lo (bits w f.hi f.lo - (bits w f.hi f.lo &&& bits v f.hi f.lo))
    | .w1s => putBits w f.hi f.lo (bits w f.hi f.lo ||| bits v f.hi f.lo)
    | _ => w) old

/-- Whether a write would change an RWL field (R412). -/
def changesRwl (r : RegRow) (old v : Nat) : Bool :=
  r.fields.any fun f => f.acc == .rwl && bits old f.hi f.lo != bits v f.hi f.lo

/-- The write by access codes alone. -/
def plainWrite (s : State) (r : RegRow) (off v : Nat) : State := setRegW s off (storedWrite (locked s) r (regW s off) v)

/-- HB_CMDW (R90). -/
def writeCmdw (s : State) (w v : Nat) : State :=
  let x := winOf s w
  let x1 := { x with fulls := x.fulls - (x.fulls &&& bits v 47 40), enable := bit v 7 }
  setWin s w (if x.enable then x1 else { x1 with seq := bits v 31 16, head := 0 })

/-- HB_CMDR (R90, Table 4-10). -/
def writeCmdr (s : State) (w v : Nat) : State :=
  let x := winOf s w
  let a := bits v 43 5 * 32
  let n := bits v 52 48
  if x.prod ≠ x.cons ∨ (n ≠ 0 ∧ (n < 6 ∨ 16 < n)) ∨ (n ≠ 0 ∧ !inSoftware s a (32 * 2 ^ n)) then s
  else setWin s w { x with base := a, size := n }

/-- HB_CMDC (R81). -/
def writeCmdc (s : State) (w v : Nat) : State :=
  let x := winOf s w
  if unconsumed x < (bits v 16 0 + 131072 - x.cons) % 131072 then s else setWin s w { x with cons := bits v 16 0 }

/-- HB_PSET_REPL (R373). -/
def writeRepl (r : PsetRegs) (v : Nat) : PsetRegs :=
  let d := bits v 12 0
  let c := bits v 19 16
  if d = 0 ∨ 4096 < d ∨ c = 0 ∨ 8 < c ∨ c ≤ bits v 22 20 ∨ bits v 47 32 % 32 ≠ 0 ∨ r.pending then r
  else { r with d := d, count := c, self := bits v 22 20, beacon := bits v 47 32, digTimeout := bits v 63 48 }

/-- Writes of the registers of a resident set (R219, R237, R373). -/
def writeSetReg (name : RegName) (r : PsetRegs) (v : Nat) : PsetRegs :=
  match name with
  | .hbEtaVal => { r with etaStaged := BitVec.ofNat 32 v }
  | .hbEtaStep => { r with eta := r.etaStaged, etaStep := bits v 47 0, etaHold := bit v 63 }
  | .hbPsetLs =>
    if bits v 20 16 < bits v 12 8 then r
    else { r with lmin := bits v 12 8, lmax := bits v 20 16, dynamic := bit v 24, g := bits v 47 32 }
  | .hbPsetNorm => { r with root := bits v 17 0, localOnly := bit v 18 }
  | .hbPsetRepl => writeRepl r v
  | .hbPsetDstat => { r with mismatches := r.mismatches - (r.mismatches &&& bits v 63 56) }
  | _ => r

/-- Whether the anchorage size may become `n` GiB (R193). -/
def anchMay (s : State) (n : Nat) : Bool :=
  decide (n ≤ 64) && s.sets.isEmpty && s.land.entries.isEmpty && decide (arenaBase s ≤ capacity s.part - n * gib)

/-- LD_ANCH: HIGH_MIB is set; SIZE_GIB where it may be (R193). -/
def writeAnch (s : State) (v : Nat) : State :=
  let s1 := setFld s rLdAnch 48 32 (bits v 48 32)
  if !locked s && anchMay s (bits v 6 0) then setFld s1 rLdAnch 6 0 (bits v 6 0) else s1

/-- HB_ROADSTEAD: a COUNT out of range leaves COUNT unchanged (R27). -/
def writeRoadstead (s : State) (v : Nat) : State :=
  let s1 := if locked s then s else setFld s rHbRoadstead 17 0 (bits v 17 0)
  if bits v 49 32 = 0 ∨ 250000 < bits v 49 32 then s1 else setFld s1 rHbRoadstead 49 32 (bits v 49 32)

/-- Harbour-die cap limit of the part (R382). -/
def hbCapMax : Part → Nat
  | .z16 => 170000
  | .z8 => 150000

/-- Registers of the index whose write has no effect for the value written, or at this time (R31, R131, R209, R320, R382,
R409, Table 16-12). -/
def writeRefused (s : State) (name : RegName) (v : Nat) : Bool :=
  match name with
  | .hbArena => !s.sets.isEmpty || decide (anchBase s < bits v 10 0 * gib)
  | .hbSigCfg => bits v 31 16 % 256 != 0
  | .hbProtRgn => bit v 60 && decide (bits v 59 30 < bits v 29 0)
  | .dsPoolBase | .dsPoolCfg => s.cmd.running.any fun e => e.2.pkt.opcode == 0x0305 && e.2.phase != .started
  | .btPermitCfg => decide (256 < bits v 8 0) || bits v 27 16 == 0 || decide (bits v 63 56 ≤ bits v 55 48)
  | .inRetireCfg => bits v 7 4 == 0 || bits v 31 8 == 0
  | .pwCap =>
    decide (bits v 16 0 < 16000) || decide (64000 < bits v 16 0) || decide (bits v 49 32 < 60000) ||
    decide (hbCapMax s.part < bits v 49 32)
  | _ => false

/-- The effect of a write on one present register, apart from PW_RESET's resets. -/
def writePresent (s : State) (r : RegRow) (i off v : Nat) : State :=
  if writeRefused s r.name v then s
  else
    match r.name with
    | .hbRoadstead => writeRoadstead s v
    | .hbBoot => let s1 := plainWrite s r off v; if bit v 63 then bootGo s1 else s1
    | .hbTdTurn => turnTd s (v % 65536)
    | .hbKwSeed0 => { s with boot := { s.boot with stagedSeed := BitVec.ofNat 64 v } }
    | .hbKwSeed1 => setRegW (setRegW s rHbKwSeed0 s.boot.stagedSeed.toNat) rHbKwSeed1 v
    | .inKwCseed0 => { s with boot := { s.boot with stagedCseed := BitVec.ofNat 64 v } }
    | .inKwCseed1 => setRegW (setRegW s rInKwCseed0 s.boot.stagedCseed.toNat) rInKwCseed1 v
    | .hbCmdw => writeCmdw s i v
    | .hbCmdr => writeCmdr s i v
    | .hbCmdc => writeCmdc s i v
    | .hbEtaVal | .hbEtaStep | .hbPsetLs | .hbPsetNorm | .hbPsetRepl | .hbPsetDstat =>
      modSet s i fun x => { x with pr := writeSetReg r.name x.pr v }
    | .hbReplPeer => if (setOf? s (i / 8)).isSome then plainWrite s r off v else s
    | .ldAnch => writeAnch s v
    | .inRecallCtl => endHold s (v % 64) (bit v 8)
    | _ => plainWrite s r off v

/-- A write of one register: the state, and whether it would change a locked RWL field (R412, R419). -/
def writeReg (s : State) (off v : Nat) : State × Bool :=
  match regAt off with
  | none => (s, false)
  | some (r, i) =>
    if regPresent s.part r.name i then (writePresent s r i off v, locked s && changesRwl r (regW s off) v)
    else (s, locked s && changesRwl r 0 v)

/-- Whether a register write resets something once its response has left (R394). -/
def pwResetOf (off v : Nat) : Option (Nat × Nat) :=
  if off = rPwReset ∧ 1 ≤ bits v 2 0 ∧ bits v 2 0 ≤ 5 then some (bits v 2 0, bits v 15 8) else none

/-- Writes of consecutive registers: the state, whether a locked field kept a write out, and the resets that follow. -/
def writeRegs : List Nat → State → Nat → State × Bool × List (Nat × Nat)
  | [], s, _ => (s, false, [])
  | v :: t, s, off =>
    let r := writeReg s off v
    let rest := writeRegs t r.1 (off + 8)
    (rest.1, r.2 || rest.2.1, (pwResetOf off v).toList ++ rest.2.2)

/-! ### The management sideband (R413, R414) -/

/-- Registers that the sideband serves in Moored (R413). -/
def servedMoored (off : Nat) : Bool :=
  off == rHbId || off == rHbWatch || off == rHbAlert || off == rHbBootStat || off == rPwState

/-- Whether the harbour is moored, or on its way there or back. -/
def isMoored (s : State) : Bool := match s.pow.harbour with | .moored _ => true | _ => false

/-- The answer of the sideband. -/
def sideband (s : State) (status : Nat) (data : List Byte) : State := emit s (.sideband status data)

end Sys2Proof.Machine
end

