-- ==== Sys2Proof/Machine/Host.lean ====
section
/-!
DEFINITION. Host-port requests: headers (Table 3-1), the checks of R46, the order of a queue (R95-R105), holding (R57), and
what each request does at its home.
-/
namespace Sys2Proof.Machine

open Sys2Proof

/-! ### Headers -/

/-- The fields of a request header (Table 3-1); revision 1 ignores bits [119:105] (R50). DESIGN CHOICE: ENGINE is read and
recorded nowhere, since no word of Tables 17-6 and 17-7 holds it (log entry 109; unsafe). -/
def ReqHdr.ofBits (h : BitVec 128) : ReqHdr :=
  let v := h.toNat
  let r2 := bit v 67
  { addr := BitVec.ofNat 64 (bits v 63 0), opc := bits v 66 64, rev2 := r2, tag := bits v 77 68, queue := bits v 83 78,
    engine := bits v 91 84, len := bits v 101 92, aop := bits v 104 102, final := r2 && bit v 105,
    manifest := if r2 then bits v 119 106 else 0, reserved := bits v 127 120 }

/-- The kind that OPC names. -/
def kindOf (opc : Nat) : Option ReqKind :=
  match opc with
  | 1 => some .rd
  | 2 => some .wr
  | 3 => some .wrr
  | 4 => some .rda
  | 5 => some .atm
  | 6 => some .fnl
  | 7 => some .plt
  | _ => none

/-- The local address of a request. -/
def Request.a (r : Request) : Nat := gaLocal r.hdr.addr.toNat

/-- Bytes a request covers: an atomic acts on the eight bytes at ADDR. -/
def Request.n (r : Request) : Nat := if r.kind = .atm then 8 else 8 * r.hdr.len

/-- A WR or WRR. -/
def Request.isWr (r : Request) : Bool := r.kind == .wr || r.kind == .wrr

/-- An RD or RDA. -/
def Request.isRd (r : Request) : Bool := r.kind == .rd || r.kind == .rda

/-- A FINAL write (R43). -/
def Request.isFinal (r : Request) : Bool := r.isWr && r.hdr.final

/-- The payload grains of a write, those it lacks zero. -/
def Request.words (r : Request) : List Codeword :=
  (List.range (ceilDiv r.hdr.len 4)).map fun i => (r.data[i]?).getD (codewordOf 0)

/-- The eight-byte values of a payload. -/
def Request.values (r : Request) : List Nat :=
  let bs := r.words.flatMap fun c => grainBytes c.data
  (List.range r.hdr.len).map fun i => fieldAt bs (8 * i) 8

/-- Where a request acts (Table 2-2). -/
inductive Delivery where
  | here
  | remote
  | broadcast
  | nowhere
  deriving DecidableEq, Repr

def deliveryOf (s : State) (r : Request) : Delivery :=
  let a := r.hdr.addr.toNat
  match gaSpace a with
  | 0 => if gaHarbour a = selfNum s then .here else if r.isWr && decide (gaHarbour a < countNum s) then .remote else .nowhere
  | 1 => .here
  | 2 => if r.isWr then .broadcast else .nowhere
  | _ => .nowhere

/-- Whether a request is a remote or broadcast write. -/
def sentAway (s : State) (r : Request) : Bool :=
  match deliveryOf s r with
  | .remote | .broadcast => true
  | _ => false

/-- The virtual channel of a kind and region (R44). DESIGN CHOICE: a reserved opcode is answered as a read of its ADDR would
be, on the control channel where ADDR names registers, mode words or harbour SRAM, and else on the read channel (log entry
48; unsafe). -/
def channelOf (s : State) (kind : Option ReqKind) (addr : Word) : Channel :=
  let ctl : Bool := match regionOf s.part (gaLocal addr.toNat) with
    | some .regs | some .modeWords | some .hsram => true
    | _ => false
  match kind with
  | some .plt => .pilot
  | some .atm | some .fnl => .control
  | some .wr | some .wrr => if ctl then .control else .write
  | _ => if ctl then .control else .read

def Request.channel (s : State) (r : Request) : Channel := channelOf s (some r.kind) r.hdr.addr

/-! ### Checks (R46) -/

/-- A request whose opcode or atomic form Zurax does not have (R11, R48, R50). -/
def badForm (kind : Option ReqKind) (h : ReqHdr) : Bool :=
  match kind with
  | none => true
  | some .atm => decide (4 < h.aop) || h.len != (if h.aop = 2 then 2 else 1)
  | some .wrr | some .rda | some .fnl => !h.rev2
  | _ => false

/-- Lengths and alignments of Table 3-2. -/
def lengthOk (g : Region) (r : Request) : Bool :=
  if g = .regs ∨ g = .modeWords then r.kind != .atm && decide (r.hdr.len ≤ 32) && r.a % 8 == 0
  else if r.kind = .atm then r.a % 8 == 0
  else r.hdr.len % 4 == 0 && decide (r.hdr.len ≤ 512) && r.a % 32 == 0

/-- Bytes by which a request is placed in the parts of its region: an empty one lies at ADDR. -/
def Request.span (r : Request) : Nat := max r.n 1

/-- Whether an access to a berth window is refused as UNMAPPED: the bank is in MEMORY mode, or the offset is none of
Table 14-3 (R36). -/
def windowUnmapped (s : State) (r : Request) : Bool :=
  !bankMode s ((r.a - berthBase) / 0x400000) || decide (0x240 < (r.a - berthBase) % 0x400000 + r.span)

/-- UNMAPPED at this harbour (R28, R29, R35, R36, R39, R45, R103, Table 2-6). -/
def unmappedHere (s : State) (r : Request) : Bool :=
  match regionOfRange s.part r.a r.n with
  | none => true
  | some g =>
    !lengthOk g r || (g == .berth && windowUnmapped s r) ||
    (g == .hsram && overlaps r.a r.span (gateBase + 0x40000) (poolBase - gateBase - 0x40000)) ||
    (r.isFinal && !(g == .dram || inBeacons r.a r.span))

/-- UNMAPPED for a remote or broadcast write (R25, R45). -/
def unmappedAway (s : State) (r : Request) (bcast : Bool) : Bool :=
  match regionOfRange s.part r.a r.n with
  | some g => !lengthOk g r || !(g == .dram || (!bcast && inBeacons r.a r.span))
  | none => true

/-- The home grains that an access to DRAM covers. -/
def Request.homes (s : State) (r : Request) : List Nat := (grainsOf r.a r.span).map (homeAddr s.part)

/-- Whether the protection map admits a request at this harbour (R410, Table 19-4). -/
def rightsHere (s : State) (r : Request) (g : Region) : Bool :=
  if g = .modeWords ∨ g = .berth then hasRight s r.port rightBerth r.a r.n
  else if r.kind = .atm then hasRight s r.port rightRead r.a 8 && hasRight s r.port rightWrite r.a 8
  else if r.isRd then hasRight s r.port rightRead r.a r.n
  else if hsramBase ≤ r.a ∧ r.a < beaconBase then
    let k := min r.n (beaconBase - r.a)
    hasRight s r.port rightCommand r.a k && hasRight s r.port rightWrite (r.a + k) (r.n - k)
  else hasRight s r.port rightWrite r.a r.n

/-- DENIED by the place of a request, whatever its rights (R17, R31, R37, R431, Table 2-6). -/
def deniedPlace (s : State) (r : Request) (g : Region) : Bool :=
  match g with
  | .dram | .aperture => !r.isRd && (r.homes s).any fun x => inAnchorage s x 32 || inResidentArena s x 32
  | .qsram => !inQuaySoft s r.a r.span
  | .hsram =>
    if r.kind = .atm then !(inBeacons r.a 8 || inPools r.a 8)
    else overlaps r.a r.span poolEnd (hsramEnd - poolEnd) || (r.isWr && overlaps r.a r.span gateBase 0x40000)
  | .berth => r.kind == .atm
  | _ => false

/-- The checks of R46 up to POISON or OK. -/
def checkReq (s : State) (r : Request) : Option Resp :=
  match deliveryOf s r with
  | .nowhere => if r.kind = .fnl then none else some .unmapped
  | .here =>
    if r.kind = .fnl then none
    else if unmappedHere s r then some .unmapped
    else
      match regionOf s.part r.a with
      | some g => if rightsHere s r g && !deniedPlace s r g then none else some .denied
      | none => some .unmapped
  | .remote =>
    if unmappedAway s r false then some .unmapped
    else if hasRight s r.port rightWrite r.a r.n then none else some .denied
  | .broadcast =>
    if unmappedAway s r true then some .unmapped
    else if hasRight s r.port rightWrite r.a r.n then none else some .denied

/-! ### The order of a queue (R95-R105) -/

/-- A local request that keeps its queue's order: a FINAL write leaves it (R103). -/
def inOrder (s : State) (r : Request) : Bool := r.kind != .fnl && !r.isFinal && !sentAway s r

/-- Whether an earlier request `e` of its queue holds `r` back (Table 5-1). -/
def holdsBack (s : State) (e r : Request) : Bool :=
  e.kind == .rda || e.kind == .fnl || (inOrder s r && inOrder s e) ||
  (r.kind == .wrr && (e.isWr || e.kind == .atm) && !e.isFinal) || (r.kind == .fnl && sentAway s e)

/-- Requests of the same queue that arrived before. -/
def earlier (s : State) (r : Request) : List Request :=
  ((s.host.reqs.takeWhile fun h => !(h.req.port == r.port && h.req.hdr.tag == r.hdr.tag)).map (·.req)).filter fun e =>
    e.port == r.port && e.hdr.queue == r.hdr.queue

/-- The acknowledgements that a WRR or FNL waits for have come (R51, R97, R172). -/
def acksIn (s : State) (r : Request) : Bool :=
  let x := sourceOf s (queueSource r.port r.hdr.queue false)
  match r.kind with
  | .wrr => x.plain == 0
  | .fnl => x.plain == 0 && x.final == 0
  | _ => true

/-- Whether a request's turn in its queue has come. -/
def inTurn (s : State) (r : Request) : Bool := acksIn s r && !(earlier s r).any fun e => holdsBack s e r

/-! ### What holds a request at its home -/

/-- Quays that a local access reaches (R388). -/
def touchedQuays (s : State) (r : Request) (g : Region) : List Nat :=
  match g with
  | .dram | .aperture => (r.homes s).filterMap (quayOf s.part)
  | .qsram => (quayOf s.part r.a).toList
  | .modeWords => (upFrom ((r.a - modeBase) / 8) (max r.hdr.len 1)).map (· / 1024)
  | .berth => [(r.a - berthBase) / 0x400000 / 1024]
  | _ => []

/-- Banks and offsets of the grains of a DRAM access. -/
def touchedBanks (s : State) (r : Request) : List (Nat × Nat) :=
  if s.berth.banks.isEmpty || r.n == 0 then [] else (r.homes s).map (bankPlace s.part)

/-- Grains of a request that gaps of a busy bank have still to serve (R313). -/
def gapLeft (s : State) (h : HeldReq) (b : Nat) : Nat :=
  ((touchedBanks s h.req).filter fun x => x.1 == b).length - tget h.served b 0

/-- What an access to DRAM waits for: a mode change, an operation whose region its bytes meet, or a running operation, unless
the gaps of its bank have served the access (R281, R313, R316). `gap` passes over the gaps. -/
def dramWaits (s : State) (h : HeldReq) (gap : Bool) : Bool :=
  let r := h.req
  (!r.isRd && regionHeld s r.a r.n) ||
  (touchedBanks s r).any fun bx =>
    (bankOf s bx.1).changing.isSome || (!gap && bankRuns s bx.1 && gapLeft s h bx.1 != 0)

/-- The packet of a local FINAL write: it reaches the landing engine without a wire header (R103). One that has waited there
names the generation that it bound to at its arrival (R177). -/
def finalPacket (s : State) (r : Request) (bound : Option Nat) : Packet :=
  { hdr := { ver := 0, type := tyWRITE, dest := selfNum s, orig := selfNum s, bcast := false, rel := r.kind == .wrr,
             final := true, red := false, manValid := true, manifest := r.hdr.manifest, gen := bound.getD 0,
             source := queueSource r.port r.hdr.queue true, target := r.a, len := r.n / 32, fmt := 0, cnt := 0, anygen := bound.isNone,
             arg := 0, reserved := 0 },
    payload := r.words }

/-- The landing engine takes a local FINAL write; none while the anchorage has no space for it, or a berth operation or a
sleeping quay holds it (R316, R388). -/
def takeFinal (s : State) (h : HeldReq) : Option State :=
  match landTry (landTicks (rouse s 0x30)) (finalPacket s h.req h.bound) with
  | (_, .done s') => some s'
  | (_, .stall _) => none

/-- Banks and values of a write of mode words. -/
def modeValues (r : Request) : List (Nat × Nat) := (r.values.zipIdx).map fun v => ((r.a - modeBase) / 8 + v.2, v.1)

/-- The GO grain of a write of a berth window that covers it. -/
def goGrain (r : Request) : Option Grain :=
  let off := (r.a - berthBase) % 0x400000
  if off ≤ 0x200 ∧ 0x200 < off + r.n then (wordData ((r.words[(0x200 - off) / 32]?).getD (codewordOf 0))) else none

/-- What becomes of a request now. -/
inductive Verdict where
  | go
  | start                -- the mode changes that it orders begin
  | fail (st : Resp)
  | hold (why : HoldWhy)
  | stay                 -- it goes on waiting as it does
  deriving DecidableEq, Repr

/-- A request at its home, once its checks have passed. -/
def localVerdict (s : State) (h : HeldReq) (g : Region) (gap : Bool) : Verdict :=
  let r := h.req
  if (touchedQuays s r g).any fun q => q ∈ asleep s then .hold .quay
  else
    match g with
    | .modeWords =>
      if !r.isWr then .go
      else
        let l := modeValues r
        if h.why = .modeChange then
          if l.any fun e => (bankOf s e.1).changing.isSome then .hold .modeChange else .go
        else if l.any fun e => modeStep s e.1 e.2 == .waits then .hold .bank
        else if l.all fun e => modeStep s e.1 e.2 == .done then .go
        else .start
    | .berth =>
      match (if r.isWr then goGrain r else none) with
      | some go => if goWaits s ((r.a - berthBase) / 0x400000) go then .hold .bank else .go
      | none => .go
    | .dram | .aperture => if dramWaits s h gap then .hold .bank else .go
    | _ => .go

/-- Whether a request addresses the window of a bank that changes its mode; its check waits for the new mode (R95). -/
def windowChanging (s : State) (r : Request) : Bool :=
  inRegion s.part r.a .berth && (bankOf s ((r.a - berthBase) / 0x400000)).changing.isSome

/-- The answer that a check gives a request whose turn has come. It is checked once, under the map and lock in force then (R412);
what was checked and then held is looked at again only for the mode of a window, which counts when the access is served (R36). -/
def checkNow (s : State) (h : HeldReq) : Option Resp :=
  if h.why = .order then checkReq s h.req
  else if inRegion s.part h.req.a .berth && windowUnmapped s h.req then some .unmapped else none

/-- What becomes of a held request. `gap` says that its bank has a gap between row bursts. -/
def verdict (s : State) (h : HeldReq) (gap : Bool) : Verdict :=
  let r := h.req
  if s.pow.harbour ≠ .active ∨ !inTurn s r then .stay
  else if r.kind = .fnl ∨ sentAway s r then
    match checkReq s r with
    | some st => .fail st
    | none => .go
  else if windowChanging s r then .stay
  else
    match checkNow s h with
    | some st => .fail st
    | none =>
      if r.isFinal then (if (takeFinal s h).isSome then .go else .hold .bank)
      else
        match regionOf s.part r.a with
        | some g => localVerdict s h g gap
        | none => .fail .unmapped

/-! ### Effects -/

/-- The request leaves the list of those that wait. -/
def removeReq (s : State) (r : Request) : State :=
  { s with host := { s.host with
      reqs := s.host.reqs.filter fun h => !(h.req.port == r.port && h.req.hdr.tag == r.hdr.tag) } }

/-- The response of a request, on its own channel. -/
def answer (s : State) (r : Request) (st : Resp) (data : List Codeword) : State :=
  respond s r.port (r.channel s) r.hdr.tag st data

/-- The response data of bytes. -/
def dataWords (bs : List Byte) : List Codeword := (toGrains (bs.length + 1) bs).map codewordOf

/-- A read at this harbour (R39, R47, R49, R280, R282). -/
def serveRead (s : State) (r : Request) (g : Region) : State :=
  match g with
  | .regs =>
    answer s r .ok (dataWords ((upFrom 0 r.hdr.len).flatMap fun i => leBytes 8 (readReg s (r.a - regBase + 8 * i))))
  | .modeWords =>
    answer s r .ok (dataWords ((upFrom 0 r.hdr.len).flatMap fun i => leBytes 8 (modeWord s ((r.a - modeBase) / 8 + i))))
  | .berth =>
    let off := (r.a - berthBase) % 0x400000
    let gs := (upFrom 0 (r.n / 32)).map fun i => berthGrain s ((r.a - berthBase) / 0x400000) (off + 32 * i)
    answer s r (if gs.any (·.bad) then .poison else .ok) (gs.map (·.word))
  | _ =>
    let x := readMem (r.n / 32) s r.a
    answer x.1 r (if x.2.any (·.bad) then .poison else .ok) (x.2.map (·.word))

/-- The new value of an atomic (Table 3-3). -/
def atomicNew (aop x y old : Nat) : Nat :=
  match aop with
  | 0 => (old + x) % 18446744073709551616
  | 1 => x
  | 2 => if old = x then y else old
  | 3 => max old x
  | _ => min old x

/-- An atomic (R48, R49). -/
def serveAtomic (s : State) (r : Request) : State :=
  let bs := grainBytes (((r.data[0]?).getD (codewordOf 0)).data)
  let f := atomicNew r.hdr.aop (fieldAt bs 0 8) (fieldAt bs 8 8)
  let x := if inBeacons r.a 8 then beaconAtomic s ((r.a - beaconBase) / 8) f else atomicWord s r.a f
  match x.2 with
  | some old => answer (judgeAll x.1) r .ok (dataWords (leBytes 8 old))
  | none => answer x.1 r .poison (dataWords (leBytes 8 0))

/-- Writes of a berth window, grain by grain. -/
def writeWindow (s : State) (b off port : Nat) (ws : List Codeword) : State :=
  ws.zipIdx.foldl (fun s' w => berthWriteGrain s' b (off + 32 * w.2) port w.1) s

/-- A register write. The resets that it orders begin when its response has left its port (R39, R394, R412). -/
def serveRegWrite (s : State) (r : Request) : State :=
  let x := writeRegs r.values s (r.a - regBase)
  let s1 := answer x.1 r (if x.2.1 then .denied else .ok) []
  { s1 with host := { s1.host with
    orders := s1.host.orders ++ x.2.2.map fun kt => (r.port, r.hdr.tag, kt.1, kt.2) } }

/-- A write at this harbour (R45, R47, R69, R95). -/
def serveWrite (s : State) (r : Request) (g : Region) : State :=
  match g with
  | .regs => serveRegWrite s r
  | .modeWords => answer s r .ok []
  | .berth =>
    answer (writeWindow s ((r.a - berthBase) / 0x400000) ((r.a - berthBase) % 0x400000) r.port r.words) r .ok []
  | _ =>
    let s1 := if r.n = 0 then s else writeMem s r.port r.a r.words
    answer (if overlaps r.a r.n beaconBase (gateBase - beaconBase) then judgeAll s1 else s1) r .ok []

/-- A remote or broadcast write leaves as a packet; an empty one without FINAL sends none (R45, R100, R434). -/
def sendAway (s : State) (r : Request) : State :=
  let bcast : Bool := deliveryOf s r == .broadcast
  if r.n = 0 ∧ !r.isFinal then answer s r .ok []
  else
    let h := { newHdr s tyWRITE (if bcast then 0 else gaHarbour r.hdr.addr.toNat) with
      bcast := bcast, rel := r.kind == .wrr, final := r.isFinal, manValid := r.isFinal, anygen := r.isFinal,
      manifest := if r.isFinal then r.hdr.manifest else 0, source := queueSource r.port r.hdr.queue r.isFinal, target := r.a,
      len := r.n / 32 }
    answer (sendCounted s { hdr := h, payload := r.words }) r .ok []

/-- An FNL ends (R51); its flag has been reported. -/
def endFnl (s : State) (r : Request) : State :=
  let k := queueSource r.port r.hdr.queue false
  let x := sourceOf s k
  answer (setSource s k { x with flag := false }) r (if x.flag then .denied else .ok) []

/-- A request takes effect. -/
def takeEffect (s0 : State) (h : HeldReq) : State :=
  let r := h.req
  let s := removeReq s0 r
  if r.kind = .fnl then endFnl s r
  else if sentAway s r then sendAway s r
  else if r.isFinal then
    match takeFinal s h with
    | some s' => answer (judgeAll s') r .ok []
    | none => s0
  else
    match regionOf s.part r.a with
    | some g => if r.isRd then serveRead s r g else if r.kind = .atm then serveAtomic s r else serveWrite s r g
    | none => answer s r .unmapped []

/-- Notes why a request goes on waiting. -/
def setWhy (s : State) (r : Request) (why : HoldWhy) : State :=
  { s with host := { s.host with reqs := s.host.reqs.map fun h =>
      if h.req.port = r.port ∧ h.req.hdr.tag = r.hdr.tag then { h with why := why } else h } }

/-- The mode changes that a write of mode words orders begin (R281). -/
def startModes (s : State) (r : Request) : State :=
  (modeValues r).foldl (fun s' e =>
    match modeStep s' e.1 e.2 with
    | .starts m => startChange s' e.1 m
    | _ => s') s

/-- The dozing quays that an access reaches wake (R388). -/
def wakeTouched (s : State) (r : Request) : State :=
  match regionOf s.part r.a with
  | some g => (touchedQuays s r g).foldl wakeQuay s
  | none => s

/-- A local FINAL write waits at the landing engine, bound to the generation in force at its arrival (R177); a sleeping quay
that it reaches wakes (R388). -/
def waitFinal (s : State) (h : HeldReq) : State :=
  let t := (landTry (landTicks s) (finalPacket s h.req h.bound)).1
  let s1 := { s with pow := t.pow }
  { s1 with host := { s1.host with reqs := s1.host.reqs.map fun x =>
      if x.req.port = h.req.port ∧ x.req.hdr.tag = h.req.hdr.tag then
        { x with why := .bank, bound := some (h.bound.getD (manOf s h.req.hdr.manifest).gen) }
      else x } }

/-- Carries out a verdict. An effect that would reach a sleeping quay or a declared write region by way of a window is held
(R316, R388). -/
def carryOut (s : State) (h : HeldReq) : Verdict → State
  | .go =>
    let x := attempt s fun t => takeEffect t h
    if x.2 then x.1 else setWhy x.1 h.req .bank
  | .start => setWhy (startModes s h.req) h.req .modeChange
  | .fail st => answer (removeReq s h.req) h.req st []
  | .hold .quay => setWhy (wakeTouched s h.req) h.req .quay
  | .hold .bank => if h.req.isFinal then waitFinal s h else setWhy s h.req .bank
  | .hold why => setWhy s h.req why
  | .stay => s

/-- The held request of a port's tag. -/
def findReq (s : State) (p t : Nat) : Option HeldReq := s.host.reqs.find? fun h => h.req.port == p && h.req.hdr.tag == t

/-- One held request is served where it can be. -/
def tryReq (s : State) (gap : Bool) (pt : Nat × Nat) : State :=
  match findReq s pt.1 pt.2 with
  | some h => carryOut s h (verdict s h gap)
  | none => s

/-- Whether a held request other than a read can make progress. Reads are served by their own row (HELD_READ). -/
def canGo (s : State) (h : HeldReq) : Bool :=
  !h.req.isRd &&
    (match verdict s h false with
     | .hold _ | .stay => false
     | .go => (attempt s fun t => takeEffect t h).2
     | _ => true)

/-- Serves what can be served, oldest first; `n` bounds the requests. -/
def settleN : Nat → State → State
  | 0, s => s
  | n + 1, s =>
    match s.host.reqs.find? (canGo s) with
    | some h => settleN n (runOrders (carryOut s h (verdict s h false)))
    | none => s

/-- What the harbourmaster has had to leave while its cores stood still or a quay slept (R388, R415). -/
def firmwareGoesOn (s : State) : State := retryQuayStates (retrySweeps (replayDue s))

/-- What berth operations, sleeping quays and acknowledgements have held inside the harbour goes on where it can (R102, R316,
R388), and the resets whose responses have left begin (R394). -/
def goOn (s : State) : State :=
  tryAll (expStages (firmwareGoesOn (retryBatches (retryDue (retryFailing (applyHeld (runOrders s)))))))

/-- Serves what waits: what engines hold, and then the held requests other than reads that can be served, each of which begins
its mode change and takes effect once. -/
def settle (s : State) : State := let t := goOn s; settleN (2 * t.host.reqs.length) t

/-- Serves every held request that can be, reads among them, in order of arrival. -/
def serveAll (s : State) : State :=
  settle ((s.host.reqs.map fun h => (h.req.port, h.req.hdr.tag)).foldl (fun s' pt => tryReq s' false pt) s)

/-! ### Arrival -/

/-- Whether a host port carries requests. -/
def portUp (s : State) (p : Nat) : Bool :=
  decide (p < ports s.part) && fld s (rHbPortStat p) 0 0 == 1 &&
  (match s.pow.harbour with | .active | .mooring _ => true | _ => false)

/-- The revision seen on a port (Table 3-11). -/
def noteRev (s : State) (p : Nat) (rev2 : Bool) : State :=
  if rev2 then setFld s (rHbPortStat p) 2 2 1 else setFld s (rHbPortStat p) 1 1 1

/-- The answer to a pilot message that is not delivered (R60). DESIGN CHOICE: one whose LEN is not 2, which the spec gives no host
die, is answered UNMAPPED before its KIND is looked at (log entry 110; unsafe). -/
def pltRefusal (h : ReqHdr) (msg : BitVec 128) : Option Resp :=
  let kind := bits msg.toNat 7 0
  if h.len ≠ 2 then some .unmapped
  else if kind = 2 ∨ kind = 4 then some .denied
  else if kind ≠ 1 ∧ kind ≠ 3 then some .unmapped
  else none

/-- A pilot message of a host port (R59-R63): `lat` is its delivery time in ac. -/
def servePlt (s : State) (p : Nat) (h : ReqHdr) (msg : BitVec 128) (lat : Nat) : State :=
  match pltRefusal h msg with
  | some st => respond s p .pilot h.tag st []
  | none =>
    let kind := bits msg.toNat 7 0
    let s1 := bump s rPlStat 15 0 1
    let s2 := if fld s1 rPlStat 39 32 < lat then setFld s1 rPlStat 39 32 (min lat 255) else s1
    let s3 := if kind = 1 then
        let g := bits msg.toNat 25 16
        let s' := expireGate s2 g
        abortGate s' g 1 (bits msg.toNat 47 32) .here
      else snapOut s2
    let s4 := pilotArrive s3 msg false (some (p, h.tag))
    if (asleep s3).isEmpty then respond s4 p .pilot h.tag .ok [] else s4

/-! ### Credits that Zurax grants (R54, Table 3-5) -/

/-- Credits of a channel: of a host die for the pilot channel, and else of a port. -/
def creditTotal : Channel → Nat
  | .pilot => 4
  | .control => 64
  | .read => 256
  | .write => 128

/-- Credits that a request takes: a read or a pilot message one for its header, and a write one for each 256-byte flit of its
16-byte header and its payload (R54; log entry 101). -/
def reqCredits (kind : Option ReqKind) (len : Nat) : Nat :=
  match kind with
  | some .wr | some .wrr => ceilDiv (16 + 8 * len) 256
  | _ => 1

/-- Whether a message at a port's egress brings a pilot credit of its host die back as it leaves: the response of a PLT, one
refused for its reused tag among them, or what a Port reset has left of it (R53, R58, R61). -/
def bringsPilot (e : Egress) : Bool :=
  e.ch == .pilot && (match e.msg with | .resp _ _ _ | .pilotCredit => true | _ => false)

/-- Credits in use. A request holds its own until its buffer empties as it takes effect or is answered; a PLT holds its host
die's until its message is accepted and its response has left (R61; log entry 63). -/
def creditsUsed (s : State) (p : Nat) (ch : Channel) : Nat :=
  match ch with
  | .pilot =>
    (s.host.pilots.filter fun k => k.die == some (p / 32)).length +
    (s.host.egress.filter fun e => bringsPilot e && e.port / 32 == p / 32).length +
    (s.host.reused.filter fun r => r.2.2 == .pilot && r.1 / 32 == p / 32).length +
    (s.host.late.filter fun l => l.ch == .pilot && l.port / 32 == p / 32).length
  | _ =>
    ((s.host.reqs.filter fun h => h.req.port == p && h.req.channel s == ch).map fun h =>
      reqCredits (some h.req.kind) h.req.hdr.len).sum +
    ((s.host.late.filter fun l => l.port == p && l.ch == ch).map (·.cost)).sum

/-- Credits that the host die has left. -/
def creditsFree (s : State) (p : Nat) (ch : Channel) : Nat := creditTotal ch - creditsUsed s p ch

/-- The link layer refuses a flit that comes without a credit (R54). -/
def refuseFlit (s : State) (p : Nat) : State := emit (setFld s (rHbPortStat p) 4 4 1) (.linkRefused p)

/-- The answer to a request that its form alone decides, whatever its turn: a reserved opcode or a bad form (R11, R48, R50), or
a pilot message that is not delivered (R60). -/
def formAnswer (h : ReqHdr) (msg : BitVec 128) : Option Resp :=
  if badForm (kindOf h.opc) h then some .unmapped
  else match kindOf h.opc with
    | some .plt => pltRefusal h msg
    | _ => none

/-- A request that its form answers: at once, and in a harbour that moors after its wake (R390). -/
def answerForm (s : State) (p : Nat) (ch : Channel) (h : ReqHdr) (st : Resp) : State :=
  if s.pow.harbour = .active then respond s p ch h.tag st []
  else
    { s with host := { s.host with
        late := s.host.late ++ [{ port := p, tag := h.tag, ch := ch, st := st, cost := reqCredits (kindOf h.opc) h.len }] } }

/-- The answers that have waited for the wake (R390). -/
def serveLateReqs (s : State) : State :=
  s.host.late.foldl (fun s' l => respond s' l.port l.ch l.tag l.st []) { s with host := { s.host with late := [] } }

/-- A request reaches its port (R52-R54, R92). -/
def arrive (s : State) (p : Nat) (hdr : BitVec 128) (data : List Codeword) (msg : BitVec 128) (lat : Nat) : State :=
  let h := ReqHdr.ofBits hdr
  let ch := channelOf s (kindOf h.opc) h.addr
  if !portUp s p then s
  else if creditsFree s p ch < reqCredits (kindOf h.opc) h.len then refuseFlit s p
  else
    let s1 := noteRev s p h.rev2
    if (p, h.tag) ∈ s.host.tags then
      let s2 := setFld s1 (rHbPortStat p) 3 3 1
      { s2 with host := { s2.host with reused := s2.host.reused ++ [(p, h.tag, ch)] } }
    else
      let s2 := { s1 with host := { s1.host with tags := s1.host.tags ++ [(p, h.tag)] } }
      match formAnswer h msg, kindOf h.opc with
      | some st, _ => answerForm s2 p ch h st
      | none, none => s2
      | none, some .plt => servePlt s2 p h msg lat
      | none, some k =>
        let x : HeldReq := { req := { port := p, kind := k, hdr := h, data := data }, why := .order, served := [], bound := none }
        let s3 := { s2 with host := { s2.host with reqs := s2.host.reqs ++ [x] } }
        settle (carryOut s3 x (verdict s3 x false))

/-- A request whose opcode is one of a row's. -/
def arriveOpc (s : State) (p : Nat) (hdr : BitVec 128) (data : List Codeword) (opcs : List Nat) (final : Bool) : State :=
  let h := ReqHdr.ofBits hdr
  if h.opc ∈ opcs ∧ ((h.opc = 2 ∨ h.opc = 3) → h.final = final) then arrive s p hdr data 0 0 else s

/-- RD (R47). A reserved opcode is answered here too. -/
def execRd (p : Nat) (hdr : BitVec 128) (s : State) : Answer := .next (arriveOpc s p hdr [] [0, 1] false)

/-- RDA (R98). -/
def execRda (p : Nat) (hdr : BitVec 128) (s : State) : Answer := .next (arriveOpc s p hdr [] [4] false)

/-- WR without FINAL (R47, R100). -/
def execWr (p : Nat) (hdr : BitVec 128) (data : List Codeword) (s : State) : Answer :=
  .next (arriveOpc s p hdr data [2] false)

/-- WRR without FINAL (R97). -/
def execWrr (p : Nat) (hdr : BitVec 128) (data : List Codeword) (s : State) : Answer :=
  .next (arriveOpc s p hdr data [3] false)

/-- A WR or WRR with FINAL (R103). -/
def execFinalWrite (p : Nat) (hdr : BitVec 128) (data : List Codeword) (s : State) : Answer :=
  .next (arriveOpc s p hdr data [2, 3] true)

/-- ATM (R48). -/
def execAtm (p : Nat) (hdr : BitVec 128) (operands : List Word) (s : State) : Answer :=
  .next (arriveOpc s p hdr [codewordOf (bytesGrain (operands.flatMap fun w => leBytes 8 w.toNat))] [5] false)

/-- FNL (R51). -/
def execFnl (p : Nat) (hdr : BitVec 128) (s : State) : Answer := .next (arriveOpc s p hdr [] [6] false)

/-- PLT (R59, R60). -/
def execPlt (p : Nat) (hdr : BitVec 128) (msg : BitVec 128) (latency : Nat) (s : State) : Answer :=
  .next (if (ReqHdr.ofBits hdr).opc = 7 then arrive s p hdr [] msg latency else s)

/-- FLIT_WITHOUT_CREDIT: the link layer refuses the flit (R54). -/
def execFlitWithoutCredit (p : Nat) (s : State) : Answer :=
  .next (if portUp s p then refuseFlit s p else s)

/-- RESPONSE_CREDIT (R55). -/
def execResponseCredit (p : Nat) (ch : Channel) (s : State) : Answer :=
  .next <|
  if portUp s p then
    let c := creditsOf s p
    let s1 := pumpPort { s with host := { s.host with credits := tset s.host.credits p (c.set ch (c.get ch + 1)) } } p
    if s1.host.orders.isEmpty then s1 else settle s1
  else s

/-- LINK_REPLAY: a replay on a host port counts there, and a replay of a pilot message counts in PL_STAT (R62). -/
def execLinkReplay (link : LinkId) (pilot : Bool) (s : State) : Answer :=
  .next <|
  let count (s' : State) : State := if pilot then bumpMirror s' rPlStat 31 16 1 else s'
  match link with
  | .hostPort p => if portUp s p then count (bumpMirror s (rHbPortStat p) 31 16 1) else s
  | .quay q => if q < quays s.part ∧ s.pow.harbour = .active then count s else s

/-- HELD_READ: a held read whose cause has cleared is served (R57). -/
def execHeldRead (p : Nat) (tag : Nat) (s : State) : Answer :=
  .next <|
  match findReq s p tag with
  | some h => if h.req.isRd then settle (tryReq s false (p, tag)) else s
  | none => s

/-! ### Writes of registers, mode words and GO grains by name -/

/-- The header of a write to this harbour at a local address: tag, queue, engine and revision as given, WRR where the
header says so, no FINAL. -/
def writeHdr (hdr : BitVec 128) (a len : Nat) : BitVec 128 :=
  let v := hdr.toNat
  let opc := if bits v 66 64 = 3 then 3 else 2
  BitVec.ofNat 128 ((2 ^ 44 + a) + opc * 2 ^ 64 + bits v 91 67 * 2 ^ 67 + len * 2 ^ 92)

/-- A write of one register by a host port. -/
def hostRegWrite (s : State) (p : Nat) (hdr : BitVec 128) (off : Nat) (v : Word) : State :=
  if off % 8 = 0 ∧ off < 0x1000000 then
    arrive s p (writeHdr hdr (regBase + off) 1) [codewordOf (bytesGrain (leBytes 8 v.toNat))] 0 0
  else s

end Sys2Proof.Machine
end

