-- ==== Sys2Proof/Machine/BerthRows.lean ====
section
/-!
DEFINITION. The berth rows: mode changes, permits, the twelve operations of Table 14-8, duplicates, gaps, and the batch
commands with their merge (R281, R291, R296-R301, R311-R317, R337).
-/
namespace Sys2Proof.Machine

open Sys2Proof

/-- MODE_CHANGE: the change of a bank ends, and what waited for it goes on (R281). -/
def execModeChange (b : Nat) (s : State) : Answer :=
  .next (if (bankOf s b).changing.isSome then settle (endChange s b) else s)

/-- PERMIT_GRANT (R297). -/
def execPermitGrant (q : Nat) (s : State) : Answer := .next (settle (grantNext s q))

/-- An operation of one code runs to its end, and what it held goes on (R297, R316). -/
def berthRun (b op : Nat) (older : List Nat) (flips : List Flip) (s : State) : State := settle (runOp s b op older flips)

/-- MATVEC (R291). -/
def execMatvec (b : Nat) (older : List Nat) (flips : List Flip) (s : State) : Answer := .next (berthRun b 1 older flips s)

/-- DOT (R291). -/
def execDot (b : Nat) (older : List Nat) (flips : List Flip) (s : State) : Answer := .next (berthRun b 2 older flips s)

/-- SCALE (R291). -/
def execScale (b : Nat) (older : List Nat) (flips : List Flip) (s : State) : Answer := .next (berthRun b 3 older flips s)

/-- ADD (R291). -/
def execAdd (b : Nat) (older : List Nat) (flips : List Flip) (s : State) : Answer := .next (berthRun b 4 older flips s)

/-- MUL (R291). -/
def execMul (b : Nat) (older : List Nat) (flips : List Flip) (s : State) : Answer := .next (berthRun b 5 older flips s)

/-- ACT (R292). -/
def execAct (b : Nat) (older : List Nat) (flips : List Flip) (s : State) : Answer := .next (berthRun b 6 older flips s)

/-- REDUCE (R291). -/
def execReduce (b : Nat) (older : List Nat) (flips : List Flip) (s : State) : Answer := .next (berthRun b 7 older flips s)

/-- NORM_STAT (R293). -/
def execNormStat (b : Nat) (older : List Nat) (flips : List Flip) (s : State) : Answer := .next (berthRun b 8 older flips s)

/-- NORM_APPLY (R291). -/
def execNormApply (b : Nat) (older : List Nat) (flips : List Flip) (s : State) : Answer := .next (berthRun b 9 older flips s)

/-- SMAX_STAT (R294). -/
def execSmaxStat (b : Nat) (older : List Nat) (flips : List Flip) (s : State) : Answer := .next (berthRun b 10 older flips s)

/-- SMAX_APPLY (R291). -/
def execSmaxApply (b : Nat) (older : List Nat) (flips : List Flip) (s : State) : Answer := .next (berthRun b 11 older flips s)

/-- ATTN (R295). -/
def execAttn (b : Nat) (older : List Nat) (flips : List Flip) (s : State) : Answer := .next (berthRun b 12 older flips s)

/-- BERTH_DUPLICATE (R337). -/
def execBerthDuplicate (b : Nat) (first : List Flip) (second : List Flip) (s : State) : Answer :=
  .next (settle (duplicateOp s b first second))

/-! ### Gaps (R313, R314) -/

/-- Grains of a request that gaps of bank `b` have still to serve; 0 where the request goes on waiting. -/
def gapGrains (s : State) (b : Nat) (h : HeldReq) : Nat :=
  if sentAway s h.req ∨ h.req.isFinal then 0
  else
    match regionOf s.part h.req.a, verdict s h true with
    | some .dram, .go => gapLeft s h b
    | some .aperture, .go => gapLeft s h b
    | _, _ => 0

/-- Grains of a held request that gaps of a bank have served. -/
def addServed (s : State) (r : Request) (b n : Nat) : State :=
  { s with host := { s.host with reqs := s.host.reqs.map fun h =>
      if h.req.port = r.port ∧ h.req.hdr.tag = r.hdr.tag then
        { h with served := tset h.served b (tget h.served b 0 + n) } else h } }

/-- Serves the waiting accesses in order of arrival, up to 64 grains; what is left of one that reaches the bound is served in
later gaps, and it takes effect with its last grain, at whichever bank that lies (R313). -/
def serveGap (b : Nat) : List HeldReq → Nat → State → State
  | [], _, s => s
  | h :: t, used, s =>
    let g := min (gapGrains s b h) (64 - used)
    if g = 0 then serveGap b t used s
    else serveGap b t (used + g) (tryReq (addServed s h.req b g) false (h.req.port, h.req.hdr.tag))

/-- BUSY_BANK_ACCESS: a gap of a busy bank, at which the unit has written at least `work.written` result grains (R313, R315). -/
def execBusyBankAccess (b : Nat) (work : GapWork) (s : State) : Answer :=
  .next <|
  if bankRuns s b && bankAwake s b then
    let s1 := writeAhead s b work.written work.older
    settle (serveGap b s1.host.reqs 0 s1)
  else s

/-! ### BERTH_BATCH (R299) -/

def batchLayout : List Named :=
  [(8, 31, 0), (8, 33, 32), (8, 47, 40), (8, 55, 48), (9, 43, 0), (10, 43, 0), (11, 43, 0), (12, 43, 0), (12, 63, 63)]

/-- Bank and LOGIDX of a list entry. -/
def entryBank (v : Nat) : Nat := bits v 13 0
def entryIdx (v : Nat) : Nat := bits v 39 16

/-- Whether LOGIDX is strictly rising. -/
def risingIdx : List Nat → Bool
  | [] => true
  | [_] => true
  | a :: b :: t => decide (entryIdx a < entryIdx b) && risingIdx (b :: t)

/-- Whether a bank can take batch work: it is present, in COMPUTE mode, and does not change its mode. -/
def batchBank (s : State) (b : Nat) : Bool :=
  decide (b < 1024 * quays s.part) && bankMode s b && !(bankOf s b).changing.isSome

/-- Faults in the readable entries of a list. -/
def batchListBad (s : State) (p : CmdPkt) (es : List Nat) : Bool :=
  es.any (fun v => bits v 15 14 != 0 || bits v 63 40 != 0 || !batchBank s (entryBank v)) ||
  decide ((es.map entryBank).eraseDups.length < es.length) ||
  (bit (p.at 68 1) 0 && (((es.map fun v => entryBank v / 1024).eraseDups.length > 1) || !risingIdx es))

/-- The image of a batch as an operation, its unreadable bytes zero. -/
def batchImage (p : CmdPkt) (img : List (Option Byte)) : BOp :=
  { BOp.fresh (img.map (·.getD 0)) p.port p.seq none none 0 with unlocked := p.unlocked }

/-- Whether grain `g` of an image can be read; what lies beyond it reads as zero. -/
def imageReads (img : List (Option Byte)) (g : Nat) : Bool :=
  match img[32 * g]? with
  | some none => false
  | _ => true

/-- Whether the image has an operation that the part lacks (R286). -/
def batchOpBad (s : State) (nslots : Nat) (rd : Nat → Bool) (o : BOp) : Bool :=
  nslots != 0 && rd 0 && !opKnown s.part o.op

/-- BAD_PARAM faults of BERTH_BATCH. A check that needs a grain of the image that cannot be read is not made (R429). -/
def batchParams (s : State) (p : CmdPkt) (rd : Nat → Bool) (o : BOp) (es : List Nat) : List (Bool × Nat) :=
  let n := p.at 64 4
  let k := p.at 69 1
  let merge := bit (p.at 68 1) 0
  let mdst := p.at 88 8 % 2 ^ 44
  let rstat := p.at 96 8
  let norm := bit (p.at 68 1) 1
  [(decide (16384 < n) || decide (8 < k) || decide (4 < p.at 70 1), 8),
   (badSource s (p.at 72 8 % 2 ^ 44) (64 * k) ||
     (k != 0 && (o.badWhere rd || (rd 0 && merge && o.op != 12 && o.op != 7))), 9),
   (badSource s (p.at 80 8 % 2 ^ 44) (8 * n) || batchListBad s p es, 10),
   (merge && (mdst % 32 != 0 || (k != 0 && rd 0 && leavesRegion s mdst (mergedBytes o (p.at 70 1) norm))), 11),
   (bit rstat 63 && leavesRegion s (rstat % 2 ^ 44) (8 * n), 12)]

/-- DENIED of BERTH_BATCH (R299, R286). -/
def batchDenied (s : State) (p : CmdPkt) (rd : Nat → Bool) (o : BOp) (es : List Nat) : Bool :=
  let n := p.at 64 4
  let k := p.at 69 1
  let rstat := p.at 96 8
  es.any (fun v => !p.hasRight s rightBerth (berthBase + entryBank v * 0x400000) 0x240) ||
  readDenied s p (p.at 72 8 % 2 ^ 44) (64 * k) || readDenied s p (p.at 80 8 % 2 ^ 44) (8 * n) ||
  (bit rstat 63 && writeDenied s p (rstat % 2 ^ 44) (8 * n)) ||
  (k != 0 && (es.any (fun v => o.deniedWhere s (entryBank v) rd) ||
     (rd 0 && bit (p.at 68 1) 0 && writeDenied s p (p.at 88 8 % 2 ^ 44) (mergedBytes o (p.at 70 1) (bit (p.at 68 1) 1)))))

/-- The entries take their places (R299); a dozing quay of theirs wakes first (R388). -/
def startBatch (s0 : State) (cx : Nat) (r : Running) (image : List Byte) (es : List Nat) : State :=
  let s := es.foldl (fun s' v => wakeQuay s' (entryBank v / 1024)) s0
  let s1 := putCmd { s with berth := { s.berth with
      batches := tset s.berth.batches cx (es.map fun v => { bank := entryBank v, logidx := entryIdx v, code := none, written := 0 }),
      images := tset s.berth.images cx image } } cx { r with phase := .batch }
  es.zipIdx.foldl (fun s' v => takePlace s' (entryBank v.1) (entryOp r.pkt image cx v.2 (entryIdx v.1))) s1

/-- BERTH_BATCH (R299). It takes no place before every listed bank has one free. -/
def execBerthBatch (cx : Nat) (s : State) : Answer :=
  .next <| whole s fun s =>
  match turnOf s cx 0x0601 with
  | none => s
  | some r =>
    let p := r.pkt
    let n := p.at 64 4
    let k := p.at 69 1
    let ri := if 8 < k then (s, []) else readTable s (p.at 72 8 % 2 ^ 44) (64 * k)
    let rl := if 16384 < n then (ri.1, []) else readTable ri.1 (p.at 80 8 % 2 ^ 44) (8 * n)
    let o := batchImage p ri.2
    let rd := imageReads ri.2
    let es := (tableEntries rl.2 8 n).filterMap id
    if batchOpBad s k rd o then completeBad rl.1 cx stBAD_OPCODE 0
    else
      match checkFail p batchLayout (batchParams s p rd o es) [] (batchDenied s p rd o es) with
      | some (st, f) => completeBad rl.1 cx st f
      | none =>
        if n = 0 ∨ k = 0 then complete s cx stDONE_EMPTY 0
        else if tableBad ri.2 ∨ tableBad rl.2 then complete rl.1 cx stDATA_POISON 0
        else if es.all fun v => placeFree s (entryBank v) then settle (startBatch rl.1 cx r o.slots es) else s

/-! ### BERTH_MERGE (R300) -/

/-- The merged result reaches MDST; none where a partial is poisoned, and then every grain of it is poison. -/
def writeMerge (s : State) (mdst n : Nat) : Option (List Byte) → State
  | some bs => writeBytes s mdst bs
  | none => (grainsOf mdst n).foldl (fun s' a => storePoison s' (homeAddr s'.part a)) s

/-- The merge in the records of the quay's scheduler (Table 17-7). -/
def noteMerge (s : State) (q : Nat) (p : CmdPkt) : State :=
  { s with snap := { s.snap with merges := tset s.snap.merges q (tget s.snap.merges q 0 + 1),
                                 lastMerge := tset s.snap.lastMerge q (p.win, p.seq) } }

/-- BERTH_MERGE: every entry of a batch has ended (R296, R300). -/
def execBerthMerge (cx : Nat) (s : State) : Answer :=
  .next <| whole s fun s =>
  match batchCmd s cx with
  | none => s
  | some r =>
    if !(batchDone s cx && batchMerges s cx r) then s
    else
      let p := r.pkt
      let o := entryOp p (tget s.berth.images cx []) cx 0 0
      let l := tget s.berth.batches cx []
      let norm := bit (p.at 68 1) 1
      let z := ftzAt r.ftz clBerth
      let rd := readPartials o l s
      let s1 := noteMerge rd.1 (((l[0]?).map (·.bank)).getD 0 / 1024) p
      let mdst := p.at 88 8 % 2 ^ 44
      let n := mergedBytes o (p.at 70 1) norm
      if rd.2.1.isEmpty then settle (completeBatch s1 cx r false)
      else if rd.2.2 then settle (completeBatch (writeMerge s1 mdst n none) cx r true)
      else
        let m := (mergeBytes z o (p.at 70 1) norm rd.2.1).run 0
        settle (completeBatch (writeMerge (noteFlush s1 clBerth m.2) mdst n (some m.1)) cx r false)

/-! ### BERTH_CANCEL (R301) -/

/-- One entry that is not yet running leaves its place and ends with ABORTED. Counts the withdrawn. -/
def withdrawEntry (cx : Nat) (a : State × Nat) (b : Nat) : State × Nat :=
  let k := bankOf a.1 b
  let mine (o : BOp) : Bool := match o.batch with | some (c, _) => c == cx | none => false
  let leaveQueue : State × Nat :=
    match k.queued with
    | some o' => if mine o' then (closeOp (setBank a.1 b { k with queued := none }) b o' stABORTED 0 0 0 true, a.2 + 1) else a
    | none => a
  match k.run with
  | some o => if mine o ∧ o.phase = .waiting then (endRun a.1 b o stABORTED 0 0 0 true, a.2 + 1) else leaveQueue
  | none => leaveQueue

/-- The running batch that a window launched with a SEQ. -/
def findBatch (s : State) (w seq : Nat) : Option (Nat × Running) :=
  s.cmd.running.find? fun e => e.2.pkt.win == w && e.2.pkt.seq == seq && e.2.pkt.opcode == 0x0601 && e.2.phase == .batch

/-- Cancels a batch. Its cancelled mark keeps it from merging; it ends with its last entry, once its status array can be
written. -/
def cancelBatch (s : State) (cx : Nat) (r : Running) : State × Nat :=
  let s1 := putCmd s cx { r with recalled := true }
  let x := ((tget s1.berth.batches cx []).map (·.bank)).foldl (withdrawEntry cx) (s1, 0)
  (tryBatch x.1 cx, x.2)

/-- BERTH_CANCEL (R301). -/
def execBerthCancel (cx : Nat) (s : State) : Answer :=
  .next <|
  match turnOf s cx 0x0602 with
  | none => s
  | some r =>
    match checkFail r.pkt [(8, 7, 0), (8, 31, 16)] [] [] false with
    | some (st, f) => completeBad s cx st f
    | none =>
      match findBatch s (r.pkt.at 64 1) (r.pkt.at 66 2) with
      | none => complete s cx stDONE 0
      | some (c, rb) =>
        let x := cancelBatch s c rb
        settle (complete x.1 cx stDONE x.2)

end Sys2Proof.Machine
end

