-- ==== Sys2Proof/Machine/LandRows.lean ====
section
/-!
DEFINITION. The commands of manifests (R173, R179, R196), landed packets (R171-R187, R197), acknowledgements and their
timeouts (R172), finalisation and expiry (R176, R178, R188).
-/
namespace Sys2Proof.Machine

open Sys2Proof

/-- After anything lands: digests that came are judged and held requests that can go on do so. -/
def afterLanding (s : State) : State := settle (judgeAll s)

/-! ### MAN_OPEN (R173, R196) -/

/-- The named fields of MAN_OPEN. Those of Table 10-4 are read with KIND 2 only, but what that table marks reserved is reserved
for every KIND (R428). -/
def manOpenLayout : List Named :=
  [(8, 13, 0), (8, 31, 16), (8, 39, 32), (8, 40, 40), (8, 63, 48), (9, 31, 0), (10, 43, 0), (11, 43, 0), (12, 31, 0),
   (12, 57, 32), (13, 31, 0), (14, 31, 0), (14, 47, 32), (14, 48, 48), (15, 43, 0)]

/-- The manifest that a MAN_OPEN describes, OPEN with nothing landed. -/
def manOfPkt (s : State) (p : CmdPkt) : Manifest :=
  let kind := p.at 68 1
  let tally := kind = 1
  { gen := p.at 66 2, state := .opened, kind := kind, noTimeout := bit (p.at 69 1) 0, timeout := p.at 72 4, openTick := now s,
    extend := none, pset := p.at 70 2, base := if tally then 0 else p.at 80 8 % 2 ^ 44,
    bytes := if tally then 0 else p.at 88 8 % 2 ^ 44, contribs := if tally then p.at 96 4 else 0,
    first := if tally then p.at 100 4 % 2 ^ 26 else 0, count := if tally then p.at 104 4 else 0, landed := 0, win := p.win,
    token := BitVec.ofNat 64 p.token, seq := p.seq, opcode := p.opcode, cap := if kind = 2 then p.at 112 4 else 0,
    twidth := if kind = 2 then p.at 116 2 else 0, spill := kind == 2 && bit (p.at 118 1) 0,
    lading := if kind = 2 then p.at 120 8 % 2 ^ 44 else 0, fill := 0, nonfiniteFinal := false, tallied := false }

/-- A region that a data or token manifest may have. -/
def manRegionOk (s : State) (a n : Nat) : Bool := inHostDram s a n || (inBeacons a n && decide (a < gateBase))

/-- BAD_PARAM faults of MAN_OPEN with the units they name. -/
def manParams (s : State) (m : Nat) (x : Manifest) : List (Bool × Nat) :=
  let set := setOf? s x.pset
  let token := x.kind == 2
  let wide := token && x.twidth != 0
  [(decide (2 < x.kind) || !newer16 x.gen (manOf s m).gen, 8),
   (x.kind == 1 && (match set with | some y => y.isDispatch | none => true), 8),
   (token && x.pset != 65535 && set.isNone, 8),
   ((x.kind == 0 || token) && (x.base % 32 != 0 || !manRegionOk s x.base x.bytes), 10),
   ((x.kind == 0 || token) && x.bytes % 32 != 0, 11), (wide && x.bytes % tokenBytes x.twidth != 0, 11),
   (x.kind == 1 && decide (8388607 < x.contribs), 12),
   (x.kind == 1 && (match set with | some y => decide (y.total < x.first + x.count) | none => false), 12),
   (token && decide (1016 < x.twidth), 14), (wide && decide (x.tokens < x.cap), 14),
   (token && (x.lading % 32 != 0 || !inHostDram s x.lading (if wide then x.tokens * 32 else 0)), 15)]

/-- Whether a port lacks the write rights of a data or token manifest (R75). -/
def manDenied (s : State) (p : CmdPkt) (x : Manifest) : Bool :=
  (x.kind != 1 && !p.hasRight s rightWrite x.base x.bytes) ||
  (x.kind == 2 && x.twidth != 0 && !p.hasRight s rightWrite x.lading (x.tokens * 32))

/-- Whether the region or range of a new manifest meets that of another (R173). -/
def manClash (s : State) (m : Nat) (x : Manifest) : Bool :=
  (s.land.mans.any fun e => e.1 != m && x.kind != 1 && e.2.state == .opened && e.2.kind != 1 &&
    overlaps x.base x.bytes e.2.base e.2.bytes) ||
  ((s.land.mans ++ s.land.finalising).any fun e => x.kind == 1 && (e.2.state == .opened || e.2.state == .finalising) &&
    e.2.kind == 1 && e.2.pset == x.pset && overlaps x.first x.count e.2.first e.2.count)

/-- Whether a manifest is empty by a field that its KIND uses (R85, R87). -/
def Manifest.isEmpty (x : Manifest) : Bool :=
  if x.kind = 1 then x.contribs == 0 || x.count == 0 else x.bytes == 0 || (x.kind == 2 && x.twidth == 0)

/-- A zero-count manifest marks its range; consignments with an unreleased tally wait for the release (R182, R183). -/
def markRange (s : State) (x : Manifest) : State :=
  (upFrom x.first x.count).foldl (fun s' k =>
    match setOf? s' x.pset with
    | some y =>
      if y.finalised k then
        { s' with land := { s'.land with nextEntry := s'.land.nextEntry + 1,
                                         waitZero := s'.land.waitZero ++ [(s'.land.nextEntry, x.pset, k, 1)] } }
      else putSet s' x.pset (y.markZero k)
    | none => s') s

/-- A generation opens: an older one that is FINALISING goes on beside it, and spilled tokens of older ones are freed
(R175, R203). -/
def openMan (s : State) (m : Nat) (x : Manifest) : State :=
  let l := manOf s m
  let s1 := if l.state = .finalising then { s with land := { s.land with finalising := s.land.finalising ++ [(m, l)] } } else s
  noteMan (freeSpills (setMan s1 m x) m fun g => g != x.gen) m x.gen

/-- MAN_OPEN (R173, R196). -/
def execManOpen (cx : Nat) (s : State) : Answer :=
  .next <|
  match turnOf s cx 0x0201 with
  | none => s
  | some r =>
    let p := r.pkt
    let s0 := landTicks s
    let m := p.at 64 2 % 16384
    let x := manOfPkt s0 p
    match checkFail p manOpenLayout (manParams s0 m x) [] (manDenied s0 p x) with
    | some (st, f) => afterLanding (completeBad s0 cx st f)
    | none =>
      if (manOf s0 m).state = .opened ∨ manClash s0 m x then afterLanding (complete s0 cx stBUSY 0)
      else if 16384 ≤ manActive s0 then afterLanding (complete s0 cx stFULL 0)
      else if x.isEmpty then
        let s1 := openMan s0 m { x with state := .closed }
        let s2 := if x.kind = 1 ∧ x.contribs = 0 then markRange s1 x else s1
        afterLanding (unpark (complete s2 cx stDONE_EMPTY 0) m)
      else afterLanding (unpark (complete (openMan s0 m x) cx stDONE 0) m)

/-! ### MAN_CANCEL and MAN_QUERY (R179) -/

/-- The named generation, where the machine knows it. -/
def manNamed (s : State) (m g : Nat) : Option Manifest :=
  match finalisingOf s m g with
  | some x => some x
  | none => if (manOf s m).gen = g then some (manOf s m) else none

def manLayout : List Named := [(8, 13, 0), (8, 31, 16)]

/-- Whether something of a failed generation has still to take effect: its lading records or its held FINAL writes (R178, R199,
R316, R388). -/
def endOwed (s : State) (m g : Nat) : Bool :=
  finalsOwed s m g || s.land.failing.any fun f => f.1 == m && f.2.2.gen == g

/-- MAN_CANCEL (R179). It is held whole while something of the generation's end must wait (R74; log entry 14). -/
def execManCancel (cx : Nat) (s : State) : Answer :=
  .next <|
  match turnOf s cx 0x0202 with
  | none => s
  | some r =>
    let s0 := landTicks s
    match checkFail r.pkt manLayout [] [] false with
    | some (st, f) => afterLanding (completeBad s0 cx st f)
    | none =>
      let m := r.pkt.at 64 2 % 16384
      match manNamed s0 m (r.pkt.at 66 2) with
      | some x =>
        if x.state = .opened then
          let t := failMan s0 m false
          afterLanding (if endOwed t m x.gen then keepWakes s0 t else complete t cx stDONE x.landed)
        else if x.state = .finalising then afterLanding (complete s0 cx stBUSY 0)
        else afterLanding (complete s0 cx stDONE 0)
      | none => afterLanding (complete s0 cx stDONE 0)

/-- What MAN_QUERY answers. -/
def manCount : Option Manifest → Nat
  | some x => if x.state = .closed then x.announced else x.landed
  | none => 0

/-- MAN_QUERY (R179). -/
def execManQuery (cx : Nat) (s : State) : Answer :=
  .next <|
  match turnOf s cx 0x0203 with
  | none => s
  | some r =>
    let s0 := landTicks s
    match checkFail r.pkt manLayout [] [] false with
    | some (st, f) => afterLanding (completeBad s0 cx st f)
    | none => afterLanding (complete s0 cx stDONE (manCount (manNamed s0 (r.pkt.at 64 2 % 16384) (r.pkt.at 66 2))))

/-! ### Packets of bulk class -/

/-- LANDING_WRITE (R171, R174, R177). -/
def execLandingWrite (src : LandSrc) (hdr : BitVec 256) (payload : List Codeword) (s : State) : Answer :=
  .next (afterLanding (arriveBulk s src hdr payload tyWRITE))

/-- TOKEN_PACKET (R197, R198). -/
def execTokenPacket (src : LandSrc) (hdr : BitVec 256) (payload : List Codeword) (s : State) : Answer :=
  .next (afterLanding (arriveBulk s src hdr payload tyTOKEN))

/-- CONTRIB_PACKET (R170, R180-R183). -/
def execContribPacket (src : LandSrc) (hdr : BitVec 256) (payload : List Codeword) (s : State) : Answer :=
  .next (afterLanding (arriveBulk s src hdr payload tyCONTRIB))

/-- A REFUSE packet extends the deadline of its OPEN generation once (R185). -/
def refuseMsg (s : State) (p : Packet) : State :=
  let s1 := bump (landTicks s) rLdStat 63 48 1
  match genCase s1 p.hdr.manifest p.hdr.gen with
  | .opened x =>
    if x.extend.isNone then setMan s1 p.hdr.manifest { x with extend := some (fld s1 rLdCfg 63 56 * 1024) } else s1
  | _ => s1

/-- REFUSE_PACKET (R185). -/
def execRefusePacket (src : LandSrc) (hdr : BitVec 256) (payload : List Codeword) (s : State) : Answer :=
  .next (afterLanding (withPacket s src hdr payload (ofType tyREFUSE) refuseMsg))

/-! ### Acknowledgements (R172) -/

/-- Packets of a command that its homes refused (R204, Table 10-8). -/
def noteRefused (s : State) (cx n : Nat) (r : Running) : State :=
  let s1 := putCmd s cx { r with refused := r.refused + n }
  if r.pkt.opcode / 256 = 3 then
    bump { s1 with snap := { s1.snap with pktRefused := s1.snap.pktRefused + n } } rDsStat 47 32 n
  else s1

/-- What follows when the counts of a source have changed: waiting stages of exports, commands, digest exchanges and host
queues go on. -/
def sourceMoved (s : State) (key n : Nat) (refused : Bool) : State :=
  if key < 8388608 then s
  else
    let own (cx : Nat) : Bool := cmdSource cx == key
    let s1 := if refused then
        let a := (s.cmd.running.filter fun e => own e.1).foldl (fun s' e => noteRefused s' e.1 n e.2) s
        if 8388608 + 65216 ≤ key ∧ key < 8388608 + 65280 then endMissing a (key - 8388608 - 65216) else a
      else s
    tryAll (expStage s1 key)

/-- A count of a source whose timer has run ACK_TIMEOUT ticks is dropped (R172, R193). -/
def dropCount (s : State) (key : Nat) (final : Bool) : State :=
  let x := sourceOf s key
  let t := fld s rLdCfg 31 8
  let c := if final then x.final else x.plain
  let t0 := if final then x.tFinal else x.tPlain
  if c ≠ 0 ∧ t ≠ 0 ∧ expired s t0 t then
    let x1 := if final then { x with final := 0, flag := true } else { x with plain := 0, flag := true }
    sourceMoved (bump (setSource s key x1) rLdStat2 15 0 1) key 0 false
  else s

/-- An ACK acts on its source (R171, R172). -/
def ackMsg (s : State) (p : Packet) : State :=
  let key := srcKey p.hdr.source
  let n := p.hdr.arg / 256
  let refused : Bool := p.hdr.arg % 256 != akOK
  let s1 := dropCount (dropCount s key false) key true
  sourceMoved (countAck s1 p.hdr.source n refused) key n refused

/-- ACK_PACKET (R172). -/
def execAckPacket (src : LandSrc) (hdr : BitVec 256) (payload : List Codeword) (s : State) : Answer :=
  .next (afterLanding (withPacket s src hdr payload (ofType tyACK) ackMsg))

/-- ACK_TIMEOUT of one count of a source (R172). -/
def execAckTimeout (source : Nat) (final : Bool) (s : State) : Answer :=
  .next (afterLanding (dropCount s (srcKey source) final))

/-! ### Finalisation, expiry and holds -/

/-- One consignment of a finalising manifest; the poisoned tally grains that the tug reads are counted (R326). -/
def finaliseOne (s0 : State) (n k : Nat) : State :=
  match setOf? s0 n with
  | none => s0
  | some x =>
    let s := bump s0 (rInEccStat (homeQuay s0 k)) 47 32 (x.tallyBad k allParcels)
    let r := x.finaliseCon (ftzOf s clTug) k
    noteFlush (putSet s n { r.1 with sw := { r.1.sw with cFlush := r.1.sw.cFlush + r.2 } }) clTug r.2

/-- Whether ACTION 1 of the recall sequence finalises a manifest as non-finite: it was OPEN or FINALISING then, or belongs to
the round that the hold kept (R341). -/
def finalNan (s : State) (x : Manifest) : Bool :=
  x.nonfiniteFinal || (match setOf? s x.pset with | some y => y.nanRound == some y.ep.tround | none => false)

/-- Finalises the range of a manifest: as R188 gives, or as non-finite where the recall sequence ordered it (R341). -/
def finaliseRange (s : State) (m : Nat) (x : Manifest) : State :=
  let ks := upFrom x.first x.count
  let qs := (List.range (quays s.part)).filter fun q => ks.any fun k => homeQuay s k == q
  let s1 := qs.foldl (fun s' q =>
    { (rouse (wakeQuay s' q) (0x10 + q)) with snap := { s'.snap with tugMan := tset s'.snap.tugMan q (x.pset, m, x.gen) } }) s
  if finalNan s1 x then failRange s1 x else ks.foldl (fun s' k => finaliseOne s' x.pset k) s1

/-- MANIFEST_FINALISE: the tugs finalise a FINALISING manifest, and its FINAL writes are performed (R188); where only they are
left, they are tried again (R176). -/
def execManifestFinalise (m gen : Nat) (s : State) : Answer :=
  .next <|
  if s.pow.harbour != .active then s
  else
    match finalisingOf s m gen with
    | none => s
    | some x =>
      if (match setOf? s x.pset with | some y => y.held | none => false) then s
      else if x.tallied then afterLanding (finishMan s m gen)
      else afterLanding (whole s fun s => finishMan (finaliseRange s m x) m gen)

/-- MANIFEST_EXPIRY (R178). -/
def execManifestExpiry (m : Nat) (s : State) : Answer := .next (afterLanding (expireMan s m))

/-- PARK_TTL_EXPIRY (R186). -/
def execParkTtlExpiry (entry : Nat) (s : State) : Answer :=
  .next <|
  match s.land.entries.find? fun e => e.id == entry with
  | some e => afterLanding (expirePark s e)
  | none => s

/-! ### Packets that came while the harbour moored (R390) -/

/-- The state that a row leaves; every row of this file answers one. -/
def Answer.state (s : State) : Answer → State
  | .next t => t
  | _ => s

/-- A packet of any type reaches the landing engine, as its own row would take it. -/
def landAny (s : State) (src : LandSrc) (hdr : BitVec 256) (payload : List Codeword) : State :=
  let p : Packet := { hdr := PktHdr.ofBits hdr, payload := payload }
  let msg := ((gateMsgOf p).map (·.msg)).getD 0
  let row : LandSrc → BitVec 256 → List Codeword → State → Answer :=
    match p.hdr.type with
    | 1 => execTokenPacket
    | 2 => execContribPacket
    | 3 => execAckPacket
    | 4 => if msg = 1 then execGateReleaseMsg else if msg = 2 then execGateAbortMsg else execGateArrivalMsg
    | 5 => execPilotPacket
    | 6 => execNormPacket
    | 8 => execRefusePacket
    | _ => execLandingWrite
  (row src hdr payload s).state s

/-- Whether such a packet waits on: one of bulk class whose port's hold is full, or that stands behind another one that waits at
its port. Packets of the control class never wait (R165, R187). -/
def lateWaits (s : State) (x : LandSrc × BitVec 256 × List Codeword) : Bool :=
  match x.1 with
  | .port n => decide ((PktHdr.ofBits x.2.1).type < 3) && (decide (32 ≤ (holdOf s n).length) || s.land.late.any (·.1 == x.1))
  | .loop _ => false

/-- Serves them in order of arrival, but for those that wait on. -/
def serveLateList : List (LandSrc × BitVec 256 × List Codeword) → State → State
  | [], s => s
  | x :: t, s =>
    serveLateList t (if lateWaits s x then { s with land := { s.land with late := s.land.late ++ [x] } }
      else landAny s x.1 x.2.1 x.2.2)

/-- Packets that came while the harbour moored are served (R390). -/
def serveLate (s : State) : State :=
  if landUp s then serveLateList s.land.late { s with land := { s.land with late := [] } } else s

/-- ANCHORAGE_HOLD_RELEASE (R187): a packet of a port's hold lands; port 8 stands for parked packets whose generation has
opened. -/
def execAnchorageHoldRelease (port : Nat) (s : State) : Answer :=
  .next (if landUp s then serveLate (afterLanding (releaseHold (landTicks s) port)) else s)

end Sys2Proof.Machine
end

