-- ==== Sys2Proof/Machine/Power.lean ====
section
/-!
DEFINITION. Power states, throttling, permit pools, wakes and moorings, the sources of resets, the clock's events
(chapter 18, R20, R309, R310), and the logbook commands (R407, R408).
-/
namespace Sys2Proof.Machine

open Sys2Proof

/-- Whether the harbour is Active. -/
def isActive (s : State) : Bool := s.pow.harbour == .active

/-- Whether the part has supply. -/
def isOn (s : State) : Bool := s.pow.harbour != .off

/-! ### QUAY_STATE (R387, R392) -/

/-- QUAY_STATE (R387). -/
def execQuayState (cx : Nat) (s : State) : Answer :=
  .next <|
  match turnOf s cx 0x0A01 with
  | none => s
  | some r =>
    let mask := r.pkt.at 64 2
    match checkFail r.pkt [(8, 15, 0), (8, 23, 16)] [(decide (1 < r.pkt.at 66 1 ∨ 2 ^ quays s.part ≤ mask), 8)] [] false with
    | some (st, f) => completeBad s cx st f
    | none => if mask = 0 then complete s cx stDONE_EMPTY 0 else settle (applyQuayState s cx r)

/-- Requests held for sleeping quays are tried in order of arrival (R388). -/
def serveQuayHeld (s : State) : State :=
  ((s.host.reqs.filter fun h => h.why == .quay).map fun h => (h.req.port, h.req.hdr.tag)).foldl (fun s' pt => tryReq s' false pt) s

/-- QUAY_WAKE: a waking quay is Active; the lanes of its link that failed their training are retired (R347), kept pilot messages
come first, then held requests in order of arrival (R388, Table 18-4). -/
def execQuayWake (q : QuayUp) (s : State) : Answer :=
  .next <|
  if isActive s ∧ q.quay ∈ s.pow.waking then
    settle (serveQuayHeld (retryQuayStates (quayActive (q.failed.foldl (fun s' l => retireLink s' q.quay l) s) q.quay)))
  else s

/-! ### HARBOUR_MOOR and the mooring (R389-R391) -/

/-- What keeps the harbour from mooring (R130, R192, R389). -/
def moorBusy (s : State) (cx : Nat) : Bool :=
  gatesInProgress s != 0 || manActive s != 0 || !s.land.entries.isEmpty ||
  (s.land.sources.any fun e => e.2.plain != 0 || e.2.final != 0) ||
  (s.cmd.wins.any fun e => !e.2.pend.isEmpty) || (s.cmd.running.any fun e => e.1 != cx) ||
  (s.berth.banks.any fun e => bankBusy e.2) || (s.sets.any fun e => e.2.sw.phase != .idle) ||
  !s.exp.waiting.isEmpty || !s.pow.waking.isEmpty

/-- The mooring begins with the reply (R390). -/
def beginMooring (s : State) (retain : Bool) : State :=
  { s with pow := { s.pow with harbour := .mooring retain, mooredTick := now s, moorReply := none } }

/-- HARBOUR_MOOR (R389). A reply held for a full ring puts the mooring off until it is posted. -/
def execHarbourMoor (cx : Nat) (s : State) : Answer :=
  .next <|
  match turnOf s cx 0x0A02 with
  | none => s
  | some r =>
    match checkFail r.pkt [(8, 0, 0), (9, 47, 0)] [] [] false with
    | some (st, f) => completeBad s cx st f
    | none =>
      if moorBusy s cx then complete s cx stBUSY 0
      else
        let retain := bit (r.pkt.at 64 1) 0
        let n := (winOf s r.pkt.win).held.length
        let s1 := complete { s with pow := { s.pow with wakeAfter := r.pkt.at 72 6 } } cx stDONE 0
        if n < (winOf s1 r.pkt.win).held.length then { s1 with pow := { s1.pow with moorReply := some retain } }
        else beginMooring s1 retain

/-- What mooring loses and keeps: the registers of columns lost, the quay SRAMs unless RETAIN is set, the berth units, the
engines' working state (R390, R391, Table 18-7). -/
def moorNow (s : State) (retain : Bool) : State :=
  let hi := qsramBase + regionSize s.part .qsram
  let s1 := loseRegs s [] 2
  let s2 := { s1 with
    mem := if retain then s1.mem else memClear s1.mem qsramBase hi,
    chk := if retain then s1.chk else tclear s1.chk qsramBase hi,
    berth := BerthSt.reset, disp := { s1.disp with prod := 0 }, exp := { s1.exp with contexts := [] },
    walk := { s1.walk with powerHeld := [] }, land := { s1.land with stopped := true },
    pow := { s1.pow with harbour := .moored retain, doze := List.range (quays s1.part), waking := [], idleEngines := [],
                         idleBerths := [] } }
  bump s2 rPwState 47 40 1

/-- MOORING: quays doze, banks return to MEMORY, quay SRAM is kept only with RETAIN, and the fields lost at Moored take
their reset values (R390, R398). -/
def execMooring (s : State) : Answer :=
  .next <|
  match s.pow.harbour with
  | .mooring retain =>
    moorNow s retain
  | _ => s

/-- HOST_WAKE_LINE: the wake line of a host die's bond (R391). -/
def execHostWakeLine (die : Nat) (s : State) : Answer := .next (if die < ports s.part / 32 then recordWake s 1 else s)

/-- FABRIC_WAKE: the wake signal of a landing port (R391). -/
def execFabricWake (port : Nat) (s : State) : Answer := .next (if port < 8 then recordWake s 2 else s)

/-- WAKE_AFTER_EXPIRY (R391). -/
def execWakeAfterExpiry (s : State) : Answer :=
  .next (if s.pow.wakeAfter ≠ 0 ∧ expired s s.pow.mooredTick s.pow.wakeAfter then recordWake s 4 else s)

/-- The harbour is Active again: the quay links are trained, every quay is awake, the pilot messages kept are applied, and the
ports train (R392, Table 18-5). -/
def wakeHarbour (s : State) : State :=
  trainPorts (applyPilots (trainLinks { s with pow := { s.pow with
    harbour := .active, doze := [], waking := [], harbourWaking := false, wakeAfter := 0, warmAfter := none,
    resetsAfter := [] } })
    (List.range (quays s.part)))

/-- HARBOUR_WAKE: the harbour is Active; the resets that woke it then proceed, and what came while it moored is served (R390,
R391, R393, Table 18-5). -/
def execHarbourWake (s : State) : Answer :=
  .next <|
  match s.pow.harbour, s.pow.harbourWaking with
  | .moored _, true =>
    match s.pow.warmAfter with
    | some (keep, ref) => warmNow (wakeHarbour s) keep ref
    | none => serveAll (serveLate (serveLateReqs (s.pow.resetsAfter.foldl kindReset (wakeHarbour s))))
  | _, _ => s

/-! ### Supply and resets (R393-R397) -/

/-- POWER_ON: the boot of a part that had no supply or has not booted (R402). -/
def execPowerOn (ref : Bool) (s : State) : Answer :=
  .next (if !isOn s ∨ fld s rHbBootStat 2 0 = 0 then coldReset s ref else s)

/-- COLD_RST_N (R393). -/
def execColdRstN (ref : Bool) (s : State) : Answer := .next (if isOn s then coldReset s ref else s)

/-- WARM_RST_N: KEEP_PIN says whether DRAM is kept (R394). -/
def execWarmRstN (ref : Bool) (s : State) : Answer := .next (warmReset s (fld s rPwReset 16 16 == 1) ref)

/-- WARM_RESET: PW_RESET KIND 4 (R395). -/
def execWarmReset (ref : Bool) (s : State) : Answer := .next (warmReset s false ref)

/-- WARM_RESET_KEEP: PW_RESET KIND 5 (R395). -/
def execWarmResetKeep (ref : Bool) (s : State) : Answer := .next (warmReset s true ref)

/-- A reset of one engine, port or quay; a harbour that is moored, or on its way there, wakes first (R393). -/
def narrowReset (s : State) (kind target : Nat) : State :=
  if isActive s then settle (kindReset s (kind, target)) else orderReset s 1 (kind, target)

/-- ENGINE_RESET (R393, R394). -/
def execEngineReset (e : Nat) (s : State) : Answer := .next (narrowReset s 1 e)

/-- PORT_RESET, by the host die over its bond (R58, R393). -/
def execPortReset (p : Nat) (s : State) : Answer := .next (narrowReset s 2 p)

/-- QUAY_RESET (R396). -/
def execQuayReset (q : Nat) (s : State) : Answer := .next (narrowReset s 3 q)

/-- SUPPLY_REMOVAL (R385). -/
def execSupplyRemoval (s : State) : Answer := .next (removeSupply s)

/-- LOCKSTEP_MISMATCH: ALERT, and a restart (R79). -/
def execLockstepMismatch (s : State) : Answer :=
  .next <|
  if isActive s ∧ fld s rHbHmStat 0 0 = 1 then settle (restartHm (raiseAlert (setFld s rHbHmStat 1 1 1) 0)) else s

/-! ### The harbour die's power and temperature (R383, R384) -/

/-- THROTTLE after an interval of mean power `mw` at level `l` (R383). -/
def nextThrottle (cap mw l : Nat) : Nat :=
  if cap < mw then min 7 (l + 1) else if mw * 100 < cap * 95 then l - 1 else l

/-- Whether every reading of the interval that has ended stayed below TRIP_C - 5 (R384; log entry 111). -/
def belowTrip (s : State) (readings : List Nat) : Bool := readings.all fun c => decide (c + 5 < fld s rPwCap 63 56)

/-- Whether a quay drew more than its cap in the interval that has ended, with a pool of 0, so that its crane holds on whatever
TRIPPED does (R20). -/
def overCap (s : State) (q : Nat) : Bool :=
  decide (fld s rPwCap 16 0 < fld s (rPwQuayStat q) 16 0) && (permitsOf s q).pool == 0

/-- What the harbour die measured over an interval, and whether TRIPPED clears at its boundary (R384). -/
def throttleMeasure (s : State) (mw tempC : Nat) (quayC : List Nat) : State :=
  let s1 := if fld s rPwHbStat 20 18 = 0 then s else bump s rPwHbStat 63 48 1
  let s2 := setFld (setFld s1 rPwHbStat 17 0 (min mw 262143)) rPwHbStat 39 32 (min tempC 255)
  if fld s2 rPwHbStat 21 21 = 1 ∧ belowTrip s2 (tempC :: quayC) then
    let s3 := setFld s2 rPwHbStat 21 21 0
    { s3 with walk := { s3.walk with powerHeld := s3.walk.powerHeld.filter (overCap s3) } }
  else s2

/-- One 400 wt interval of the harbour: its measurements and TRIPPED, and the level that the harbourmaster gives the next
interval (R383, R384). -/
def throttleStep (s : State) (mw tempC : Nat) (quayC : List Nat) : State :=
  let s1 := throttleMeasure s mw tempC quayC
  if fld s1 rPwHbStat 21 21 = 1 then setFld s1 rPwHbStat 20 18 7
  else if hmRuns s1 then setFld s1 rPwHbStat 20 18 (nextThrottle (fld s1 rPwCap 49 32) mw (fld s rPwHbStat 20 18))
  else s1

/-- HARBOUR_THROTTLE at a 400 wt boundary, from the harbour die's mean power and highest reading, and the highest readings that
the dies of the quays gave in the interval (R383, R384). -/
def execHarbourThrottle (mw tempC : Nat) (quayC : List Nat) (s : State) : Answer :=
  .next (if isActive s then throttleStep s mw tempC quayC else s)

/-- Every permit pool is 0 (R384). -/
def zeroPools (s : State) : State :=
  { s with berth := { s.berth with permits := s.berth.permits.map fun e => (e.1, { e.2 with pool := 0 }) } }

/-- TEMPERATURE_TRIP: a die reading reaches TRIP_C (R384). -/
def execTemperatureTrip (reading : Nat) (s : State) : Answer :=
  .next <|
  if isActive s ∧ fld s rPwCap 63 56 ≤ reading then
    let s1 := zeroPools (setFld (setFld (raiseAlert s 2) rPwHbStat 21 21 1) rPwHbStat 20 18 7)
    ((List.range (quays s1.part)).filter fun q => q ∉ s1.walk.powerHeld).foldl holdCrane s1
  else s

/-! ### Permit pools (R309, R310, R20) -/

/-- The pool of R309. -/
def poolOf (cap margin permit poolMax derate stop otherMw tempC : Nat) : Nat :=
  let b : Int := (cap : Int) - margin - otherMw
  let b1 : Int :=
    if stop ≤ tempC then 0
    else if derate < tempC then (b * ((stop : Int) - tempC)).fdiv ((stop : Int) - derate)
    else b
  min (b1.fdiv permit).toNat (min 256 poolMax)

/-- What a quay measured over an interval (Tables 15-5 and 18-14). -/
def measureQuay (s : State) (q : Nat) (m : QuayMeas) : State :=
  let st := rBtPermitStat q
  let pq := rPwQuayStat q
  let hot := decide (fld s (rBtPermitCfg q) 63 56 ≤ m.tempC)
  let s1 := setFld (setFld (setFld s st 11 11 (b2n hot)) st 31 16 (min m.otherMw 65535)) st 39 32 (min m.tempC 255)
  let s2 := setFld (setFld s1 pq 16 0 (min m.quayMw 131071)) pq 31 24 (min m.tempC 255)
  if fld s rPwCap 16 0 < m.quayMw then bump s2 pq 47 32 1 else s2

/-- The pool that the harbourmaster gives a quay at an interval boundary (R309, R384). -/
def newPool (s : State) (q : Nat) (m : QuayMeas) : State :=
  let cfg (hi lo : Nat) : Nat := fld s (rBtPermitCfg q) hi lo
  let pool := if fld s rPwHbStat 21 21 = 1 then 0
    else poolOf (fld s rPwCap 16 0) (cfg 45 32) (cfg 27 16) (cfg 8 0) (cfg 55 48) (cfg 63 56) m.otherMw m.tempC
  let s1 := if pool = 0 then bump s (rBtPermitStat q) 63 48 1 else s
  setPermits s1 q { permitsOf s1 q with pool := pool, fallback := false, sizedTick := now s1 }

/-- The hold of a quay's crane at an interval boundary (R20, R384): a new one where the quay drew more than its cap with a pool
of 0, or TRIPPED is set. -/
def boundaryHold (s : State) (q : Nat) (m : QuayMeas) : State :=
  if fld s rPwHbStat 21 21 = 1 ∨ (fld s rPwCap 16 0 < m.quayMw ∧ (permitsOf s q).pool = 0) then holdCrane s q
  else { s with walk := { s.walk with powerHeld := s.walk.powerHeld.filter (· != q) } }

/-- One quay at an interval boundary: its measurements, its new pool while the harbourmaster runs, and its crane's hold. -/
def sizeQuay (s : State) (q : Nat) (m : QuayMeas) : State :=
  let s1 := measureQuay s q m
  boundaryHold (if hmRuns s1 then newPool s1 q m else s1) q m

/-- A dozing quay, or one without a measurement, at an interval boundary: it takes no part in sizing (R388), and a hold of its
crane ends with its interval (R20). -/
def skipQuay (s : State) (q : Nat) : State :=
  if fld s rPwHbStat 21 21 = 1 then s
  else { s with walk := { s.walk with powerHeld := s.walk.powerHeld.filter (· != q) } }

/-- Sizes the pool of every quay that is awake and was measured. -/
def sizePools (s : State) (meas : List QuayMeas) : State :=
  (List.range (quays s.part)).foldl (fun s' q =>
    if q ∈ asleep s' then skipQuay s' q
    else
      match meas[q]? with
      | some m => sizeQuay s' q m
      | none => skipQuay s' q) s

/-- PERMIT_POOL_SIZING at a 400 wt boundary, from each quay's measurements (R309, R388). -/
def execPermitPoolSizing (meas : List QuayMeas) (s : State) : Answer := .next (if isActive s then sizePools s meas else s)

/-- PERMIT_POOL_FALLBACK: no new pool for 800 wt; `tempC` is the quay's own reading (R310). -/
def execPermitPoolFallback (q : Nat) (tempC : Nat) (s : State) : Answer :=
  .next <|
  let p := permitsOf s q
  if isActive s ∧ q < quays s.part ∧ q ∉ asleep s ∧ expired s p.sizedTick 800 then
    let hot := decide (fld s (rBtPermitCfg q) 63 56 ≤ tempC)
    let pool := if hot ∨ fld s rPwHbStat 21 21 = 1 then 0 else min 16 (fld s (rBtPermitCfg q) 8 0)
    setPermits (setFld s (rBtPermitStat q) 11 11 (b2n hot)) q { p with pool := pool, fallback := true }
  else s

/-! ### The watch clock and the reference (R375-R379) -/

/-- WATCH_WRAP: TICK passes from its largest value to 0 and the wrap is counted (R379). -/
def execWatchWrap (s : State) : Answer := .next (if now s + 1 = tickMod then watchTick s else s)

/-- REF_LOSS: ALERT, a Port reset of each host port, and each landing port stops; what has not taken effect is lost (R375). -/
def execRefLoss (s : State) : Answer :=
  .next <|
  if isOn s ∧ fld s rHbClk 0 0 = 1 then
    let s1 := raiseAlert (bump (setFld s rHbClk 0 0 0) rHbClk 47 40 1) 1
    let s2 := (List.range (ports s1.part)).foldl portReset s1
    settle { s2 with land := { s2.land with stopped := true, holds := [], late := [] } }
  else s

/-- REF_RETURN: the ports train again (R375). -/
def execRefReturn (s : State) : Answer :=
  .next (if isOn s ∧ fld s rHbClk 0 0 = 0 then trainPorts (setFld s rHbClk 0 0 1) else s)

/-- WATCH_TRIM_CONVERGED: `offset` is what matches the oscillator to the reference as it is, in units of 0.1 ppm; the offset
that REF_SPREAD declares corrects it upwards (R377; log entry 106). -/
def execWatchTrimConverged (offset : BitVec 16) (s : State) : Answer :=
  .next <|
  if isOn s ∧ fld s rHbClk 0 0 = 1 then
    setFld (setFld s rHbClk 2 2 1) rHbClk 39 24 ((offset.toNat + 10 * fld s rHbClk 20 8) % 65536)
  else s

/-! ### Idle (R385, R386) -/

/-- Whether an engine of Table 6-7 has no work. -/
def engineQuiet (s : State) (e : Nat) : Bool :=
  if e < 0x10 then inFlight s e == 0 && s.walk.set.isNone
  else if e < 0x20 then !(s.land.mans.any fun m => m.2.state == .finalising) && s.land.finalising.isEmpty
  else if e < 0x30 then (permitsOf s (e % 16)).waiting.isEmpty && (permitsOf s (e % 16)).holders.isEmpty
  else if e = 0x30 then s.land.holds.isEmpty && s.land.loop.isEmpty
  else if e = 0x31 then !(s.cmd.running.any fun r => r.2.pkt.opcode / 256 == 3)
  else if e = 0x32 then s.exp.waiting.isEmpty && !(s.cmd.running.any fun r => r.2.pkt.opcode / 256 == 5)
  else hmTaken s == 0

/-- IDLE_ENTRY: an engine or berth unit without work gates its clocks; no value and no order changes (R385, R386). -/
def execIdleEntry (u : IdleUnit) (s : State) : Answer :=
  .next <|
  match u with
  | .engine e =>
    if isActive s ∧ engineListed e ∧ !engineAbsent s e ∧ engineQuiet s e then
      { s with pow := { s.pow with idleEngines := insertNew s.pow.idleEngines e } }
    else s
  | .berth b =>
    if isActive s ∧ b < banksOf s.part ∧ !bankBusy (bankOf s b) then
      { s with pow := { s.pow with idleBerths := insertNew s.pow.idleBerths b } }
    else s

/-! ### The logbook (R407, R408) -/

/-- The LB bits of a register that a copy holds. -/
def capturedBits (s : State) (off : Nat) : Nat :=
  match regAt off with
  | none => 0
  | some (r, i) =>
    let v := if r.name.perSet && r.name != .hbReplPeer then (match setOf? s i with | some x => setReg s r.name i x | none => 0)
      else regW s off
    v &&& r.maskOf fun f => f.lb && !r.mirrored f

/-- The registers whose LB fields are held by a set. -/
def setOffsets (n : Nat) : List Nat := [rHbPsetLs n, rHbPsetNorm n, rHbPsetRepl n]

/-- The configuration in force (R407, R423). -/
def captureConfig (s : State) : CfgSave :=
  { regs := (s.regs.map (·.1) ++ s.sets.flatMap fun e => setOffsets e.1).foldl
      (fun t off => tput t off (BitVec.ofNat 64 (capturedBits s off)) 0) [],
    arenas := s.sets.foldl (fun t e => tset t e.1 e.2.base) [] }

/-- The sequence number of the copy that a save writes (R407; log entry 64). -/
def nextSeq (s : State) : Nat := ((copyInUse s.boot).seq.toNat + 1) % 2 ^ 64

/-- Writes a capture into the copy that is not the one in use; until its CRC is written it is not valid (R407). -/
def writeCopy (s : State) (q : CfgSave) (valid : Bool) : State :=
  let c : CfgCopy := { valid := valid, seq := BitVec.ofNat 64 (nextSeq s), regs := q.regs, arenas := q.arenas }
  { s with boot := if s.boot.useB then { s.boot with copyA := c } else { s.boot with copyB := c } }

/-- Whether a CONFIG_SAVE taken earlier has not ended: they run one at a time, in the order in which they were taken (R407). -/
def saveBefore (s : State) (cx : Nat) : Bool := s.cmd.running.any fun e => e.2.pkt.opcode == 0x0B01 && decide (e.1 < cx)

/-- CONFIG_SAVE (R407): it captures and writes the copy, and at its next turn writes the CRC. A reset or restart between the two
leaves the copy invalid. -/
def execConfigSave (cx : Nat) (s : State) : Answer :=
  .next <|
  match (cmdOf? s cx).map Running.phase with
  | some (.save q) =>
    if hmRuns s then
      let seq := nextSeq s
      let s1 := writeCopy s q true
      complete { s1 with boot := { s1.boot with useB := !s1.boot.useB } } cx stDONE seq
    else s
  | _ =>
    match turnOf s cx 0x0B01 with
    | none => s
    | some r =>
      match checkFail r.pkt [] [] [] false with
      | some (st, f) => completeBad s cx st f
      | none =>
        if saveBefore s cx then s
        else putCmd (writeCopy s (captureConfig s) false) cx { r with phase := .save (captureConfig s) }

/-! ### What the logbook holds (R346, R408) -/

/-- Bytes of the logbook beside the configuration copies and the ring of detection records: it has 512 KiB (R14). -/
def logbookRest : Nat := 524288 - 2 * 8192 - 8192 * 16

/-- Bytes of a logbook area: those whose size is free share what the others leave of the logbook (R14, R346, R408; log entry
9). -/
def areaSize (area : Nat) : Nat :=
  let a2 := min logbookRest (Config.logbookArea 2).val
  let a4 := min (logbookRest - a2) (Config.logbookArea 4).val
  match area with
  | 0 | 1 => 8192
  | 2 => a2
  | 3 => 8192 * 16
  | 4 => a4
  | n => min (logbookRest - a2 - a4) (Config.logbookArea n).val

/-- Register values by offset. -/
def regBytes (t : Table Word) : List Byte := t.flatMap fun e => leBytes 4 e.1 ++ leBytes 8 e.2.toNat

/-- A configuration copy: its sequence number, LB fields and arena bases. -/
def copyBytes (c : CfgCopy) : List Byte :=
  leBytes 1 (b2n c.valid) ++ leBytes 8 c.seq.toNat ++ regBytes c.regs ++ c.arenas.flatMap fun e => leBytes 1 e.1 ++ leBytes 6 e.2

/-- The unit of a detection record. -/
def unitBytes : UnitId → List Byte
  | .lane q l => leBytes 1 0 ++ leBytes 1 q ++ leBytes 2 l
  | .berth b => leBytes 1 1 ++ leBytes 1 0 ++ leBytes 2 b
  | .linkLane q l => leBytes 1 2 ++ leBytes 1 q ++ leBytes 2 l

/-- The fields of a detection record (R346). -/
def detectionBytes (d : Detection) : List Byte :=
  unitBytes d.unit ++ leBytes 1 d.kind ++ leBytes 8 d.count ++ leBytes 4 d.hash.toNat ++ leBytes 6 d.tick ++ leBytes 4 d.wraps

/-- What the logbook holds for a byte of an area: of the ring of detection records, one record, in the order of their age. -/
def logbookHeld (s : State) (area off : Nat) : List Byte :=
  match area with
  | 0 => copyBytes s.boot.copyA
  | 1 => copyBytes s.boot.copyB
  | 2 => s.boot.journal.flatMap fun e => leBytes 1 e.pset ++ epochBytes e.word
  | 3 => match s.integ.detections[off / 16]? with | some d => detectionBytes d | none => []
  | 4 => s.integ.repaired.flatMap fun e => leBytes 2 e.1 ++ e.2.flatMap (leBytes 2)
  | _ => regBytes s.boot.mirrors

/-- A byte of a logbook area: how its layout spells what the logbook holds is not given (R408; log entry 9). -/
def logbookAt (s : State) (area off : Nat) : Byte :=
  Config.logbookByte area (if area = 3 then off % 16 else off) (logbookHeld s area off)

/-- LOGBOOK_READ (R408). -/
def execLogbookRead (cx : Nat) (s : State) : Answer :=
  .next <| whole s fun s =>
  match turnOf s cx 0x0B02 with
  | none => s
  | some r =>
    let p := r.pkt
    let area := p.at 64 1
    let off := p.at 68 4
    let n := p.at 72 4
    let dst := p.at 80 8 % 2 ^ 44
    let params := [(decide (5 < area) || decide (areaSize area < off + n), 8),
      (decide (dst % 32 ≠ 0) || !inSoftware s dst n, 10)]
    match checkFail p [(8, 7, 0), (8, 63, 32), (9, 31, 0), (10, 43, 0)] params [] (!p.hasRight s rightWrite dst n) with
    | some (st, f) => completeBad s cx st f
    | none =>
      if n = 0 then complete s cx stDONE_EMPTY 0
      else complete (writeBytes s dst ((upFrom off n).map (logbookAt s area))) cx stDONE n

end Sys2Proof.Machine
end

