-- ==== Sys2Proof/Machine/CmdRows.lean ====
section
/-!
DEFINITION. The start of commands (R73, R78) and the replies held for a full ring (R81).
-/
namespace Sys2Proof.Machine

open Sys2Proof

/-- The harbour engines that a command is addressed to (Table 6-7); they wake from Idle (R386). -/
def cmdEngines (op : Nat) : List Nat :=
  match op / 256 with
  | 2 => [0x30]
  | 3 => [0x31, 0x33]
  | 5 => [0x32, 0x33]
  | 6 | 7 => []
  | _ => [0x33]

/-- The oldest pending command of a window is taken under the next context number; its slots are freed (R73). It keeps
the protection lock, the seeds and HB_FTZ in force at its start (R150, R160, R349, R412). -/
def takeCmd (s : State) (w : Nat) (p : CmdPkt) : State :=
  let x := winOf s w
  let fast := fastOp p.opcode
  let s1 := (cmdEngines p.opcode).foldl rouse (setWin s w { x with pend := x.pend.drop 1 })
  { s1 with
    cmd := { s1.cmd with
      running := tset s1.cmd.running s1.cmd.nextCx
        { pkt := { p with unlocked := !locked s }, fast := fast, phase := .started, refused := 0, sent := 0,
          recalled := false, seed := jobSeed s, cseed := checkSeed s, ftz := regW s rHbFtz },
      nextCx := s1.cmd.nextCx + 1 },
    snap := { s1.snap with lastTaken := if fast then s1.snap.lastTaken else (p.opcode, p.win, p.seq) } }

/-- What happens to a command at its start: one whose opcode does not exist or whose slots could not be read ends (R83, R326), and
a firmware command completes with ABORTED while the harbourmaster is HALTED (R79). -/
def begun (s : State) (cx : Nat) (p : CmdPkt) : State :=
  if fastOp p.opcode then (match p.status? with | some st => complete s cx st 0 | none => s)
  else if hmHalted s then complete s cx stABORTED 0
  else answerBadOps s

/-- COMMAND_START (R73). -/
def execCommandStart (w : Nat) (s : State) : Answer :=
  .next <|
  match (winOf s w).pend with
  | [] => s
  | p :: _ =>
    if s.pow.harbour ≠ .active ∨ orderHolds s w p ∨ boundHolds s w p ∨ launchWaits s p then s
    else begun (takeCmd s w p) s.cmd.nextCx p

/-- HELD_REPLY_POST (R81). The reply of a HARBOUR_MOOR lets the mooring begin (R390). -/
def execHeldReplyPost (w : Nat) (s : State) : Answer :=
  .next <|
  let x := winOf s w
  match x.held with
  | [] => s
  | r :: t =>
    if !clocksRun s then s
    else if ringWaits s x then ringWake s x
    else
      let y := releaseOpt (writeReply (setWin s w { x with held := t }) r) r.task r.release
      let s1 := settleTodo y.1 y.2
      match s1.pow.moorReply with
      | some retain => if r.opcode = 0x0A02 then beginMooring s1 retain else s1
      | none => s1

end Sys2Proof.Machine
end

