-- ==== Sys2Proof/Machine/RegRows.lean ====
section
/-!
DEFINITION. Writes that have rows of their own: mode words, GO grains and named registers. Each is a write by a host port to
that place, through the checks and the order of every other request (R39, R46, R95).
-/
namespace Sys2Proof.Machine

open Sys2Proof

/-- MODE_WORD_WRITE (R280, R281). -/
def execModeWordWrite (p : Nat) (hdr : BitVec 128) (b : Nat) (v : Word) (s : State) : Answer :=
  .next <|
  if b < 16384 then arrive s p (writeHdr hdr (modeBase + 8 * b) 1) [codewordOf (bytesGrain (leBytes 8 v.toNat))] 0 0 else s

/-- GO_WRITE (R282, R283). -/
def execGoWrite (p : Nat) (hdr : BitVec 128) (b : Nat) (go : Codeword) (s : State) : Answer :=
  .next <| if b < 16384 then arrive s p (writeHdr hdr (berthBase + b * 0x400000 + 0x200) 4) [go] 0 0 else s

/-- BOOT_GO (R403). -/
def execBootGo (p : Nat) (hdr : BitVec 128) (v : Word) (s : State) : Answer := .next (hostRegWrite s p hdr rHbBoot v)

/-- LOCK (R412). -/
def execLock (p : Nat) (hdr : BitVec 128) (v : Word) (s : State) : Answer := .next (hostRegWrite s p hdr rHbProtLock v)

/-- HB_PROT_RGN_WRITE (R409). -/
def execHbProtRgnWrite (p : Nat) (hdr : BitVec 128) (r : Nat) (v : Word) (s : State) : Answer :=
  .next (if r < 32 then hostRegWrite s p hdr (rHbProtRgn r) v else s)

/-- HB_ROADSTEAD_WRITE (R27). -/
def execHbRoadsteadWrite (p : Nat) (hdr : BitVec 128) (v : Word) (s : State) : Answer :=
  .next (hostRegWrite s p hdr rHbRoadstead v)

/-- HB_ARENA_WRITE (R31). -/
def execHbArenaWrite (p : Nat) (hdr : BitVec 128) (v : Word) (s : State) : Answer := .next (hostRegWrite s p hdr rHbArena v)

/-- HB_CMDW_WRITE (R90). -/
def execHbCmdwWrite (p : Nat) (hdr : BitVec 128) (w : Nat) (v : Word) (s : State) : Answer :=
  .next (if w < 256 then hostRegWrite s p hdr (rHbCmdw w) v else s)

/-- HB_CMDR_WRITE (R90). -/
def execHbCmdrWrite (p : Nat) (hdr : BitVec 128) (w : Nat) (v : Word) (s : State) : Answer :=
  .next (if w < 256 then hostRegWrite s p hdr (rHbCmdr w) v else s)

/-- HB_CMDC_WRITE (R81). -/
def execHbCmdcWrite (p : Nat) (hdr : BitVec 128) (w : Nat) (v : Word) (s : State) : Answer :=
  .next (if w < 256 then hostRegWrite s p hdr (rHbCmdc w) v else s)

/-- HB_SIG_CFG_WRITE (R131). -/
def execHbSigCfgWrite (p : Nat) (hdr : BitVec 128) (v : Word) (s : State) : Answer := .next (hostRegWrite s p hdr rHbSigCfg v)

/-- HB_TD_TURN_WRITE (R146). -/
def execHbTdTurnWrite (p : Nat) (hdr : BitVec 128) (v : Word) (s : State) : Answer := .next (hostRegWrite s p hdr rHbTdTurn v)

/-- HB_KW_SEED0_WRITE: the low half is staged (R159). -/
def execHbKwSeed0Write (p : Nat) (hdr : BitVec 128) (v : Word) (s : State) : Answer := .next (hostRegWrite s p hdr rHbKwSeed0 v)

/-- HB_KW_SEED1_WRITE: both halves take effect (R159). -/
def execHbKwSeed1Write (p : Nat) (hdr : BitVec 128) (v : Word) (s : State) : Answer := .next (hostRegWrite s p hdr rHbKwSeed1 v)

/-- IN_KW_CSEED0_WRITE (R349). -/
def execInKwCseed0Write (p : Nat) (hdr : BitVec 128) (v : Word) (s : State) : Answer :=
  .next (hostRegWrite s p hdr rInKwCseed0 v)

/-- IN_KW_CSEED1_WRITE (R349). -/
def execInKwCseed1Write (p : Nat) (hdr : BitVec 128) (v : Word) (s : State) : Answer :=
  .next (hostRegWrite s p hdr rInKwCseed1 v)

/-- HB_ETA_VAL_WRITE (R219). -/
def execHbEtaValWrite (p : Nat) (hdr : BitVec 128) (n : Nat) (v : Word) (s : State) : Answer :=
  .next (if n < 64 then hostRegWrite s p hdr (rHbEtaVal n) v else s)

/-- HB_ETA_STEP_WRITE (R219). -/
def execHbEtaStepWrite (p : Nat) (hdr : BitVec 128) (n : Nat) (v : Word) (s : State) : Answer :=
  .next (if n < 64 then hostRegWrite s p hdr (rHbEtaStep n) v else s)

/-- HB_PSET_LS_WRITE (R237). -/
def execHbPsetLsWrite (p : Nat) (hdr : BitVec 128) (n : Nat) (v : Word) (s : State) : Answer :=
  .next (if n < 64 then hostRegWrite s p hdr (rHbPsetLs n) v else s)

/-- HB_PSET_REPL_WRITE (R373). -/
def execHbPsetReplWrite (p : Nat) (hdr : BitVec 128) (n : Nat) (v : Word) (s : State) : Answer :=
  .next (if n < 64 then hostRegWrite s p hdr (rHbPsetRepl n) v else s)

/-- LD_ANCH_WRITE (R193). -/
def execLdAnchWrite (p : Nat) (hdr : BitVec 128) (v : Word) (s : State) : Answer := .next (hostRegWrite s p hdr rLdAnch v)

/-- DS_POOL_WRITE: DS_POOL_BASE or DS_POOL_CFG (R209). -/
def execDsPoolWrite (p : Nat) (hdr : BitVec 128) (cfg : Bool) (v : Word) (s : State) : Answer :=
  .next (hostRegWrite s p hdr (if cfg then rDsPoolCfg else rDsPoolBase) v)

/-- BT_PERMIT_CFG_WRITE (R320). -/
def execBtPermitCfgWrite (p : Nat) (hdr : BitVec 128) (q : Nat) (v : Word) (s : State) : Answer :=
  .next (if q < 16 then hostRegWrite s p hdr (rBtPermitCfg q) v else s)

/-- IN_RECALL_CTL_WRITE (R341). -/
def execInRecallCtlWrite (p : Nat) (hdr : BitVec 128) (v : Word) (s : State) : Answer :=
  .next (hostRegWrite s p hdr rInRecallCtl v)

/-- IN_RETIRE_CFG_WRITE (R351, Table 16-12). -/
def execInRetireCfgWrite (p : Nat) (hdr : BitVec 128) (v : Word) (s : State) : Answer :=
  .next (hostRegWrite s p hdr rInRetireCfg v)

/-- PW_CAP_WRITE (R382). -/
def execPwCapWrite (p : Nat) (hdr : BitVec 128) (v : Word) (s : State) : Answer := .next (hostRegWrite s p hdr rPwCap v)

/-- REGISTER_WRITE: any register by its offset (R39). -/
def execRegisterWrite (p : Nat) (hdr : BitVec 128) (off : Nat) (v : Word) (s : State) : Answer :=
  .next (hostRegWrite s p hdr off v)

end Sys2Proof.Machine
end

