-- ==== Sys2Proof/Machine/Sideband.lean ====
section
/-!
DEFINITION. The management sideband (R413, R414) and the test port (R415, R416, R425, R432).
-/
namespace Sys2Proof.Machine

open Sys2Proof

/-! ### Sideband -/

/-- Answers of a status byte (R413). -/
abbrev sbOK : Nat := 0
abbrev sbDENIED : Nat := 1
abbrev sbASLEEP : Nat := 2
abbrev sbBAD : Nat := 3

/-- Why a register access is answered with BAD or ASLEEP, if it is. -/
def sidebandFault (s : State) (off : Nat) : Option Nat :=
  if off % 8 ≠ 0 ∨ 0x1000000 ≤ off then some sbBAD
  else if isMoored s && !servedMoored off then some sbASLEEP
  else none

/-- Serves what waits, in an Active harbour. -/
def settleActive (s : State) : State := if s.pow.harbour = .active then settle s else s

/-- REG_READ. -/
def execRegRead (off : Nat) (s : State) : Answer :=
  .next <|
  if s.pow.harbour = .off then s
  else
    match sidebandFault s off with
    | some st => sideband s st []
    | none => sideband s sbOK (leBytes 8 (readReg s off))

/-- REG_WRITE: the protection map does not apply; a reset that it orders follows its answer (R394, R412, R413). -/
def execRegWrite (off : Nat) (v : Word) (s : State) : Answer :=
  .next <|
  if s.pow.harbour = .off then s
  else
    match sidebandFault s off with
    | some st => sideband s st []
    | none =>
      let x := writeReg s off v.toNat
      let s1 := sideband x.1 (if x.2 then sbDENIED else sbOK) []
      match pwResetOf off v.toNat with
      | some kt => settleActive (orderReset s1 3 kt)
      | none => settleActive s1

/-- ALERT_CAUSE: HB_ALERT, whose causes are then cleared, which releases the ALERT pin (R414). -/
def execAlertCause (s : State) : Answer :=
  .next <|
  if s.pow.harbour = .off then s
  else
    let s1 := sideband s sbOK (leBytes 8 (readReg s rHbAlert))
    alertEdge s1 (setFld s1 rHbAlert 6 0 0)

/-- WAKE (R391). -/
def execWake (s : State) : Answer := .next (if s.pow.harbour = .off then s else recordWake (sideband s sbOK []) 3)

/-- WARM: DRAM is kept with KEEP or with PW_RESET.KEEP_PIN (R394). -/
def execWarm (keep ref : Bool) (s : State) : Answer :=
  .next <|
  if s.pow.harbour = .off then s
  else warmReset (sideband s sbOK []) (keep || fld s rPwReset 16 16 == 1) ref

/-- COLD (R393). -/
def execCold (ref : Bool) (s : State) : Answer :=
  .next (if s.pow.harbour = .off then s else coldReset (sideband s sbOK []) ref)

/-! ### Test port -/

/-- The bits of a word, least significant first. -/
def shiftBits (n v : Nat) : List Bool := (List.range n).map (bit v)

/-- An instruction of the test port is selected and shifts bits out. -/
def selectTap (s : State) (i : TapInstr) (out : List Bool) : State :=
  if s.pow.harbour = .off then s else emit { s with boot := { s.boot with tap := i } } (.tdo out)

/-- A cell of the boundary path: its value is not given (log entry 8). -/
def boundaryTap (s : State) (i : TapInstr) : State :=
  selectTap { s with free := s.free + 1 } i [Config.boundaryCell s.free]

/-- BYPASS: one bit of 0 (R415). -/
def execBypass (s : State) : Answer := .next (selectTap s .bypass [false])

/-- IDCODE (R415). -/
def execIdcode (s : State) : Answer := .next (selectTap s .idcode (shiftBits 32 (idcodeOf s.fuses)))

/-- SAMPLE/PRELOAD (R415; log entry 8). -/
def execSamplePreload (s : State) : Answer := .next (boundaryTap s .sample)

/-- EXTEST (R415; log entry 8). -/
def execExtest (s : State) : Answer := .next (boundaryTap s .extest)

/-- Whether the wrapper and debug-access instructions act (R416). -/
def debugOpen (s : State) : Bool := !s.fuses.dbgKill && !locked s

/-- A 64-bit word leaves the debug access port. -/
def debugOut (s : State) (v : Nat) : State := selectTap s .debug (shiftBits 64 v)

/-- A word that no rule gives: what a wrapper returns, or an offset of the debug port that has nothing (log entry 8). -/
def freeWord (s : State) : State × Nat := ({ s with free := s.free + 1 }, (Config.wrapperWord s.free).toNat)

/-- A fuse is blown; it is sensed at the next Cold reset (R416, R432). -/
def blow (s : State) (f : Fuses → Fuses) : State := selectTap { s with blown := f s.blown } .debug []

/-! ### Harbourmaster SRAM, which keeps the image (R403, R415) -/

/-- Where harbourmaster SRAM holds the kept image, whole: a free place on a word boundary (R14; log entry 8). -/
def imageAt (s : State) : Nat := 8 * (Config.imageBase % ((hmSramBytes - s.boot.image.length) / 8 + 1))

/-- The byte of the kept image that lies at a byte offset of harbourmaster SRAM. -/
def imageIndex (s : State) (i : Nat) : Option Nat :=
  let a := imageAt s
  if a ≤ i ∧ i < a + s.boot.image.length then some (i - a) else none

/-- A byte of harbourmaster SRAM: of the kept image, of what the debug port has written, or not given (log entry 8). -/
def sramByte (s : State) (i : Nat) : Byte :=
  match imageIndex s i with
  | some j => s.boot.image.getD j 0
  | none =>
    let w := (tget? s.boot.hmSram (i / 8 * 8)).getD (Config.sramWord (i / 8 * 8))
    w.extractLsb' (8 * (i % 8)) 8

/-- Writes a word of harbourmaster SRAM, the kept image among it. -/
def sramPut (s : State) (off : Nat) (v : Word) : State :=
  let img := (upFrom off 8).foldl (fun (l : List Byte) i =>
    match imageIndex s i with
    | some j => l.set j (v.extractLsb' (8 * (i - off)) 8)
    | none => l) s.boot.image
  { s with boot := { s.boot with image := img, hmSram := tset s.boot.hmSram off v } }

/-- What the debug access port does; harbourmaster SRAM is read and written by aligned words of its 2 MiB (R14, R415). -/
def debugDo (s : State) : DebugOp → State
  | .wrapper _ => let w := freeWord s; debugOut w.1 w.2
  | .regRead off => debugOut s (if off % 8 = 0 then readReg s off else 0)
  | .regWrite off v =>
    if off % 8 = 0 ∧ off < 0x1000000 then
      let s1 := selectTap (writeReg s off v.toNat).1 .debug []
      match pwResetOf off v.toNat with
      | some kt => settleActive (orderReset s1 3 kt)
      | none => settleActive s1
    else selectTap s .debug []
  | .sramRead off =>
    if off < hmSramBytes then debugOut s (fieldAt ((upFrom (off / 8 * 8) 8).map (sramByte s)) 0 8)
    else (let f := freeWord s; debugOut f.1 f.2)
  | .sramWrite off v => selectTap (if off < hmSramBytes then sramPut s (off / 8 * 8) v else s) .debug []
  | .halt => selectTap { s with boot := { s.boot with halted := true } } .debug []
  | .resume => selectTap (settle (answerBadOps { s with boot := { s.boot with halted := false } })) .debug []
  | .keyHash off =>
    let w := off / 8 % 6
    if off % 8 = 0 ∧ off < 0x60 then debugOut s (bits (Config.fwKeyHash (off / 8 / 6)).toNat (64 * w + 63) (64 * w))
    else (let f := freeWord s; debugOut f.1 f.2)
  | .blowDbgKill => blow s fun f => { f with dbgKill := true }
  | .blowKeyRevoked k => blow s fun f => { f with keyRevoked := f.keyRevoked ||| (1#2 <<< k) }
  | .blowSvnMin m => blow s fun f => { f with fwSvnMin := f.fwSvnMin ||| m }

/-- DEBUG_ACCESS: it selects BYPASS once DBG_KILL or the lock is set (R415, R416). -/
def execDebugAccess (op : DebugOp) (s : State) : Answer :=
  .next <|
  if s.pow.harbour = .off then s
  else if debugOpen s && s.pow.harbour == .active then debugDo s op else selectTap s .bypass [false]

end Sys2Proof.Machine
end

