-- ==== Sys2Proof/Machine/Dispatch.lean ====
section
/-!
DEFINITION. One arm for each command: the call of its meaning.
-/
namespace Sys2Proof.Machine

open Sys2Proof

/-- The effect of a command on everything but the queue. -/
def exec (i : Instr) (s : State) : Host.Outcome State Fault Refusal :=
  match i with
  | .rd p hdr => Sys2Proof.Machine.execRd p hdr s
  | .rda p hdr => Sys2Proof.Machine.execRda p hdr s
  | .wr p hdr data => Sys2Proof.Machine.execWr p hdr data s
  | .wrr p hdr data => Sys2Proof.Machine.execWrr p hdr data s
  | .finalWrite p hdr data => Sys2Proof.Machine.execFinalWrite p hdr data s
  | .atm p hdr operands => Sys2Proof.Machine.execAtm p hdr operands s
  | .fnl p hdr => Sys2Proof.Machine.execFnl p hdr s
  | .plt p hdr msg latency => Sys2Proof.Machine.execPlt p hdr msg latency s
  | .flitWithoutCredit p => Sys2Proof.Machine.execFlitWithoutCredit p s
  | .responseCredit p ch => Sys2Proof.Machine.execResponseCredit p ch s
  | .linkReplay link pilot => Sys2Proof.Machine.execLinkReplay link pilot s
  | .heldRead p tag => Sys2Proof.Machine.execHeldRead p tag s
  | .commandStart w => Sys2Proof.Machine.execCommandStart w s
  | .heldReplyPost w => Sys2Proof.Machine.execHeldReplyPost w s
  | .psetCreate cx => Sys2Proof.Machine.execPsetCreate cx s
  | .psetDestroy cx => Sys2Proof.Machine.execPsetDestroy cx s
  | .psetConst cx => Sys2Proof.Machine.execPsetConst cx s
  | .tdCreate cx => Sys2Proof.Machine.execTdCreate cx s
  | .tdDestroy cx => Sys2Proof.Machine.execTdDestroy cx s
  | .psetQuery cx => Sys2Proof.Machine.execPsetQuery cx s
  | .manOpen cx => Sys2Proof.Machine.execManOpen cx s
  | .manCancel cx => Sys2Proof.Machine.execManCancel cx s
  | .manQuery cx => Sys2Proof.Machine.execManQuery cx s
  | .watchSet cx => Sys2Proof.Machine.execWatchSet cx s
  | .watchClear cx => Sys2Proof.Machine.execWatchClear cx s
  | .routeLoad cx => Sys2Proof.Machine.execRouteLoad cx s
  | .tokenSend cx => Sys2Proof.Machine.execTokenSend cx s
  | .tokenReturn cx => Sys2Proof.Machine.execTokenReturn cx s
  | .gradDispatch cx => Sys2Proof.Machine.execGradDispatch cx s
  | .bufRelease cx => Sys2Proof.Machine.execBufRelease cx s
  | .bufReleaseTimeout cx => Sys2Proof.Machine.execBufReleaseTimeout cx s
  | .sweep cx => Sys2Proof.Machine.execSweep cx s
  | .sweepResume cx => Sys2Proof.Machine.execSweepResume cx s
  | .sweepLandTimeout cx => Sys2Proof.Machine.execSweepLandTimeout cx s
  | .sweepNormTimeout cx => Sys2Proof.Machine.execSweepNormTimeout cx s
  | .lossScale cx => Sys2Proof.Machine.execLossScale cx s
  | .exportSub cx => Sys2Proof.Machine.execExportSub cx s
  | .exportUnsub cx => Sys2Proof.Machine.execExportUnsub cx s
  | .exportPush cx => Sys2Proof.Machine.execExportPush cx s
  | .berthBatch cx => Sys2Proof.Machine.execBerthBatch cx s
  | .berthCancel cx => Sys2Proof.Machine.execBerthCancel cx s
  | .gateOpen cx => Sys2Proof.Machine.execGateOpen cx s
  | .gateArrive cx => Sys2Proof.Machine.execGateArrive cx s
  | .gateAbort cx => Sys2Proof.Machine.execGateAbort cx s
  | .beaconWait cx => Sys2Proof.Machine.execBeaconWait cx s
  | .beaconWaitTimeout cx => Sys2Proof.Machine.execBeaconWaitTimeout cx s
  | .taskClose cx => Sys2Proof.Machine.execTaskClose cx s
  | .checkFraction cx => Sys2Proof.Machine.execCheckFraction cx s
  | .fieldTest cx errors => Sys2Proof.Machine.execFieldTest cx errors s
  | .patternLoad cx => Sys2Proof.Machine.execPatternLoad cx s
  | .rowRepair cx => Sys2Proof.Machine.execRowRepair cx s
  | .scrubRange cx => Sys2Proof.Machine.execScrubRange cx s
  | .checkpoint cx => Sys2Proof.Machine.execCheckpoint cx s
  | .restore cx => Sys2Proof.Machine.execRestore cx s
  | .replay cx flips => Sys2Proof.Machine.execReplay cx flips s
  | .digest cx => Sys2Proof.Machine.execDigest cx s
  | .snapArm cx => Sys2Proof.Machine.execSnapArm cx s
  | .shardCopy cx => Sys2Proof.Machine.execShardCopy cx s
  | .quayState cx => Sys2Proof.Machine.execQuayState cx s
  | .harbourMoor cx => Sys2Proof.Machine.execHarbourMoor cx s
  | .configSave cx => Sys2Proof.Machine.execConfigSave cx s
  | .logbookRead cx => Sys2Proof.Machine.execLogbookRead cx s
  | .gateExpiry g => Sys2Proof.Machine.execGateExpiry g s
  | .engineGateArrival engine g => Sys2Proof.Machine.execEngineGateArrival engine g s
  | .attnLineEdge die line => Sys2Proof.Machine.execAttnLineEdge die line s
  | .landingWrite src hdr payload => Sys2Proof.Machine.execLandingWrite src hdr payload s
  | .tokenPacket src hdr payload => Sys2Proof.Machine.execTokenPacket src hdr payload s
  | .contribPacket src hdr payload => Sys2Proof.Machine.execContribPacket src hdr payload s
  | .ackPacket src hdr payload => Sys2Proof.Machine.execAckPacket src hdr payload s
  | .gateArrivalMsg src hdr payload => Sys2Proof.Machine.execGateArrivalMsg src hdr payload s
  | .gateReleaseMsg src hdr payload => Sys2Proof.Machine.execGateReleaseMsg src hdr payload s
  | .gateAbortMsg src hdr payload => Sys2Proof.Machine.execGateAbortMsg src hdr payload s
  | .pilotPacket src hdr payload => Sys2Proof.Machine.execPilotPacket src hdr payload s
  | .normPacket src hdr payload => Sys2Proof.Machine.execNormPacket src hdr payload s
  | .refusePacket src hdr payload => Sys2Proof.Machine.execRefusePacket src hdr payload s
  | .manifestFinalise m gen => Sys2Proof.Machine.execManifestFinalise m gen s
  | .manifestExpiry m => Sys2Proof.Machine.execManifestExpiry m s
  | .parkTtlExpiry entry => Sys2Proof.Machine.execParkTtlExpiry entry s
  | .ackTimeout source final => Sys2Proof.Machine.execAckTimeout source final s
  | .anchorageHoldRelease port => Sys2Proof.Machine.execAnchorageHoldRelease port s
  | .normExchangeStart n => Sys2Proof.Machine.execNormExchangeStart n s
  | .craneSwitch => Sys2Proof.Machine.execCraneSwitch s
  | .consignmentSweep n k residue flips => Sys2Proof.Machine.execConsignmentSweep n k residue flips s
  | .duplicateCheck n k partner third => Sys2Proof.Machine.execDuplicateCheck n k partner third s
  | .commit n => Sys2Proof.Machine.execCommit n s
  | .digestExchangeTimeout n => Sys2Proof.Machine.execDigestExchangeTimeout n s
  | .recallHoldTimeout n => Sys2Proof.Machine.execRecallHoldTimeout n s
  | .modeWordWrite p hdr b v => Sys2Proof.Machine.execModeWordWrite p hdr b v s
  | .modeChange b => Sys2Proof.Machine.execModeChange b s
  | .goWrite p hdr b go => Sys2Proof.Machine.execGoWrite p hdr b go s
  | .permitGrant q => Sys2Proof.Machine.execPermitGrant q s
  | .matvec b older flips => Sys2Proof.Machine.execMatvec b older flips s
  | .dot b older flips => Sys2Proof.Machine.execDot b older flips s
  | .scale b older flips => Sys2Proof.Machine.execScale b older flips s
  | .add b older flips => Sys2Proof.Machine.execAdd b older flips s
  | .mul b older flips => Sys2Proof.Machine.execMul b older flips s
  | .act b older flips => Sys2Proof.Machine.execAct b older flips s
  | .reduce b older flips => Sys2Proof.Machine.execReduce b older flips s
  | .normStat b older flips => Sys2Proof.Machine.execNormStat b older flips s
  | .normApply b older flips => Sys2Proof.Machine.execNormApply b older flips s
  | .smaxStat b older flips => Sys2Proof.Machine.execSmaxStat b older flips s
  | .smaxApply b older flips => Sys2Proof.Machine.execSmaxApply b older flips s
  | .attn b older flips => Sys2Proof.Machine.execAttn b older flips s
  | .berthMerge cx => Sys2Proof.Machine.execBerthMerge cx s
  | .berthDuplicate b first second => Sys2Proof.Machine.execBerthDuplicate b first second s
  | .busyBankAccess b work => Sys2Proof.Machine.execBusyBankAccess b work s
  | .permitPoolSizing meas => Sys2Proof.Machine.execPermitPoolSizing meas s
  | .permitPoolFallback q tempC => Sys2Proof.Machine.execPermitPoolFallback q tempC s
  | .harbourThrottle mw tempC quayC => Sys2Proof.Machine.execHarbourThrottle mw tempC quayC s
  | .temperatureTrip reading => Sys2Proof.Machine.execTemperatureTrip reading s
  | .scrubRowVisit q => Sys2Proof.Machine.execScrubRowVisit q s
  | .watchWrap => Sys2Proof.Machine.execWatchWrap s
  | .refLoss => Sys2Proof.Machine.execRefLoss s
  | .refReturn => Sys2Proof.Machine.execRefReturn s
  | .quayWake q => Sys2Proof.Machine.execQuayWake q s
  | .mooring => Sys2Proof.Machine.execMooring s
  | .hostWakeLine die => Sys2Proof.Machine.execHostWakeLine die s
  | .fabricWake port => Sys2Proof.Machine.execFabricWake port s
  | .wakeAfterExpiry => Sys2Proof.Machine.execWakeAfterExpiry s
  | .harbourWake => Sys2Proof.Machine.execHarbourWake s
  | .powerOn ref => Sys2Proof.Machine.execPowerOn ref s
  | .coldRstN ref => Sys2Proof.Machine.execColdRstN ref s
  | .warmRstN ref => Sys2Proof.Machine.execWarmRstN ref s
  | .snapIn => Sys2Proof.Machine.execSnapIn s
  | .engineReset e => Sys2Proof.Machine.execEngineReset e s
  | .portReset p => Sys2Proof.Machine.execPortReset p s
  | .quayReset q => Sys2Proof.Machine.execQuayReset q s
  | .warmReset ref => Sys2Proof.Machine.execWarmReset ref s
  | .warmResetKeep ref => Sys2Proof.Machine.execWarmResetKeep ref s
  | .lockstepMismatch => Sys2Proof.Machine.execLockstepMismatch s
  | .bootGo p hdr v => Sys2Proof.Machine.execBootGo p hdr v s
  | .lock p hdr v => Sys2Proof.Machine.execLock p hdr v s
  | .hbProtRgnWrite p hdr r v => Sys2Proof.Machine.execHbProtRgnWrite p hdr r v s
  | .hbRoadsteadWrite p hdr v => Sys2Proof.Machine.execHbRoadsteadWrite p hdr v s
  | .hbArenaWrite p hdr v => Sys2Proof.Machine.execHbArenaWrite p hdr v s
  | .hbCmdwWrite p hdr w v => Sys2Proof.Machine.execHbCmdwWrite p hdr w v s
  | .hbCmdrWrite p hdr w v => Sys2Proof.Machine.execHbCmdrWrite p hdr w v s
  | .hbCmdcWrite p hdr w v => Sys2Proof.Machine.execHbCmdcWrite p hdr w v s
  | .hbSigCfgWrite p hdr v => Sys2Proof.Machine.execHbSigCfgWrite p hdr v s
  | .hbTdTurnWrite p hdr v => Sys2Proof.Machine.execHbTdTurnWrite p hdr v s
  | .hbKwSeed0Write p hdr v => Sys2Proof.Machine.execHbKwSeed0Write p hdr v s
  | .hbKwSeed1Write p hdr v => Sys2Proof.Machine.execHbKwSeed1Write p hdr v s
  | .inKwCseed0Write p hdr v => Sys2Proof.Machine.execInKwCseed0Write p hdr v s
  | .inKwCseed1Write p hdr v => Sys2Proof.Machine.execInKwCseed1Write p hdr v s
  | .hbEtaValWrite p hdr n v => Sys2Proof.Machine.execHbEtaValWrite p hdr n v s
  | .hbEtaStepWrite p hdr n v => Sys2Proof.Machine.execHbEtaStepWrite p hdr n v s
  | .hbPsetLsWrite p hdr n v => Sys2Proof.Machine.execHbPsetLsWrite p hdr n v s
  | .hbPsetReplWrite p hdr n v => Sys2Proof.Machine.execHbPsetReplWrite p hdr n v s
  | .ldAnchWrite p hdr v => Sys2Proof.Machine.execLdAnchWrite p hdr v s
  | .dsPoolWrite p hdr cfg v => Sys2Proof.Machine.execDsPoolWrite p hdr cfg v s
  | .btPermitCfgWrite p hdr q v => Sys2Proof.Machine.execBtPermitCfgWrite p hdr q v s
  | .inRecallCtlWrite p hdr v => Sys2Proof.Machine.execInRecallCtlWrite p hdr v s
  | .inRetireCfgWrite p hdr v => Sys2Proof.Machine.execInRetireCfgWrite p hdr v s
  | .pwCapWrite p hdr v => Sys2Proof.Machine.execPwCapWrite p hdr v s
  | .registerWrite p hdr off v => Sys2Proof.Machine.execRegisterWrite p hdr off v s
  | .regRead off => Sys2Proof.Machine.execRegRead off s
  | .regWrite off v => Sys2Proof.Machine.execRegWrite off v s
  | .alertCause => Sys2Proof.Machine.execAlertCause s
  | .wake => Sys2Proof.Machine.execWake s
  | .warm keep ref => Sys2Proof.Machine.execWarm keep ref s
  | .cold ref => Sys2Proof.Machine.execCold ref s
  | .bypass => Sys2Proof.Machine.execBypass s
  | .idcode => Sys2Proof.Machine.execIdcode s
  | .samplePreload => Sys2Proof.Machine.execSamplePreload s
  | .extest => Sys2Proof.Machine.execExtest s
  | .debugAccess op => Sys2Proof.Machine.execDebugAccess op s
  | .supplyRemoval => Sys2Proof.Machine.execSupplyRemoval s
  | .idleEntry u => Sys2Proof.Machine.execIdleEntry u s
  | .watchTrimConverged offset => Sys2Proof.Machine.execWatchTrimConverged offset s

end Sys2Proof.Machine
end

