-- ==== Sys2Proof/Safety.lean ====
section
/-!
DEFINITION. What statements about Zurax are stated in: the canonical form of its memory, the parts of a state that a reply
or a release never reaches, and commands that have ended.
-/
namespace Sys2Proof.Machine

open Sys2Proof

/-- The memory is in its one canonical form: strictly rising addresses, no zero byte listed. -/
abbrev State.memOk (s : State) : Prop := memWf s.mem = true

/-- The byte that a read of a local address in memory delivers while its codeword is clean: interleaved and linear view
are one store (R32, R33). -/
def State.byteAt (s : State) (a : Nat) : Byte := memByte s.mem (homeAddr s.part a)

/-- Everything that the end of a command cannot reach: all of the state but the registers, the stored memory, the command
windows, the task tags, the berth units, the wakes, the logbook and what leaves the part. -/
structure Untouched where
  fuses : Fuses
  blown : Fuses
  host : HostSt
  gates : Table Gate
  watches : Table Watch
  tds : Table TDesc
  land : LandSt
  disp : DispSt
  sets : Table Pset
  walk : WalkSt
  exp : ExpSt
  snap : SnapSt
  free : Nat
  pending : List Instr
  deriving DecidableEq, Repr

/-- The part of a state that the end of a command cannot reach. -/
def State.untouched (s : State) : Untouched :=
  { fuses := s.fuses, blown := s.blown, host := s.host, gates := s.sync.gates, watches := s.sync.watches, tds := s.tds,
    land := s.land, disp := s.disp, sets := s.sets, walk := s.walk, exp := s.exp, snap := s.snap, free := s.free,
    pending := s.pending }

/-- Every reserved bit of a command packet is zero, the fields of its form being those of `layout` (R71, R76). -/
abbrev Clear (p : CmdPkt) (layout : List Named) : Prop := checkFail p layout [] [] false = none

/-- No check of a list finds a fault. -/
abbrev AllPass (checks : List (Bool × Nat)) : Prop := ∀ e ∈ checks, e.1 = false

/-- A host port takes a request: it carries requests, the request comes with the credits that it needs, the tag is free, the
form is one Zurax has, and nothing waits. -/
abbrev Accepts (s : State) (p : Nat) (hdr : BitVec 128) : Prop :=
  portUp s p = true ∧
  reqCredits (kindOf (ReqHdr.ofBits hdr).opc) (ReqHdr.ofBits hdr).len ≤
    creditsFree s p (channelOf s (kindOf (ReqHdr.ofBits hdr).opc) (ReqHdr.ofBits hdr).addr) ∧
  (p, (ReqHdr.ofBits hdr).tag) ∉ s.host.tags ∧ s.host.reqs = [] ∧
  badForm (kindOf (ReqHdr.ofBits hdr).opc) (ReqHdr.ofBits hdr) = false

/-- The state once a request has been taken: its tag is in use and the revision is noted (R52, Table 3-11). -/
def taken (s : State) (p : Nat) (hdr : BitVec 128) : State :=
  let s1 := noteRev s p (ReqHdr.ofBits hdr).rev2
  { s1 with host := { s1.host with tags := s1.host.tags ++ [(p, (ReqHdr.ofBits hdr).tag)] } }

/-- The request that a header and its payload make. -/
def requestOf (p : Nat) (k : ReqKind) (hdr : BitVec 128) (data : List Codeword) : Request :=
  { port := p, kind := k, hdr := ReqHdr.ofBits hdr, data := data }

/-- A request as it is held when it arrives. -/
def heldReq (r : Request) : HeldReq := { req := r, why := .order, served := [], bound := none }

/-- The state with a request as the only one that waits. -/
def waiting (s : State) (r : Request) : State := { s with host := { s.host with reqs := [heldReq r] } }

/-- The request can take effect at once: its turn has come, its checks pass, and no access of it must wait for a berth
operation or a sleeping quay (R316, R388). -/
abbrev Goes (s : State) (r : Request) : Prop :=
  verdict (waiting s r) (heldReq r) false = .go ∧ (attempt (waiting s r) fun t => takeEffect t (heldReq r)).2 = true

/-- Nothing inside the harbour waits to go on: no write of an engine is held, and there is no failed manifest whose values are
still due, no FINAL write that is due, no manifest that such a write keeps FINALISING, no batch, no export that waits, no command
that waits for acknowledgements, nothing that the harbourmaster has had to leave and can take up now, and no reset that waits for
a response to leave. -/
abbrev State.atRest (s : State) : Prop :=
  s.berth.held = [] ∧ s.berth.batches = [] ∧ s.land.failing = [] ∧ s.exp.waiting = [] ∧ s.host.orders = [] ∧
  (s.land.entries.all fun e => match e.kind with | .finalDue _ => false | _ => true) = true ∧
  (s.cmd.running.all fun e => match e.2.phase with | .waitAck _ _ => false | _ => true) = true ∧
  talliedMans s = [] ∧ firmwareGoesOn s = s

/-- A packet that a row takes: from a landing port with its checks passed, or off the loopback, with the state in which it is
handled (R169, R386, R434). -/
def arrived (s0 : State) (src : LandSrc) (hdr : BitVec 256) (payload : List Codeword) (want : Packet → Bool) :
    Option (State × Packet) :=
  let s := rouse s0 0x30
  match src with
  | .port n =>
    let p : Packet := { hdr := PktHdr.ofBits hdr, payload := payload }
    if landUp s && decide (n < 8) && !badPacket s p.hdr (hdr.toNat / 2 ^ 224) false && !badPayload p && want p then some (s, p) else none
  | .loop i =>
    match s.land.loop[i]? with
    | some p =>
      let s1 : State := { s with land := { s.land with loop := s.land.loop.eraseIdx i } }
      if landUp s && want p && !badPacket s1 p.hdr 0 true && !badPayload p then some (s1, p) else none
    | none => none

/-- The hold of a landing port has room for a packet of bulk class; the loopback always has (R187). -/
def holdRoom (s : State) : LandSrc → Bool
  | .port n => decide ((holdOf s n).length < 32)
  | .loop _ => true

/-- The state once a reset of one engine, port or quay has begun to wake a moored harbour; the reset follows the wake (R393; the
cause is log entry 112). -/
def wakeFor (s : State) (target kind : Nat) : State :=
  { recordWake s 1 with pow := { (recordWake s 1).pow with resetsAfter := addReset (recordWake s 1).pow.resetsAfter (kind, target) } }

/-- Nothing has gone wrong that Zurax records: no detection, no uncorrectable grain, no alert of a trip or a replica. -/
def State.healthy (s : State) : Prop :=
  s.integ.detections = [] ∧ s.integ.badGrains = [] ∧ fld s rHbAlert 2 2 = 0 ∧ fld s rHbAlert 3 3 = 0

end Sys2Proof.Machine
end

