-- ==== Sys2Proof/Certificates/Slice0/Obligations.lean ====
section
/-!
DEFINITION. The statements about Zurax that are put to proof. Where a statement cites a rule R<n>, the rule is of spec/.
-/
open Sys2Proof Sys2Proof.Machine

/-! ### One step -/

/-- A step takes the front command with the rest of the queue (the model's step law). -/
def Obligations.StepRunsFront : Prop :=
  ∀ (s : State) (c : Instr) (rest : List Instr),
    step { s with pending := c :: rest } = exec c { s with pending := rest }

/-- With no command waiting and supply on, TICK grows by one, or wraps to 0 and counts in WRAPS (R379). That the idle step
is one tick is the model's choice (log entry 2). -/
def Obligations.IdleStepIsOneTick : Prop :=
  ∀ s : State, s.pending = [] → s.pow.harbour ≠ .off →
    ∃ t, step s = .next t ∧ now t = (now s + 1) % 2 ^ 48 ∧ t.untouched = s.untouched ∧ t.mem = s.mem ∧ t.cmd = s.cmd ∧
      t.boot.wraps = (if now s + 1 = 2 ^ 48 then min (s.boot.wraps + 1) (2 ^ 32 - 1) else s.boot.wraps)

/-- What reset leaves: the watch at 0, every host port down, no parameter set, descriptor, manifest or command, every gate idle,
every command window disabled and empty, every byte of memory zero (chapters 18 and 20: Table 18-7, R395, R402). All of it is
the model's choice where the spec gives no value: that State.reset stands before the first boot, Active and with supply (log entry 21), that it is a Z16 part (log
entry 3), that memory nothing has written reads as zero (log entry 22), and the fields without a Reset value (log entry 23). -/
def Obligations.ResetState : Prop :=
  now State.reset = 0 ∧ (∀ n, setOf? State.reset n = none) ∧ (∀ g, (gateOf State.reset g).state = 0) ∧
  (∀ w, winOf State.reset w = Window.zero) ∧ State.reset.cmd.running = [] ∧ State.reset.land.mans = [] ∧
  State.reset.tds = [] ∧ (∀ a, State.reset.byteAt a = 0) ∧ (∀ p, p < 128 → fld State.reset (rHbPortStat p) 0 0 = 0) ∧
  State.reset.pending = []

/-- The memory of the reset state is in its canonical form. -/
def Obligations.ResetKeepsForm : Prop := State.reset.memOk

/-- Every step that answers a next state keeps the memory in its canonical form, from every state that has it. -/
def Obligations.StepKeepsForm : Prop := ∀ s t : State, s.memOk → step s = .next t → t.memOk

/-! ### Host requests (03, 05) -/

/-- A read or an acquire read of this harbour that can go at once is served from its region, and its tag is answered (R47,
R57, R98). A request of the reserved opcode is answered UNMAPPED on its channel, in an Active harbour at once (R11, R44, R390;
which channel that is, is the model's choice, log entry 48). -/
def Obligations.ReadsComplete : Prop :=
  (∀ (s : State) (p : Nat) (hdr : BitVec 128) (k : ReqKind) (g : Region), Accepts s p hdr →
    kindOf (ReqHdr.ofBits hdr).opc = some k → Goes (taken s p hdr) (requestOf p k hdr []) →
    regionOf s.part (requestOf p k hdr []).a = some g →
    (k = .rd → exec (.rd p hdr) s = .next (settle (serveRead (taken s p hdr) (requestOf p k hdr []) g))) ∧
    (k = .rda → exec (.rda p hdr) s = .next (settle (serveRead (taken s p hdr) (requestOf p k hdr []) g)))) ∧
  (∀ (s : State) (p : Nat) (hdr : BitVec 128), portUp s p = true → s.pow.harbour = .active → (ReqHdr.ofBits hdr).opc = 0 →
    1 ≤ creditsFree s p (channelOf s none (ReqHdr.ofBits hdr).addr) → (p, (ReqHdr.ofBits hdr).tag) ∉ s.host.tags →
    exec (.rd p hdr) s = .next (respond (taken s p hdr) p (channelOf s none (ReqHdr.ofBits hdr).addr) (ReqHdr.ofBits hdr).tag
      .unmapped []))

/-- A write without FINAL that can go at once is performed in its region, or leaves as a packet (R45, R47, R97). -/
def Obligations.WritesComplete : Prop :=
  ∀ (s : State) (p : Nat) (hdr : BitVec 128) (data : List Codeword) (k : ReqKind), Accepts s p hdr →
    kindOf (ReqHdr.ofBits hdr).opc = some k → (ReqHdr.ofBits hdr).final = false →
    Goes (taken s p hdr) (requestOf p k hdr data) →
    let r := requestOf p k hdr data
    let s1 := taken s p hdr
    (k = .wr → sentAway s1 r = false → ∀ g, regionOf s.part r.a = some g →
      exec (.wr p hdr data) s = .next (settle (serveWrite s1 r g))) ∧
    (k = .wrr → sentAway s1 r = false → ∀ g, regionOf s.part r.a = some g →
      exec (.wrr p hdr data) s = .next (settle (serveWrite s1 r g))) ∧
    (k = .wr → sentAway s1 r = true → exec (.wr p hdr data) s = .next (settle (sendAway s1 r))) ∧
    (k = .wrr → sentAway s1 r = true → exec (.wrr p hdr data) s = .next (settle (sendAway s1 r)))

/-- A FINAL write is taken by the landing engine or leaves as a packet, and is answered OK at once (R103, R104). -/
def Obligations.FinalWritesComplete : Prop :=
  ∀ (s : State) (p : Nat) (hdr : BitVec 128) (data : List Codeword) (k : ReqKind), Accepts s p hdr →
    kindOf (ReqHdr.ofBits hdr).opc = some k → k = .wr ∨ k = .wrr → (ReqHdr.ofBits hdr).final = true →
    Goes (taken s p hdr) (requestOf p k hdr data) →
    let r := requestOf p k hdr data
    let s1 := taken s p hdr
    (sentAway s1 r = true → exec (.finalWrite p hdr data) s = .next (settle (sendAway s1 r))) ∧
    (sentAway s1 r = false → ∀ t, takeFinal s1 (heldReq r) = some t →
      exec (.finalWrite p hdr data) s = .next (settle (answer (judgeAll t) r .ok [])))

/-- An atomic that can go at once operates on its eight bytes; an FNL whose acknowledgements have come is answered (R48, R51). -/
def Obligations.AtomicsAndFnlComplete : Prop :=
  ∀ (s : State) (p : Nat) (hdr : BitVec 128), Accepts s p hdr →
    (∀ ops g, kindOf (ReqHdr.ofBits hdr).opc = some .atm →
      let r := requestOf p .atm hdr [codewordOf (bytesGrain (ops.flatMap fun w => leBytes 8 w.toNat))]
      Goes (taken s p hdr) r → regionOf s.part r.a = some g →
      exec (.atm p hdr ops) s = .next (settle (serveAtomic (taken s p hdr) r))) ∧
    (kindOf (ReqHdr.ofBits hdr).opc = some .fnl → Goes (taken s p hdr) (requestOf p .fnl hdr []) →
      exec (.fnl p hdr) s = .next (settle (endFnl (taken s p hdr) (requestOf p .fnl hdr []))))

/-- A pilot message of ABORT or SNAP on a free tag, with a pilot credit of its host die, is acted on, and answered OK once no
quay sleeps (R59-R63). -/
def Obligations.PilotRequestsComplete : Prop :=
  ∀ (s : State) (p : Nat) (hdr msg : BitVec 128) (lat : Nat), portUp s p = true → 1 ≤ creditsFree s p .pilot →
    (p, (ReqHdr.ofBits hdr).tag) ∉ s.host.tags → kindOf (ReqHdr.ofBits hdr).opc = some .plt → (ReqHdr.ofBits hdr).len = 2 →
    bits msg.toNat 7 0 = 1 ∨ bits msg.toNat 7 0 = 3 →
    exec (.plt p hdr msg lat) s = .next (servePlt (taken s p hdr) p (ReqHdr.ofBits hdr) msg lat)

/-- What a port shows of its link: a flit without credit is refused and noted, as is a request that comes without the credits
it needs, a credit lets the messages of its channel go in the order of the port's weights, with the resets whose response thereby
leaves, and a replay is counted in the register and its logbook mirror, one of a pilot message in PL_STAT too, on a host port or
on a quay link (R54-R56, R62, R394). What a response credit and a request's credits count is the model's choice (log entry 101). -/
def Obligations.LinkEventsComplete : Prop :=
  (∀ (s : State) (p : Nat), portUp s p = true →
    exec (.flitWithoutCredit p) s = .next (emit (setFld s (rHbPortStat p) 4 4 1) (.linkRefused p)) ∧
    (∀ hdr : BitVec 128, (ReqHdr.ofBits hdr).opc = 1 →
      creditsFree s p (channelOf s (some .rd) (ReqHdr.ofBits hdr).addr) = 0 →
      exec (.rd p hdr) s = .next (emit (setFld s (rHbPortStat p) 4 4 1) (.linkRefused p))) ∧
    (∀ ch,
      let t := pumpPort { s with host := { s.host with
        credits := tset s.host.credits p ((creditsOf s p).set ch ((creditsOf s p).get ch + 1)) } } p
      exec (.responseCredit p ch) s = .next (if t.host.orders = [] then t else settle t)) ∧
    exec (.linkReplay (.hostPort p) false) s = .next (bumpMirror s (rHbPortStat p) 31 16 1) ∧
    exec (.linkReplay (.hostPort p) true) s = .next (bumpMirror (bumpMirror s (rHbPortStat p) 31 16 1) rPlStat 31 16 1)) ∧
  (∀ (s : State) (q : Nat), q < quays s.part → s.pow.harbour = .active →
    exec (.linkReplay (.quay q) true) s = .next (bumpMirror s rPlStat 31 16 1) ∧ exec (.linkReplay (.quay q) false) s = .next s)

/-- A held read that can go is served, and every request that this lets go follows it; one of which an access must still wait
for a sleeping quay (R388) goes on waiting, with the wake it has started (R57; log entry 14). -/
def Obligations.HeldReadCompletes : Prop :=
  ∀ (s : State) (p tag : Nat) (h : HeldReq), findReq s p tag = some h → h.req.isRd = true → verdict s h false = .go →
    ((attempt s fun t => takeEffect t h).2 = true → exec (.heldRead p tag) s = .next (settle (takeEffect s h))) ∧
    ((attempt s fun t => takeEffect t h).2 = false →
      exec (.heldRead p tag) s = .next (settle (setWhy (keepWakes s (takeEffect s h)) h.req .bank)))

/-! ### Registers, mode words and berth windows written by a host port -/

/-- The rows that write one register: port, header, offset and value. -/
def registerRow : Instr → Option (Nat × BitVec 128 × Nat × Word)
  | .bootGo p h v => some (p, h, rHbBoot, v)
  | .lock p h v => some (p, h, rHbProtLock, v)
  | .hbProtRgnWrite p h r v => if r < 32 then some (p, h, rHbProtRgn r, v) else none
  | .hbRoadsteadWrite p h v => some (p, h, rHbRoadstead, v)
  | .hbArenaWrite p h v => some (p, h, rHbArena, v)
  | .hbCmdwWrite p h w v => if w < 256 then some (p, h, rHbCmdw w, v) else none
  | .hbCmdrWrite p h w v => if w < 256 then some (p, h, rHbCmdr w, v) else none
  | .hbCmdcWrite p h w v => if w < 256 then some (p, h, rHbCmdc w, v) else none
  | .hbSigCfgWrite p h v => some (p, h, rHbSigCfg, v)
  | .hbTdTurnWrite p h v => some (p, h, rHbTdTurn, v)
  | .hbKwSeed0Write p h v => some (p, h, rHbKwSeed0, v)
  | .hbKwSeed1Write p h v => some (p, h, rHbKwSeed1, v)
  | .inKwCseed0Write p h v => some (p, h, rInKwCseed0, v)
  | .inKwCseed1Write p h v => some (p, h, rInKwCseed1, v)
  | .hbEtaValWrite p h n v => if n < 64 then some (p, h, rHbEtaVal n, v) else none
  | .hbEtaStepWrite p h n v => if n < 64 then some (p, h, rHbEtaStep n, v) else none
  | .hbPsetLsWrite p h n v => if n < 64 then some (p, h, rHbPsetLs n, v) else none
  | .hbPsetReplWrite p h n v => if n < 64 then some (p, h, rHbPsetRepl n, v) else none
  | .ldAnchWrite p h v => some (p, h, rLdAnch, v)
  | .dsPoolWrite p h c v => some (p, h, if c then rDsPoolCfg else rDsPoolBase, v)
  | .btPermitCfgWrite p h q v => if q < 16 then some (p, h, rBtPermitCfg q, v) else none
  | .inRecallCtlWrite p h v => some (p, h, rInRecallCtl, v)
  | .inRetireCfgWrite p h v => some (p, h, rInRetireCfg, v)
  | .pwCapWrite p h v => some (p, h, rPwCap, v)
  | .registerWrite p h off v => some (p, h, off, v)
  | _ => none

/-- Every row that writes one register is the write of its value at its offset: where it can go at once, the register is
written, the response says whether a field refused it, and the resets it orders follow (R39, R46, R394, R412). -/
def Obligations.RegisterRowsComplete : Prop :=
  ∀ (s : State) (i : Instr) (p : Nat) (hdr : BitVec 128) (off : Nat) (v : Word), registerRow i = some (p, hdr, off, v) →
    off % 8 = 0 → off < 0x1000000 →
    let w := writeHdr hdr (regBase + off) 1
    let r := requestOf p (if (ReqHdr.ofBits w).opc = 3 then .wrr else .wr) w [codewordOf (bytesGrain (leBytes 8 v.toNat))]
    Accepts s p w → Goes (taken s p w) r →
      exec i s = .next (settle (serveRegWrite (taken s p w) r)) ∧ r.a = regBase + off ∧ r.values = [v.toNat]

/-- The rows that write a mode word or a GO grain are those writes: a mode word already in the mode it orders is answered at
once, one that orders another mode starts the change, and a GO grain is written to the bank's window (R280-R283). -/
def Obligations.BerthWriteRowsComplete : Prop :=
  ∀ (s : State) (p : Nat) (hdr : BitVec 128) (b : Nat), b < 16384 →
    (∀ v : Word,
      let w := writeHdr hdr (modeBase + 8 * b) 1
      let r := requestOf p (if (ReqHdr.ofBits w).opc = 3 then .wrr else .wr) w [codewordOf (bytesGrain (leBytes 8 v.toNat))]
      Accepts s p w →
        (Goes (taken s p w) r → exec (.modeWordWrite p hdr b v) s = .next (settle (answer (taken s p w) r .ok []))) ∧
        (verdict (waiting (taken s p w) r) (heldReq r) false = .start →
          exec (.modeWordWrite p hdr b v) s =
            .next (settle (setWhy (startModes (waiting (taken s p w) r) r) r .modeChange)))) ∧
    (∀ go : Codeword,
      let w := writeHdr hdr (berthBase + b * 0x400000 + 0x200) 4
      let r := requestOf p (if (ReqHdr.ofBits w).opc = 3 then .wrr else .wr) w [go]
      Accepts s p w → Goes (taken s p w) r → b < quays s.part * 1024 →
        exec (.goWrite p hdr b go) s =
          .next (settle (answer (writeWindow (taken s p w) b 0x200 p r.words) r .ok [])))

/-! ### Rows that complete, family by family -/

/-- COMMAND_START takes the oldest packet of a window under the next context number, and lets a fast-path command that
  exists act, answering one that does not with BAD_OPCODE; a firmware command is taken in order of launch, and ends
  ABORTED while the harbourmaster stands HALTED (R73, R77-R79, R83). That contexts are numbered and the number is the next
  one is the model's choice (log entry 99); that a firmware command of an unknown opcode is answered once the
  harbourmaster runs is its reading (log entry 25), and that a command one of whose slots cannot be read ends with
  DATA_POISON is its choice (log entry 113). HELD_REPLY_POST writes the oldest held reply into a ring that has room, with
  its release (R81), and the reply of a HARBOUR_MOOR lets the mooring begin (R390). What follows says `whole s fun _ => t`
  where t is carried out unless an access of it reaches a sleeping quay or meets a declared write region (R316, R388):
  then nothing changes but the wakes it starts, and the row is tried again (log entry 14). -/
def Obligations.CommandsStart : Prop :=
  (∀ (s : State) (w : Nat) (p : CmdPkt) (t : List CmdPkt), (winOf s w).pend = p :: t → s.pow.harbour = .active →
       orderHolds s w p = false → boundHolds s w p = false → fastOp p.opcode = true → opcodes.contains p.opcode = true →
       p.bad = false → exec (.commandStart w) s = .next (takeCmd s w p)) ∧
  (∀ (s : State) (w : Nat) (p : CmdPkt) (t : List CmdPkt), (winOf s w).pend = p :: t → s.pow.harbour = .active →
       orderHolds s w p = false → boundHolds s w p = false → fastOp p.opcode = true → opcodes.contains p.opcode = false →
       exec (.commandStart w) s = .next (complete (takeCmd s w p) s.cmd.nextCx stBAD_OPCODE 0)) ∧
  (∀ (s : State) (w : Nat) (p : CmdPkt) (t : List CmdPkt), (winOf s w).pend = p :: t → s.pow.harbour = .active →
       orderHolds s w p = false → boundHolds s w p = false → fastOp p.opcode = true → opcodes.contains p.opcode = true →
       p.bad = true → exec (.commandStart w) s = .next (complete (takeCmd s w p) s.cmd.nextCx stDATA_POISON 0)) ∧
  (∀ (s : State) (w : Nat) (p : CmdPkt) (t : List CmdPkt), (winOf s w).pend = p :: t → s.pow.harbour = .active →
       orderHolds s w p = false → boundHolds s w p = false → launchWaits s p = false → fastOp p.opcode = false → hmHalted
       (takeCmd s w p) = false → exec (.commandStart w) s = .next (answerBadOps (takeCmd s w p))) ∧
  (∀ (s : State) (w : Nat) (p : CmdPkt) (t : List CmdPkt), (winOf s w).pend = p :: t → s.pow.harbour = .active →
       orderHolds s w p = false → boundHolds s w p = false → launchWaits s p = false → fastOp p.opcode = false → hmHalted
       (takeCmd s w p) = true → exec (.commandStart w) s = .next (complete (takeCmd s w p) s.cmd.nextCx stABORTED 0)) ∧
  (∀ (s : State) (w : Nat) (q : Reply) (t : List Reply) (s1 : State), (winOf s w).held = q :: t → ringWaits s (winOf s w)
       = false → s1 = settleTodo (releaseOpt (writeReply (setWin s w { winOf s w with held := t }) q) q.task q.release).1
       (releaseOpt (writeReply (setWin s w { winOf s w with held := t }) q) q.task q.release).2 → clocksRun s = true →
       (q.opcode ≠ 0x0A02 ∨ s1.pow.moorReply = none) → exec (.heldReplyPost w) s = .next s1) ∧
  (∀ (s : State) (w : Nat) (q : Reply) (t : List Reply) (s1 : State) (retain : Bool), (winOf s w).held = q :: t →
       ringWaits s (winOf s w) = false → s1 = settleTodo (releaseOpt (writeReply (setWin s w { winOf s w with held := t })
       q) q.task q.release).1 (releaseOpt (writeReply (setWin s w { winOf s w with held := t }) q) q.task q.release).2 →
       clocksRun s = true → q.opcode = 0x0A02 → s1.pow.moorReply = some retain → exec (.heldReplyPost w) s = .next
       (beginMooring s1 retain)) ∧
  (∀ (s : State) (f : State → State), (calm s = true ∨ carried s (f s) = true) → whole s f = f s) ∧
  (∀ (s : State) (f : State → State), calm s = false → carried s (f s) = false → (whole s f = keepWakes s (f s) ∧ ∃ d k,
       whole s f = { s with pow := { s.pow with doze := d, waking := k } }))

/-- PSET_CREATE, PSET_DESTROY, PSET_CONST and PSET_QUERY do their work where every check passes (R239, R262-R265); a set
  of no tensors or no groups is none (R85, R262). -/
def Obligations.SetCommandsComplete : Prop :=
  (∀ (s : State) (cx : Nat) (r : Running) (t : TensorTab) (n base : Nat), turnOf s cx 0x0101 = some r → Clear r.pkt
       psetCreateLayout → r.pkt.at 66 1 ≤ 4 → (r.pkt.at 66 1 = 0 ∨ AllPass (constFaults (r.pkt.at 66 1) (constsOf r.pkt)) ∧
       (r.pkt.at 112 1 = fE4M3 ∨ r.pkt.at 112 1 = fK4)) → r.pkt.at 116 4 ≤ 1048576 → t = readTensors s r.pkt → firstEntry
       t.entries (fun v => tensorFault (r.pkt.at 66 1) (r.pkt.at 116 4) (tensorOfBits v)) = none → firstEntry t.entries
       tensorStray = none → tableFault s r.pkt t = false → readDenied s r.pkt (r.pkt.at 120 8 % 2 ^ 44) (16 * r.pkt.at 64 2)
       = false → r.pkt.at 64 2 ≠ 0 → r.pkt.at 116 4 ≠ 0 → t.bad = false → freeSet t.state = some n → createPlace t.state
       r.pkt t = some base → exec (.psetCreate cx) s = .next (whole s fun _ => complete (clearPeers (dropJournal (putSet
       t.state n (Pset.created (constsOf r.pkt) (r.pkt.at 112 1) (r.pkt.at 113 1 % 4) (bit (r.pkt.at 114 1) 0) t.tensors
       (r.pkt.at 116 4) base (createBytes t.state r.pkt t))) n) n) cx stDONE n)) ∧
  (∀ (s : State) (cx : Nat) (r : Running), turnOf s cx 0x0101 = some r → Clear r.pkt psetCreateLayout → r.pkt.at 66 1 ≤ 4
       → (r.pkt.at 66 1 = 0 ∨ AllPass (constFaults (r.pkt.at 66 1) (constsOf r.pkt)) ∧ (r.pkt.at 112 1 = fE4M3 ∨ r.pkt.at
       112 1 = fK4)) → r.pkt.at 116 4 ≤ 1048576 → (r.pkt.at 64 2 = 0 ∨ r.pkt.at 116 4 = 0) → firstEntry (readTensors s
       r.pkt).entries (fun v => tensorFault (r.pkt.at 66 1) (r.pkt.at 116 4) (tensorOfBits v)) = none → firstEntry
       (readTensors s r.pkt).entries tensorStray = none → badSource s (r.pkt.at 120 8 % 2 ^ 44) (16 * r.pkt.at 64 2) = false
       → readDenied s r.pkt (r.pkt.at 120 8 % 2 ^ 44) (16 * r.pkt.at 64 2) = false → exec (.psetCreate cx) s = .next (whole
       s fun _ => complete s cx stDONE_EMPTY 0)) ∧
  (∀ (s : State) (cx : Nat) (r : Running) (x : Pset), turnOf s cx 0x0102 = some r → Clear r.pkt [(8, 15, 0)] → setOf? s
       ((r.pkt.at 64 2)) = some x → setInUse s cx ((r.pkt.at 64 2)) x = false → exec (.psetDestroy cx) s = .next (complete
       (destroySet s ((r.pkt.at 64 2))) cx stDONE 0)) ∧
  (∀ (s : State) (cx : Nat) (r : Running) (x : Pset), turnOf s cx 0x0103 = some r → Clear r.pkt psetConstLayout → setOf? s
       ((r.pkt.at 64 2)) = some x → x.isDispatch = false → r.pkt.at 66 1 = x.consts.rule → AllPass (constFaults
       x.consts.rule (constsOf r.pkt)) → x.sw.phase = .idle → bit (r.pkt.at 67 1) 3 = false → exec (.psetConst cx) s = .next
       (whole s fun _ => complete (modSet s ((r.pkt.at 64 2)) fun y => { y with consts := constsOf r.pkt, lazy := y.lazy })
       cx stDONE 0)) ∧
  (∀ (s : State) (cx : Nat) (r : Running) (x : Pset) (t : State × List (Option Byte)), turnOf s cx 0x0103 = some r → Clear
       r.pkt psetConstLayout → setOf? s ((r.pkt.at 64 2)) = some x → x.isDispatch = false → r.pkt.at 66 1 = x.consts.rule →
       AllPass (constFaults x.consts.rule (constsOf r.pkt)) → x.sw.phase = .idle → bit (r.pkt.at 67 1) 3 = true →
       leavesRegion s (r.pkt.at 96 8 % 2 ^ 44) (ceilDiv x.groups 8) = false → readDenied s r.pkt (r.pkt.at 96 8 % 2 ^ 44)
       (ceilDiv x.groups 8) = false → t = readTable s (r.pkt.at 96 8 % 2 ^ 44) (ceilDiv x.groups 8) → tableBad t.2 = false →
       exec (.psetConst cx) s = .next (whole s fun _ => complete (modSet t.1 ((r.pkt.at 64 2)) fun y =>
       { y with consts := constsOf r.pkt, lazy := lazyOf x.groups t.2 }) cx stDONE 0)) ∧
  (∀ (s : State) (cx : Nat) (r : Running) (x : Pset), turnOf s cx 0x0106 = some r → Clear r.pkt [(8, 15, 0), (9, 43, 0)] →
       setOf? s ((r.pkt.at 64 2)) = some x → (r.pkt.at 72 8 % 2 ^ 44) % 32 = 0 → inSoftware s ((r.pkt.at 72 8 % 2 ^ 44)) 64
       = true → r.pkt.hasRight s rightWrite ((r.pkt.at 72 8 % 2 ^ 44)) 64 = true → exec (.psetQuery cx) s = .next (whole s
       fun _ => complete (writeBytes s ((r.pkt.at 72 8 % 2 ^ 44)) (queryBytes s ((r.pkt.at 64 2)) x)) cx stDONE 0))

/-- TD_CREATE gives a new descriptor a free number, and TD_DESTROY frees the number of one that no set uses (R143). Which
  free number is the model's open choice (log entry 12); that a descriptor whose TURN is not 0, or whose set is not
  resident, is used by no set is its reading (log entry 34). -/
def Obligations.DescriptorCommandsComplete : Prop :=
  (∀ (s : State) (cx : Nat) (r : Running), turnOf s cx 0x0104 = some r → Clear r.pkt tdCreateLayout → AllPass (tdParams s
       r.pkt (tdOfPacket r.pkt)) → AllPass (tdDescr s (tdOfPacket r.pkt)) → tdDenied s r.pkt (tdOfPacket r.pkt) = false →
       s.tds.length < 65536 → ∃ n < 65536, tget? s.tds n = none ∧ exec (.tdCreate cx) s = .next (complete
       { s with free := s.free + 1, tds := tset s.tds n (tdOfPacket r.pkt) } cx stDONE n)) ∧
  (∀ (s : State) (cx : Nat) (r : Running) (d : TDesc), turnOf s cx 0x0105 = some r → Clear r.pkt [(8, 15, 0)] → tget?
       s.tds ((r.pkt.at 64 2)) = some d → (d.turn ≠ 0 ∨ setOf? s d.pset = none) → exec (.tdDestroy cx) s = .next (complete
       { s with tds := terase s.tds ((r.pkt.at 64 2)) } cx stDONE 0))

/-- MAN_OPEN opens a generation, MAN_CANCEL fails an OPEN one with the count that landed, once nothing that its end writes
  must wait (R74, log entry 14), and MAN_QUERY answers the count, once the deadlines that have passed are applied (R173,
  R176, R178, R179). An empty manifest closes at once with DONE_EMPTY (R87); one of no contributions marks its range as
  zero first (R173, R182). -/
def Obligations.ManifestCommandsComplete : Prop :=
  (∀ (s : State) (cx : Nat) (r : Running), turnOf s cx 0x0201 = some r → Clear r.pkt manOpenLayout → AllPass (manParams
       ((landTicks s)) ((r.pkt.at 64 2 % 16384)) ((manOfPkt (landTicks s) r.pkt))) → manDenied ((landTicks s)) r.pkt
       ((manOfPkt (landTicks s) r.pkt)) = false → (manOf ((landTicks s)) ((r.pkt.at 64 2 % 16384))).state ≠ .opened →
       manClash ((landTicks s)) ((r.pkt.at 64 2 % 16384)) ((manOfPkt (landTicks s) r.pkt)) = false → manActive ((landTicks
       s)) < 16384 → ((manOfPkt (landTicks s) r.pkt)).isEmpty = false → exec (.manOpen cx) s = .next (afterLanding (unpark
       (complete (openMan ((landTicks s)) ((r.pkt.at 64 2 % 16384)) ((manOfPkt (landTicks s) r.pkt))) cx stDONE 0)
       ((r.pkt.at 64 2 % 16384))))) ∧
  (∀ (s : State) (cx : Nat) (r : Running), turnOf s cx 0x0201 = some r → Clear r.pkt manOpenLayout → AllPass (manParams
       ((landTicks s)) ((r.pkt.at 64 2 % 16384)) ((manOfPkt (landTicks s) r.pkt))) → manDenied ((landTicks s)) r.pkt
       ((manOfPkt (landTicks s) r.pkt)) = false → (manOf ((landTicks s)) ((r.pkt.at 64 2 % 16384))).state ≠ .opened →
       manClash ((landTicks s)) ((r.pkt.at 64 2 % 16384)) ((manOfPkt (landTicks s) r.pkt)) = false → manActive ((landTicks
       s)) < 16384 → ((manOfPkt (landTicks s) r.pkt)).isEmpty = true → (((manOfPkt (landTicks s) r.pkt)).kind ≠ 1 ∨
       ((manOfPkt (landTicks s) r.pkt)).contribs ≠ 0) → exec (.manOpen cx) s = .next (afterLanding (unpark (complete
       (openMan ((landTicks s)) ((r.pkt.at 64 2 % 16384)) { ((manOfPkt (landTicks s) r.pkt)) with state := .closed }) cx
       stDONE_EMPTY 0) ((r.pkt.at 64 2 % 16384))))) ∧
  (∀ (s : State) (cx : Nat) (r : Running), turnOf s cx 0x0201 = some r → Clear r.pkt manOpenLayout → AllPass (manParams
       ((landTicks s)) ((r.pkt.at 64 2 % 16384)) ((manOfPkt (landTicks s) r.pkt))) → (manOf ((landTicks s)) ((r.pkt.at 64 2
       % 16384))).state ≠ .opened → manClash ((landTicks s)) ((r.pkt.at 64 2 % 16384)) ((manOfPkt (landTicks s) r.pkt)) =
       false → manActive ((landTicks s)) < 16384 → ((manOfPkt (landTicks s) r.pkt)).kind = 1 → ((manOfPkt (landTicks s)
       r.pkt)).contribs = 0 → exec (.manOpen cx) s = .next (afterLanding (unpark (complete (markRange (openMan ((landTicks
       s)) ((r.pkt.at 64 2 % 16384)) { ((manOfPkt (landTicks s) r.pkt)) with state := .closed }) ((manOfPkt (landTicks s)
       r.pkt))) cx stDONE_EMPTY 0) ((r.pkt.at 64 2 % 16384))))) ∧
  (∀ (s : State) (cx : Nat) (r : Running) (x : Manifest), turnOf s cx 0x0202 = some r → Clear r.pkt manLayout → manNamed
       (landTicks s) (r.pkt.at 64 2 % 16384) (r.pkt.at 66 2) = some x → x.state = .opened → endOwed (failMan (landTicks s)
       (r.pkt.at 64 2 % 16384) false) (r.pkt.at 64 2 % 16384) x.gen = false → exec (.manCancel cx) s = .next (afterLanding
       (complete (failMan (landTicks s) (r.pkt.at 64 2 % 16384) false) cx stDONE x.landed))) ∧
  (∀ (s : State) (cx : Nat) (r : Running), turnOf s cx 0x0203 = some r → Clear r.pkt manLayout → exec (.manQuery cx) s =
       .next (afterLanding (complete (landTicks s) cx stDONE (manCount (manNamed (landTicks s) (r.pkt.at 64 2 % 16384)
       (r.pkt.at 66 2))))))

/-- WATCH_SET arms a watch that no one holds, and WATCH_CLEAR removes one whose notices have been sent, answering their
  number (R108, R110). -/
def Obligations.WatchCommandsComplete : Prop :=
  (∀ (s : State) (cx : Nat) (r : Running), turnOf s cx 0x0204 = some r → Clear r.pkt watchSetLayout → AllPass (watchParams
       s r.pkt) → r.pkt.hasRight s rightRead ((r.pkt.at 72 8 % 2 ^ 44)) ((r.pkt.at 80 8 % 2 ^ 44)) = true → ((List.range
       ((r.pkt.at 65 1 % 16))).map (watchSub r.pkt)).all (fun x => r.pkt.portRight s x.1 rightRead ((r.pkt.at 72 8 % 2 ^
       44)) ((r.pkt.at 80 8 % 2 ^ 44))) = true → (r.pkt.at 65 1 % 16) ≠ 0 → (r.pkt.at 80 8 % 2 ^ 44) ≠ 0 → tget?
       s.sync.watches (r.pkt.at 64 1) = none → exec (.watchSet cx) s = .next (complete
       { s with sync := { s.sync with watches := tset s.sync.watches (r.pkt.at 64 1) { base := (r.pkt.at 72 8 % 2 ^ 44), length := (r.pkt.at 80 8 % 2 ^ 44), subs := (List.range ((r.pkt.at 65 1 % 16))).map (watchSub r.pkt), sent := 0 } } }
       cx stDONE 0)) ∧
  (∀ (s : State) (cx : Nat) (r : Running) (x : Watch), turnOf s cx 0x0205 = some r → Clear r.pkt [(8, 7, 0)] → tget?
       s.sync.watches (r.pkt.at 64 1) = some x → noticeWaits s (r.pkt.at 64 1) = false → exec (.watchClear cx) s = .next
       (complete { s with sync := { s.sync with watches := terase s.sync.watches (r.pkt.at 64 1) } } cx stDONE x.sent))

/-- ROUTE_LOAD loads a routing table; TOKEN_SEND, TOKEN_RETURN and GRAD_DISPATCH send their packets and wait for the
  acknowledgements; BUF_RELEASE sends a release record where its ring has room and waits where it has none, keeping what
  its record says of the generation that it named (R102, R194-R208). That GRAD_DISPATCH ends with DATA_POISON where a
  source grain could not be read is the model's reading (R326, log entry 95), and so it is that BUF_RELEASE waits while
  another one is under way (log entry 96) and that TOKEN_RETURN waits while the failure of its manifest still has records
  to write (log entry 118); what BUF_RELEASE does where DS_POOL_BASE names an address that is not carried is its choice
  (log entry 117). -/
def Obligations.DispatchCommandsComplete : Prop :=
  (∀ (s : State) (cx : Nat) (r : Running) (t : State × List (Option Byte)), turnOf s cx 0x0301 = some r → Clear r.pkt [(8,
       1, 0), (8, 63, 32), (9, 43, 0)] → (r.pkt.at 68 4) ≤ 65536 → badSource s ((r.pkt.at 72 8 % 2 ^ 44)) (4 * (r.pkt.at 68
       4)) = false → t = readTable s ((r.pkt.at 72 8 % 2 ^ 44)) (4 * (r.pkt.at 68 4)) → (tableEntries t.2 4 ((r.pkt.at 68
       4))).all (fun e => e.all fun v => decide (bits v 17 0 < countNum s)) = true → readDenied s r.pkt ((r.pkt.at 72 8 % 2
       ^ 44)) (4 * (r.pkt.at 68 4)) = false → (r.pkt.at 68 4) ≠ 0 → runsOther s cx 0x0302 (fun q => q.at 64 1 % 4 ==
       r.pkt.at 64 1 % 4) = false → tableBad t.2 = false → exec (.routeLoad cx) s = .next (whole s fun _ => complete
       { t.1 with disp := { t.1.disp with routes := tset t.1.disp.routes (r.pkt.at 64 1 % 4) ((tableEntries t.2 4 ((r.pkt.at 68 4))).map fun e => BitVec.ofNat 64 (e.getD 0)) } }
       cx stDONE 0)) ∧
  (∀ (s : State) (cx : Nat) (r : Running) (t u : State × List (Option Byte)), turnOf s cx 0x0302 = some r → Clear r.pkt
       tokenSendLayout → t = tokenRoutes s r.pkt → AllPass (tokenSendParams s r.pkt ((tableEntries t.2 2 (t.2.length / 2))))
       → tokenSendDenied s r.pkt = false → r.pkt.at 96 4 ≠ 0 → r.pkt.at 65 1 ≠ 0 → r.pkt.at 66 2 ≠ 0 → u = (if bit (r.pkt.at
       88 8) 63 then readTable t.1 (r.pkt.at 88 8 % 2 ^ 44) (8 * r.pkt.at 65 1 * r.pkt.at 96 4) else (t.1, [])) → tableBad
       t.2 = false → tableBad u.2 = false → exec (.tokenSend cx) s = .next (whole s fun _ => awaitAcks (bump (sendTokens u.1
       cx r.pkt ((tableEntries t.2 2 (t.2.length / 2))) u.2).1 rDsStat 31 0 (sendTokens u.1 cx r.pkt ((tableEntries t.2 2
       (t.2.length / 2))) u.2).2) cx stDONE (sendTokens u.1 cx r.pkt ((tableEntries t.2 2 (t.2.length / 2))) u.2).2)) ∧
  (∀ (s : State) (cx : Nat) (r : Running) (x : Manifest) (t : State × List (Option Byte)), turnOf s cx 0x0303 = some r →
       Clear r.pkt [(8, 13, 0), (8, 31, 16), (8, 47, 32), (9, 43, 0)] → x = manOf s (r.pkt.at 64 2 % 16384) → x.gen =
       r.pkt.at 66 2 → x.kind = 2 → (x.state = .closed ∨ x.state = .failed) → s.land.failing.any (fun f => f.1 == r.pkt.at
       64 2 % 16384 && f.2.2.gen == x.gen) = false → (r.pkt.at 68 2) ≤ 4096 → (r.pkt.at 68 2) ≠ 0 → badSource s ((r.pkt.at
       72 8 % 2 ^ 44)) (32 * (r.pkt.at 68 2) * x.records) = false → readDenied s r.pkt ((r.pkt.at 72 8 % 2 ^ 44)) (32 *
       (r.pkt.at 68 2) * x.records) = false → t = readTable s x.lading (32 * x.records) → tableBad t.2 = false → exec
       (.tokenReturn cx) s = .next (whole s fun _ => awaitAcks (sendRows t.1 cx ((r.pkt.at 68 2)) ((r.pkt.at 72 8 % 2 ^ 44))
       t.2 x.records) cx stDONE x.records)) ∧
  (∀ (s : State) (cx : Nat) (r : Running), turnOf s cx 0x0304 = some r → Clear r.pkt gradDispatchLayout → AllPass
       (gradDispatchParams s r.pkt) → readDenied s r.pkt (r.pkt.at 80 8 % 2 ^ 44) (8192 * (r.pkt.at 76 4)) = false →
       (r.pkt.at 76 4) ≠ 0 → (r.pkt.at 66 1 ≠ 2 ∨ r.pkt.at 68 2 ≠ 0) → runsOther s cx 0x0304 (fun q => q.at 64 2 == r.pkt.at
       64 2 && overlaps (r.pkt.at 72 4) ((r.pkt.at 76 4)) (q.at 72 4) (q.at 76 4)) = false → exec (.gradDispatch cx) s =
       .next (whole s fun _ => awaitAcks (((List.range ((r.pkt.at 76 4))).foldl (gdConsign cx r) (modSet s (r.pkt.at 64 2)
       fun x => { x with dispStep := r.pkt.at 104 8 % 2 ^ 48 }, false))).1 cx (if (((List.range ((r.pkt.at 76 4))).foldl
       (gdConsign cx r) (modSet s (r.pkt.at 64 2) fun x => { x with dispStep := r.pkt.at 104 8 % 2 ^ 48 }, false))).2 then
       stDATA_POISON else stDONE) ((r.pkt.at 76 4)))) ∧
  (∀ (s : State) (cx : Nat) (r : Running) (x : Manifest), turnOf s cx 0x0305 = some r → Clear r.pkt [(8, 13, 0), (8, 31,
       16)] → x = manOf s (r.pkt.at 64 2 % 16384) → x.gen = r.pkt.at 66 2 → x.kind = 2 → (x.state = .closed ∨ x.state =
       .failed) → fld s rDsPoolCfg 4 0 ≠ 0 → (relRing s).2 = false → runsOther s cx 0x0305 (fun _ => true) = false → exec
       (.bufRelease cx) s = .next (whole s fun _ => sendRelease (relRing s).1 cx r.pkt ⟨x.base, x.bytes, x.records⟩)) ∧
  (∀ (s : State) (cx : Nat) (r : Running) (x : Manifest), turnOf s cx 0x0305 = some r → Clear r.pkt [(8, 13, 0), (8, 31,
       16)] → x = manOf s (r.pkt.at 64 2 % 16384) → x.gen = r.pkt.at 66 2 → x.kind = 2 → (x.state = .closed ∨ x.state =
       .failed) → fld s rDsPoolCfg 4 0 ≠ 0 → ((relRing s).2 = true ∨ runsOther s cx 0x0305 (fun _ => true) = true) → exec
       (.bufRelease cx) s = .next (whole s fun _ => putCmd (relRing s).1 cx
       { r with phase := .waitRing (now s) x.base x.bytes x.records })) ∧
  (∀ (s : State) (cx t0 base bytes records : Nat) (r : Running), cmdOf? s cx = some r → r.phase = .waitRing t0 base bytes
       records → r.pkt.opcode = 0x0305 → (relRing s).2 = false → releaseUnderWay s cx = false → exec (.bufRelease cx) s =
       .next (whole s fun _ => sendRelease (relRing s).1 cx r.pkt ⟨base, bytes, records⟩)) ∧
  (∀ (s : State) (cx t0 base bytes records : Nat) (r : Running), cmdOf? s cx = some r → r.phase = .waitRing t0 base bytes
       records → (relRing s).2 = true → fld s rDsPoolCfg 63 48 ≠ 0 → expired s t0 (fld s rDsPoolCfg 63 48 * 1024) = true →
       exec (.bufReleaseTimeout cx) s = .next (complete (relRing s).1 cx stTIMEOUT 0))

/-- SWEEP and SWEEP_RESUME proceed from the phase of the sweep record once every check passes and the addresses are noted;
  ABANDON ends the round and waits for the acknowledgements of what it recalled (R102); the timeouts end a wait that has
  run its ticks, with how many consignments have not been finalised (R218, R220, R231, R232, R236). LOSS_SCALE stores a
  scale within its bounds (R217). -/
def Obligations.SweepCommandsComplete : Prop :=
  (∀ (s : State) (cx : Nat) (r : Running), turnOf s cx 0x0401 = some r → sweepCheck s cx r.pkt false = none → exec (.sweep
       cx) s = .next (whole s fun _ => proceed (latchSeeds (noteAddresses s (r.pkt.at 64 2) r.pkt) (r.pkt.at 64 2) r) cx
       (r.pkt.at 64 2))) ∧
  (∀ (s : State) (cx : Nat) (r : Running), turnOf s cx 0x0402 = some r → sweepCheck s cx r.pkt true = none → bit (r.pkt.at
       67 1) 0 = true → exec (.sweepResume cx) s = .next (whole s fun _ => awaitAcks (abandonRound (noteAddresses s
       (r.pkt.at 64 2) r.pkt) (r.pkt.at 64 2)).1 cx stDONE (abandonRound (noteAddresses s (r.pkt.at 64 2) r.pkt) (r.pkt.at
       64 2)).2)) ∧
  (∀ (s : State) (cx : Nat) (r : Running) (x : Pset), turnOf s cx 0x0402 = some r → sweepCheck s cx r.pkt true = none →
       bit (r.pkt.at 67 1) 0 = false → setOf? s (r.pkt.at 64 2) = some x → (bit (r.pkt.at 67 1) 1 = false ∨ x.sw.phase ≠
       .normSent) → exec (.sweepResume cx) s = .next (whole s fun _ => proceed ((modSet (noteAddresses s (r.pkt.at 64 2)
       r.pkt) (r.pkt.at 64 2) fun y => { y with sw := { y.sw with cResumes := y.sw.cResumes + 1 } })) cx (r.pkt.at 64 2))) ∧
  (∀ (s : State) (cx : Nat) (r : Running) (x : Pset), turnOf s cx 0x0402 = some r → sweepCheck s cx r.pkt true = none →
       bit (r.pkt.at 67 1) 0 = false → setOf? s (r.pkt.at 64 2) = some x → bit (r.pkt.at 67 1) 1 = true → x.sw.phase =
       .normSent → exec (.sweepResume cx) s = .next (whole s fun _ => proceed (hostDecision ((modSet (noteAddresses s
       (r.pkt.at 64 2) r.pkt) (r.pkt.at 64 2) fun y => { y with sw := { y.sw with cResumes := y.sw.cResumes + 1 } }))
       (r.pkt.at 64 2) r.pkt) cx (r.pkt.at 64 2))) ∧
  (∀ (s : State) (cx t0 : Nat) (r : Running) (x : Pset), cmdOf? s cx = some r → r.phase = .sweepLand t0 → setOf? s
       (r.pkt.at 64 2) = some x → r.pkt.at 68 4 ≠ 0 → expired s t0 (r.pkt.at 68 4) = true → hmRuns s = true → exec
       (.sweepLandTimeout cx) s = .next (complete (putSet s (r.pkt.at 64 2) { x with sw := { x.sw with latch := none } }) cx
       stINCOMPLETE_LANDING ((List.range x.total).filter fun k => !x.finalised k).length)) ∧
  (∀ (s : State) (cx t0 : Nat) (r : Running), cmdOf? s cx = some r → r.phase = .sweepNorm t0 → r.pkt.at 72 4 ≠ 0 → expired
       s t0 (r.pkt.at 72 4) = true → hmRuns s = true → exec (.sweepNormTimeout cx) s = .next (complete s cx stTIMEOUT 0)) ∧
  (∀ (s : State) (cx : Nat) (r : Running) (x : Pset), turnOf s cx 0x0403 = some r → Clear r.pkt [(8, 23, 0)] → setOf? s
       (r.pkt.at 64 2) = some x → x.isDispatch = false → x.pr.lmin ≤ r.pkt.at 66 1 → r.pkt.at 66 1 ≤ x.pr.lmax → x.sw.phase
       = .idle → exec (.lossScale cx) s = .next (whole s fun _ => complete (writeEpoch s (r.pkt.at 64 2) (fun e =>
       { e with ls := r.pkt.at 66 1, clean := 0 }) .scale) cx stDONE 0))

/-- EXPORT_PUSH of the current epoch serves its blocks and ends; of the next epoch it serves the blocks that are ready and
  waits for the commit; EXPORT_SUB arms a subscription, and with INITIAL pushes the range and waits for the
  acknowledgements; EXPORT_UNSUB disarms it (R102, R270-R274). -/
def Obligations.ExportCommandsComplete : Prop :=
  (∀ (s : State) (cx : Nat) (r : Running) (x : Pset), turnOf s cx 0x0503 = some r → Clear r.pkt pushLayout → AllPass
       (rangeParams s ((pushRange r.pkt)) ((r.pkt.at 88 8)) (rangeSpan s ((pushRange r.pkt)) 1) (8, 10, 11)) → setOf? s
       ((pushRange r.pkt)).pset = some x → globalDenied s r.pkt ((r.pkt.at 88 8)) (rangeSpan s ((pushRange r.pkt)) 1) =
       false → ((pushRange r.pkt)).count ≠ 0 → r.pkt.at 72 8 = x.ep.epoch.toNat → exec (.exportPush cx) s = .next (whole s
       fun _ => endPush (putCmd (serveBlocks s (ftzAt r.ftz clExport) (cmdSource cx) (expPlace s ((r.pkt.at 88 8)))
       ((pushRange r.pkt)) ((pushRange r.pkt)).blocks x.ep.epoch.toNat true) cx
       { r with sent := ((pushRange r.pkt)).count }) cx stDONE)) ∧
  (∀ (s : State) (cx : Nat) (r : Running) (x : Pset), turnOf s cx 0x0503 = some r → Clear r.pkt pushLayout → AllPass
       (rangeParams s ((pushRange r.pkt)) ((r.pkt.at 88 8)) (rangeSpan s ((pushRange r.pkt)) 1) (8, 10, 11)) → setOf? s
       ((pushRange r.pkt)).pset = some x → globalDenied s r.pkt ((r.pkt.at 88 8)) (rangeSpan s ((pushRange r.pkt)) 1) =
       false → ((pushRange r.pkt)).count ≠ 0 → r.pkt.at 72 8 = (x.ep.epoch.toNat + 1) % 18446744073709551616 → exec
       (.exportPush cx) s = .next (whole s fun _ => pushAhead (putCmd (touchCtx s ((pushRange r.pkt)).pset) cx
       { r with phase := .push [] }) cx (((pushRange r.pkt)).blocks.filter (aheadReady x ((pushRange r.pkt))))
       ((x.ep.epoch.toNat + 1) % 18446744073709551616) false)) ∧
  (∀ (s : State) (cx : Nat) (r : Running), turnOf s cx 0x0501 = some r → Clear r.pkt subLayout → AllPass (rangeParams s
       ((subRange r.pkt)) ((r.pkt.at 88 8)) ((rangeSpan s (subRange r.pkt) (if bit (r.pkt.at 67 1) 2 then 2 else 1))) (8, 9,
       11)) → r.pkt.at 73 1 % 128 < ports s.part → (r.pkt.at 96 8) % 32 = 0 → expPlace s ((r.pkt.at 96 8)) ≠ .nowhere →
       globalDenied s r.pkt ((r.pkt.at 88 8)) ((rangeSpan s (subRange r.pkt) (if bit (r.pkt.at 67 1) 2 then 2 else 1))) =
       false → statusDenied s r.pkt = false → ((subRange r.pkt)).count ≠ 0 → tget? s.exp.subs (r.pkt.at 72 1) = none → bit
       (r.pkt.at 67 1) 1 = false → exec (.exportSub cx) s = .next (whole s fun _ => complete (subAhead (putSub (touchCtx s
       ((subRange r.pkt)).pset) (r.pkt.at 72 1) ((subOfPkt r.pkt))) (r.pkt.at 72 1) none) cx stDONE 0)) ∧
  (∀ (s : State) (cx : Nat) (r : Running), turnOf s cx 0x0501 = some r → Clear r.pkt subLayout → AllPass (rangeParams s
       ((subRange r.pkt)) ((r.pkt.at 88 8)) ((rangeSpan s (subRange r.pkt) (if bit (r.pkt.at 67 1) 2 then 2 else 1))) (8, 9,
       11)) → r.pkt.at 73 1 % 128 < ports s.part → (r.pkt.at 96 8) % 32 = 0 → expPlace s ((r.pkt.at 96 8)) ≠ .nowhere →
       globalDenied s r.pkt ((r.pkt.at 88 8)) ((rangeSpan s (subRange r.pkt) (if bit (r.pkt.at 67 1) 2 then 2 else 1))) =
       false → statusDenied s r.pkt = false → ((subRange r.pkt)).count ≠ 0 → tget? s.exp.subs (r.pkt.at 72 1) = none → bit
       (r.pkt.at 67 1) 1 = true → exec (.exportSub cx) s = .next (whole s fun _ => awaitAcks (subAhead (subInitial (putSub
       (touchCtx s ((subRange r.pkt)).pset) (r.pkt.at 72 1) ((subOfPkt r.pkt))) (r.pkt.at 72 1)) (r.pkt.at 72 1) none) cx
       stDONE 0)) ∧
  (∀ (s : State) (cx : Nat) (r : Running) (u : Sub), turnOf s cx 0x0502 = some r → Clear r.pkt [(8, 7, 0)] → tget?
       s.exp.subs (r.pkt.at 64 1) = some u → expBusy s (subSource (r.pkt.at 64 1)) = false → recallWaits s u = false → exec
       (.exportUnsub cx) s = .next (whole s fun _ => complete
       { s with exp := { s.exp with subs := terase s.exp.subs (r.pkt.at 64 1) } } cx stDONE u.pushed))

/-- BERTH_BATCH starts an operation on every bank of its list once each has a place, BERTH_CANCEL withdraws the entries of
  a batch that do not run yet, and a batch whose entries have all ended merges their partials, to poison where one of them
  is poisoned (R296, R299-R301). -/
def Obligations.BerthCommandsComplete : Prop :=
  (∀ (s : State) (cx : Nat) (r : Running) (i t : State × List (Option Byte)), turnOf s cx 0x0601 = some r → i = (if 8 <
       (r.pkt.at 69 1) then (s, []) else readTable s (r.pkt.at 72 8 % 2 ^ 44) (64 * (r.pkt.at 69 1))) → t = (if 16384 <
       (r.pkt.at 64 4) then (i.1, []) else readTable i.1 (r.pkt.at 80 8 % 2 ^ 44) (8 * (r.pkt.at 64 4))) → batchOpBad s
       ((r.pkt.at 69 1)) ((imageReads i.2)) ((batchImage r.pkt i.2)) = false → Clear r.pkt batchLayout → AllPass
       (batchParams s r.pkt ((imageReads i.2)) ((batchImage r.pkt i.2)) (((tableEntries t.2 8 ((r.pkt.at 64 4))).filterMap
       id))) → batchDenied s r.pkt ((imageReads i.2)) ((batchImage r.pkt i.2)) (((tableEntries t.2 8 ((r.pkt.at 64
       4))).filterMap id)) = false → (r.pkt.at 64 4) ≠ 0 → (r.pkt.at 69 1) ≠ 0 → tableBad i.2 = false → tableBad t.2 = false
       → (((tableEntries t.2 8 ((r.pkt.at 64 4))).filterMap id)).all (fun v => placeFree s (entryBank v)) = true → exec
       (.berthBatch cx) s = .next (whole s fun _ => settle (startBatch t.1 cx r ((batchImage r.pkt i.2)).slots
       (((tableEntries t.2 8 ((r.pkt.at 64 4))).filterMap id))))) ∧
  (∀ (s : State) (cx : Nat) (r : Running) (b : Nat × Running), turnOf s cx 0x0602 = some r → Clear r.pkt [(8, 7, 0), (8,
       31, 16)] → findBatch s (r.pkt.at 64 1) (r.pkt.at 66 2) = some b → exec (.berthCancel cx) s = .next (settle (complete
       (cancelBatch s b.1 b.2).1 cx stDONE (cancelBatch s b.1 b.2).2))) ∧
  (∀ (s : State) (cx : Nat) (r : Running), batchCmd s cx = some r → batchDone s cx = true → batchMerges s cx r = true →
       ((readPartials ((entryOp r.pkt (tget s.berth.images cx []) cx 0 0)) (tget s.berth.batches cx []) s)).2.1 ≠ [] →
       ((readPartials ((entryOp r.pkt (tget s.berth.images cx []) cx 0 0)) (tget s.berth.batches cx []) s)).2.2 = false →
       exec (.berthMerge cx) s = .next (whole s fun _ => settle (completeBatch (writeMerge (noteFlush (noteMerge
       ((readPartials ((entryOp r.pkt (tget s.berth.images cx []) cx 0 0)) (tget s.berth.batches cx []) s)).1 (((((tget
       s.berth.batches cx [])[0]?).map (·.bank)).getD 0 / 1024)) r.pkt) clBerth (((mergeBytes (ftzAt r.ftz clBerth)
       ((entryOp r.pkt (tget s.berth.images cx []) cx 0 0)) (r.pkt.at 70 1) ((bit (r.pkt.at 68 1) 1)) ((readPartials
       ((entryOp r.pkt (tget s.berth.images cx []) cx 0 0)) (tget s.berth.batches cx []) s)).2.1).run 0)).2) (r.pkt.at 88 8
       % 2 ^ 44) (mergedBytes ((entryOp r.pkt (tget s.berth.images cx []) cx 0 0)) (r.pkt.at 70 1) ((bit (r.pkt.at 68 1)
       1))) (some (((mergeBytes (ftzAt r.ftz clBerth) ((entryOp r.pkt (tget s.berth.images cx []) cx 0 0)) (r.pkt.at 70 1)
       ((bit (r.pkt.at 68 1) 1)) ((readPartials ((entryOp r.pkt (tget s.berth.images cx []) cx 0 0)) (tget s.berth.batches
       cx []) s)).2.1).run 0)).1)) cx r false))) ∧
  (∀ (s : State) (cx : Nat) (r : Running), batchCmd s cx = some r → batchDone s cx = true → batchMerges s cx r = true →
       ((readPartials ((entryOp r.pkt (tget s.berth.images cx []) cx 0 0)) (tget s.berth.batches cx []) s)).2.1 ≠ [] →
       ((readPartials ((entryOp r.pkt (tget s.berth.images cx []) cx 0 0)) (tget s.berth.batches cx []) s)).2.2 = true →
       exec (.berthMerge cx) s = .next (whole s fun _ => settle (completeBatch (writeMerge (noteMerge ((readPartials
       ((entryOp r.pkt (tget s.berth.images cx []) cx 0 0)) (tget s.berth.batches cx []) s)).1 (((((tget s.berth.batches cx
       [])[0]?).map (·.bank)).getD 0 / 1024)) r.pkt) (r.pkt.at 88 8 % 2 ^ 44) (mergedBytes ((entryOp r.pkt (tget
       s.berth.images cx []) cx 0 0)) (r.pkt.at 70 1) (bit (r.pkt.at 68 1) 1)) none) cx r true)))

/-- GATE_OPEN opens a gate that is not in progress, GATE_ARRIVE counts an arrival of its round, GATE_ABORT aborts, and
  each first applies a deadline that has passed (R120-R127). That PARENT is 0 where PARENT_EN is clear is the model's
  choice (log entry 102). An expiry alone aborts a gate whose deadline has passed, and an engine arrives by itself at a
  gate that lists it. -/
def Obligations.GateCommandsComplete : Prop :=
  (∀ (s : State) (cx : Nat) (r : Running), turnOf s cx 0x0701 = some r → Clear r.pkt (gateOpenLayout (r.pkt.at 66 2)) →
       membersFit r.pkt = true → AllPass (gateOpenParams s r.pkt) → AllPass (gateOpenDescr r.pkt) → (gateOf (expireGate s
       ((r.pkt.at 64 2 % 1024))) ((r.pkt.at 64 2 % 1024))).inProgress = false → exec (.gateOpen cx) s = .next (checkGate
       (complete ((openGate (tagObject (expireGate s ((r.pkt.at 64 2 % 1024))) r.pkt.task true ((r.pkt.at 64 2 % 1024)) 0)
       ((r.pkt.at 64 2 % 1024)) (gateMembers r.pkt) (r.pkt.at 68 2) (r.pkt.at 70 2) (r.pkt.at 72 4) r.pkt.task (bit
       (r.pkt.at 76 1) 0) (if bit (r.pkt.at 76 1) 1 then BitVec.ofNat 64 (r.pkt.at 80 8) else 0))).1 cx stDONE ((openGate
       (tagObject (expireGate s ((r.pkt.at 64 2 % 1024))) r.pkt.task true ((r.pkt.at 64 2 % 1024)) 0) ((r.pkt.at 64 2 %
       1024)) (gateMembers r.pkt) (r.pkt.at 68 2) (r.pkt.at 70 2) (r.pkt.at 72 4) r.pkt.task (bit (r.pkt.at 76 1) 0) (if bit
       (r.pkt.at 76 1) 1 then BitVec.ofNat 64 (r.pkt.at 80 8) else 0))).2) ((r.pkt.at 64 2 % 1024)))) ∧
  (∀ (s : State) (cx : Nat) (r : Running), turnOf s cx 0x0702 = some r → Clear r.pkt [(8, 9, 0), (8, 24, 16), (8, 47, 32)]
       → arrCase (gateOf (expireGate s ((r.pkt.at 64 2 % 1024))) ((r.pkt.at 64 2 % 1024))) (r.pkt.at 68 2) = .counts → exec
       (.gateArrive cx) s = .next (gateArriveNow (expireGate s ((r.pkt.at 64 2 % 1024))) cx r ((r.pkt.at 64 2 % 1024))
       (r.pkt.at 66 1) (r.pkt.at 68 2) (bit (r.pkt.at 67 1) 0))) ∧
  (∀ (s : State) (cx : Nat) (r : Running), turnOf s cx 0x0702 = some r → Clear r.pkt [(8, 9, 0), (8, 24, 16), (8, 47, 32)]
       → arrCase (gateOf (expireGate s ((r.pkt.at 64 2 % 1024))) ((r.pkt.at 64 2 % 1024))) (r.pkt.at 68 2) = .early →
       (keepEarly (expireGate s ((r.pkt.at 64 2 % 1024))) ((r.pkt.at 64 2 % 1024)) (r.pkt.at 66 1) (r.pkt.at 68 2) false).2
       = true → bit (r.pkt.at 67 1) 0 = false → exec (.gateArrive cx) s = .next (complete (keepEarly (expireGate s
       ((r.pkt.at 64 2 % 1024))) ((r.pkt.at 64 2 % 1024)) (r.pkt.at 66 1) (r.pkt.at 68 2) false).1 cx stDONE 0)) ∧
  (∀ (s : State) (cx : Nat) (r : Running), turnOf s cx 0x0703 = some r → Clear r.pkt [(8, 9, 0), (8, 31, 16)] → exec
       (.gateAbort cx) s = .next (complete (abortGate (expireGate s ((r.pkt.at 64 2 % 1024))) ((r.pkt.at 64 2 % 1024)) 1
       (r.pkt.at 66 2) .here) cx stDONE 0)) ∧
  (∀ (s : State) (g : Nat), exec (.gateExpiry g) s = .next (expireGate s g)) ∧
  (∀ (s : State) (engine g slot : Nat), (gateOf (expireGate s g) g).inProgress = true → (gateOf (expireGate s g)
       g).members.findIdx? (fun d => mKind d == 0 && mEngine d == engine) = some slot → slot ∉ (gateOf (expireGate s g)
       g).arrived → exec (.engineGateArrival engine g) s = .next (arriveSlot (expireGate s g) g slot))

/-- BEACON_WAIT ends at once where its condition holds and otherwise waits for a write; its timeout ends it with what the
  beacon held when the time ran out; TASK_CLOSE drops the tags of its task, answers how many of its objects are not
  restored and, with LIST_EN, writes an entry of 16 bytes for each of them at LIST; a rising attention line adds one to
  its beacon (R113, R116, R117, R128, R129). -/
def Obligations.BeaconCommandsComplete : Prop :=
  (∀ (s : State) (cx : Nat) (r : Running), turnOf s cx 0x0704 = some r → Clear r.pkt [(8, 24, 0), (8, 63, 32), (9, 63, 0)]
       → r.pkt.at 66 1 ≤ 2 → ((readGrain (tagBeacon s r.pkt.task ((r.pkt.at 64 2))) (beaconAddr ((r.pkt.at 64 2)) / 32 *
       32))).2.bad = false → condMet (r.pkt.at 66 1) ((fieldAt (grainBytes ((readGrain (tagBeacon s r.pkt.task ((r.pkt.at 64
       2))) (beaconAddr ((r.pkt.at 64 2)) / 32 * 32))).2.word.data) (beaconAddr ((r.pkt.at 64 2)) % 32) 8)) (r.pkt.at 72 8)
       = true → exec (.beaconWait cx) s = .next (complete ((readGrain (tagBeacon s r.pkt.task ((r.pkt.at 64 2))) (beaconAddr
       ((r.pkt.at 64 2)) / 32 * 32))).1 cx stDONE ((fieldAt (grainBytes ((readGrain (tagBeacon s r.pkt.task ((r.pkt.at 64
       2))) (beaconAddr ((r.pkt.at 64 2)) / 32 * 32))).2.word.data) (beaconAddr ((r.pkt.at 64 2)) % 32) 8)))) ∧
  (∀ (s : State) (cx : Nat) (r : Running), turnOf s cx 0x0704 = some r → Clear r.pkt [(8, 24, 0), (8, 63, 32), (9, 63, 0)]
       → r.pkt.at 66 1 ≤ 2 → ((readGrain (tagBeacon s r.pkt.task ((r.pkt.at 64 2))) (beaconAddr ((r.pkt.at 64 2)) / 32 *
       32))).2.bad = false → condMet (r.pkt.at 66 1) ((fieldAt (grainBytes ((readGrain (tagBeacon s r.pkt.task ((r.pkt.at 64
       2))) (beaconAddr ((r.pkt.at 64 2)) / 32 * 32))).2.word.data) (beaconAddr ((r.pkt.at 64 2)) % 32) 8)) (r.pkt.at 72 8)
       = false → (bit (r.pkt.at 67 1) 0 = true ∨ r.pkt.at 68 4 ≠ 0) → exec (.beaconWait cx) s = .next (putCmd ((readGrain
       (tagBeacon s r.pkt.task ((r.pkt.at 64 2))) (beaconAddr ((r.pkt.at 64 2)) / 32 * 32))).1 cx
       { r with phase := .waitBeacon ((r.pkt.at 64 2)) (r.pkt.at 66 1) (BitVec.ofNat 64 (r.pkt.at 72 8)) (bit (r.pkt.at 67 1) 0) (r.pkt.at 68 4) (now s) ((fieldAt (grainBytes ((readGrain (tagBeacon s r.pkt.task ((r.pkt.at 64 2))) (beaconAddr ((r.pkt.at 64 2)) / 32 * 32))).2.word.data) (beaconAddr ((r.pkt.at 64 2)) % 32) 8)) })) ∧
  (∀ (s : State) (cx k cond t t0 last : Nat) (v : Word) (r : Running), cmdOf? s cx = some r → r.phase = .waitBeacon k cond
       v false t t0 last → expired s t0 t = true → exec (.beaconWaitTimeout cx) s = .next (complete s cx stTIMEOUT last)) ∧
  (∀ (s : State) (cx : Nat) (r : Running), turnOf s cx 0x0705 = some r → Clear r.pkt [(8, 43, 0), (8, 63, 63)] →
       r.pkt.task ≠ 0 → bit (r.pkt.at 64 8) 63 = false → exec (.taskClose cx) s = .next (whole s fun _ => complete (dropTags
       (unrestored s r.pkt.task).1 r.pkt.task) cx stDONE (unrestored s r.pkt.task).2.length)) ∧
  (∀ (s : State) (cx : Nat) (r : Running), turnOf s cx 0x0705 = some r → Clear r.pkt [(8, 43, 0), (8, 63, 63)] →
       r.pkt.task ≠ 0 → bit (r.pkt.at 64 8) 63 = true → (r.pkt.at 64 8 % 2 ^ 44) % 32 = 0 → inMemory s ((r.pkt.at 64 8 % 2 ^
       44)) 1064960 = true → writeDenied s r.pkt ((r.pkt.at 64 8 % 2 ^ 44)) 1064960 = false → exec (.taskClose cx) s = .next
       (whole s fun _ => complete (dropTags (writeBytes (unrestored s r.pkt.task).1 ((r.pkt.at 64 8 % 2 ^ 44)) ((unrestored
       s r.pkt.task).2.flatMap closeEntry)) r.pkt.task) cx stDONE (unrestored s r.pkt.task).2.length)) ∧
  (∀ (s : State) (die line : Nat), clocksRun s = true → fld s rHbSigCfg 0 0 = 1 → bit (fld s rHbSigCfg 7 4) die = true →
       die < ports s.part / 32 → line < 32 → exec (.attnLineEdge die line) s = .next (beaconAtomic s (fld s rHbSigCfg 31 16
       + die * 64 + line) fun v => (v + 1) % 18446744073709551616).1)

/-- CHECK_FRACTION sets the fractions and ends an escalation (R339); FIELD_TEST tests the lanes or units of its quays and
  writes a record for each (R344); how a seal is formed of a round's operands is the model's choice (log entry 13);
  PATTERN_LOAD loads a package that verifies (R345); ROW_REPAIR begins to copy a row and then maps it to a spare,
  answering what is left (R330); that it has these two steps is the model's choice (log entry 14); SCRUB_RANGE scrubs
  every grain of its range (R331). -/
def Obligations.IntegrityCommandsComplete : Prop :=
  (∀ (s : State) (cx : Nat) (r : Running), turnOf s cx 0x0801 = some r → Clear r.pkt [(8, 15, 0)] → r.pkt.at 64 1 ≤ 5 →
       r.pkt.at 65 1 ≤ 5 → exec (.checkFraction cx) s = .next (complete
       { (setFld (setFld s rInCheckCfg 2 0 (r.pkt.at 64 1)) rInCheckCfg 6 4 (r.pkt.at 65 1)) with integ := { s.integ with escWalks := 0, escBerth := [] } }
       cx stDONE 0)) ∧
  (∀ (s : State) (cx : Nat) (r : Running) (errors : List TestError), turnOf s cx 0x0802 = some r → Clear r.pkt [(8, 63,
       0), (9, 15, 0), (10, 43, 0)] → (r.pkt.at 64 1) ≤ 1 → ((r.pkt.at 65 1) = 0 ∨ (tget? s.integ.packages ((r.pkt.at 65
       1))).isSome = true) → ((maskBits (r.pkt.at 66 2) 16)).all (fun q => decide (q < quays s.part)) = true → (r.pkt.at 80
       8 % 2 ^ 44) % 32 = 0 → leavesRegion s ((r.pkt.at 80 8 % 2 ^ 44)) (32 * ((maskBits (r.pkt.at 66 2) 16)).length) =
       false → writeDenied s r.pkt ((r.pkt.at 80 8 % 2 ^ 44)) (32 * ((maskBits (r.pkt.at 66 2) 16)).length) = false →
       r.pkt.at 68 4 ≠ 0 → ((r.pkt.at 64 1) = 1 ∨ ((maskBits (r.pkt.at 66 2) 16)).any (craneWalks s) = false) → ((r.pkt.at
       64 1) = 0 ∨ ((maskBits (r.pkt.at 66 2) 16)).any (testWaits s) = false) → exec (.fieldTest cx errors) s = .next (whole
       s fun _ => complete (writeBytes ((((maskBits (r.pkt.at 66 2) 16)).foldl (testQuay
       { kind := (r.pkt.at 64 1), package := if (r.pkt.at 65 1) = 0 then none else some (tget s.integ.packages ((r.pkt.at 65 1)) []), test := r.pkt.at 72 2, seed := r.cseed, errors := errors }
       (r.pkt.at 68 4)) (s, [], 0))).1 ((r.pkt.at 80 8 % 2 ^ 44)) ((((maskBits (r.pkt.at 66 2) 16)).foldl (testQuay
       { kind := (r.pkt.at 64 1), package := if (r.pkt.at 65 1) = 0 then none else some (tget s.integ.packages ((r.pkt.at 65 1)) []), test := r.pkt.at 72 2, seed := r.cseed, errors := errors }
       (r.pkt.at 68 4)) (s, [], 0))).2.1) cx stDONE ((((maskBits (r.pkt.at 66 2) 16)).foldl (testQuay
       { kind := (r.pkt.at 64 1), package := if (r.pkt.at 65 1) = 0 then none else some (tget s.integ.packages ((r.pkt.at 65 1)) []), test := r.pkt.at 72 2, seed := r.cseed, errors := errors }
       (r.pkt.at 68 4)) (s, [], 0))).2.2)) ∧
  (∀ (s : State) (cx : Nat) (r : Running) (t : State × List (Option Byte)), turnOf s cx 0x0803 = some r → Clear r.pkt [(8,
       7, 0), (9, 43, 0), (10, 31, 0)] → (r.pkt.at 64 1) ≠ 0 → (r.pkt.at 64 1) ≤ 4 → badSource s ((r.pkt.at 72 8 % 2 ^ 44))
       ((r.pkt.at 80 4)) = false → (r.pkt.at 80 4) ≤ 1048576 → readDenied s r.pkt ((r.pkt.at 72 8 % 2 ^ 44)) ((r.pkt.at 80
       4)) = false → (r.pkt.at 80 4) ≠ 0 → t = readTable s ((r.pkt.at 72 8 % 2 ^ 44)) ((r.pkt.at 80 4)) → tableBad t.2 =
       false → exec (.patternLoad cx) s = .next (whole s fun _ => if packageOk ((t.2.map (·.getD 0))) then complete
       { t.1 with integ := { t.1.integ with packages := tset t.1.integ.packages ((r.pkt.at 64 1)) ((t.2.map (·.getD 0))) } }
       cx stDONE 0 else complete t.1 cx stDENIED 0)) ∧
  (∀ (s : State) (cx : Nat) (r : Running), turnOf s cx 0x0804 = some r → Clear r.pkt [(8, 13, 0), (8, 63, 32)] → (r.pkt.at
       64 2 % 16384) < banksOf s.part → r.pkt.at 68 4 ≤ 49151 → bankRuns s ((r.pkt.at 64 2 % 16384)) = false → (tget
       s.integ.repaired ((r.pkt.at 64 2 % 16384)) []).length < 32 → exec (.rowRepair cx) s = .next (whole s fun _ => putCmd
       s cx { r with phase := .repair })) ∧
  (∀ (s : State) (cx : Nat) (r : Running), cmdOf? s cx = some r → r.phase = .repair → r.pkt.opcode = 0x0804 → (r.fast =
       true ∨ hmRuns s = true) → ((tget s.integ.repaired ((r.pkt.at 64 2 % 16384)) [])).length < 32 → exec (.rowRepair cx) s
       = .next (whole s fun _ => complete
       { (((rowGrains s ((r.pkt.at 64 2 % 16384)) (r.pkt.at 68 4)).foldl copyGrain (wakeQuay s ((r.pkt.at 64 2 % 16384) / 1024)))) with integ := { (((rowGrains s ((r.pkt.at 64 2 % 16384)) (r.pkt.at 68 4)).foldl copyGrain (wakeQuay s ((r.pkt.at 64 2 % 16384) / 1024)))).integ with repaired := tset (((rowGrains s ((r.pkt.at 64 2 % 16384)) (r.pkt.at 68 4)).foldl copyGrain (wakeQuay s ((r.pkt.at 64 2 % 16384) / 1024)))).integ.repaired ((r.pkt.at 64 2 % 16384)) ((tget s.integ.repaired ((r.pkt.at 64 2 % 16384)) []) ++ [r.pkt.at 68 4]) } }
       cx stDONE (31 - ((tget s.integ.repaired ((r.pkt.at 64 2 % 16384)) [])).length))) ∧
  (∀ (s : State) (cx : Nat) (r : Running), turnOf s cx 0x0804 = some r → Clear r.pkt [(8, 13, 0), (8, 63, 32)] → (r.pkt.at
       64 2 % 16384) < banksOf s.part → r.pkt.at 68 4 ≤ 49151 → bankRuns s ((r.pkt.at 64 2 % 16384)) = false → 32 ≤ (tget
       s.integ.repaired ((r.pkt.at 64 2 % 16384)) []).length → exec (.rowRepair cx) s = .next (whole s fun _ => complete s
       cx stDONE 0xFFFFFFFFFFFFFFFF)) ∧
  (∀ (s : State) (cx : Nat) (r : Running), turnOf s cx 0x0805 = some r → Clear r.pkt [(9, 43, 0), (10, 43, 0)] → (r.pkt.at
       72 8 % 2 ^ 44) % 32 = 0 → scrubbable s ((r.pkt.at 72 8 % 2 ^ 44)) ((r.pkt.at 80 8 % 2 ^ 44)) = true → (r.pkt.at 80 8
       % 2 ^ 44) % 32 = 0 → readDenied s r.pkt ((r.pkt.at 72 8 % 2 ^ 44)) ((r.pkt.at 80 8 % 2 ^ 44)) = false → (r.pkt.at 80
       8 % 2 ^ 44) ≠ 0 → scrubBlocked s ((r.pkt.at 72 8 % 2 ^ 44)) ((r.pkt.at 80 8 % 2 ^ 44)) = false → exec (.scrubRange
       cx) s = .next (whole s fun _ => complete ((scrubRange (wakeRange s ((r.pkt.at 72 8 % 2 ^ 44)) ((r.pkt.at 80 8 % 2 ^
       44))) ((r.pkt.at 72 8 % 2 ^ 44)) ((r.pkt.at 80 8 % 2 ^ 44)))).1 cx stDONE (((scrubRange (wakeRange s ((r.pkt.at 72 8
       % 2 ^ 44)) ((r.pkt.at 80 8 % 2 ^ 44))) ((r.pkt.at 72 8 % 2 ^ 44)) ((r.pkt.at 80 8 % 2 ^ 44)))).2.1 % 4294967296 +
       ((scrubRange (wakeRange s ((r.pkt.at 72 8 % 2 ^ 44)) ((r.pkt.at 80 8 % 2 ^ 44))) ((r.pkt.at 72 8 % 2 ^ 44))
       ((r.pkt.at 80 8 % 2 ^ 44)))).2.2 % 4294967296 * 4294967296)))

/-- The patrol scrubber of a quay visits the next row of its order and moves on; a bank that is busy is noted, and its row
  is due later (R328, R329). -/
def Obligations.ScrubRowVisitCompletes : Prop :=
  (∀ (s : State) (q b row : Nat), q < quays s.part → fld s (rQyScrubCfg q) 15 0 ≠ 0 → q ∉ s.pow.doze → q ∉ s.pow.waking →
       s.pow.harbour = .active → scrubNext s q = .inOrder b row → bankRuns s b = false → exec (.scrubRowVisit q) s = .next
       (scrubPass (setFld (scrubBankRow s b row) (rQyScrubCfg q) 57 32 ((scrubPos s q + 1) % scrubVisits)) q)) ∧
  (∀ (s : State) (q b row : Nat), q < quays s.part → fld s (rQyScrubCfg q) 15 0 ≠ 0 → q ∉ s.pow.doze → q ∉ s.pow.waking →
       s.pow.harbour = .active → scrubNext s q = .inOrder b row → bankRuns s b = true → exec (.scrubRowVisit q) s = .next
       (scrubPass (setFld { s with integ := { s.integ with skipped := s.integ.skipped ++ [b] } } (rQyScrubCfg q) 57 32
       ((scrubPos s q + 1) % scrubVisits)) q)) ∧
  (∀ (s : State) (q b row : Nat), q < quays s.part → fld s (rQyScrubCfg q) 15 0 ≠ 0 → q ∉ s.pow.doze → q ∉ s.pow.waking →
       s.pow.harbour = .active → scrubNext s q = .due b row → exec (.scrubRowVisit q) s = .next (scrubPass
       { (scrubBankRow s b row) with integ := { (scrubBankRow s b row).integ with skipped := (scrubBankRow s b row).integ.skipped.erase b } }
       q))

/-- CHECKPOINT writes the records of a range, SHARD_COPY sends them to another harbour, DIGEST answers the digest of the
  active slip, REPLAY recomputes a range, SNAP_ARM arms the engines it names, and an edge of SNAP_IN is a snapshot
  message, in a harbour that has supply (R353-R370). That REPLAY and SHARD_COPY end with DATA_POISON where an input could
  not be read, SHARD_COPY with the bytes sent in RESULT, is the model's reading (R326, log entry 81). -/
def Obligations.ContinuityCommandsComplete : Prop :=
  (∀ (s : State) (cx : Nat) (r : Running) (x : Pset), turnOf s cx 0x0901 = some r → Clear r.pkt checkpointLayout → setOf?
       s ((r.pkt.at 64 2)) = some x → (r.pkt.at 68 4) + (r.pkt.at 72 4) ≤ x.total → (r.pkt.at 80 8 % 2 ^ 44) % 32 = 0 →
       inSoftware s ((r.pkt.at 80 8 % 2 ^ 44)) ((recordsSize x (bit (r.pkt.at 66 1) 0) ((r.pkt.at 72 4)))) = true →
       (recordsSize x (bit (r.pkt.at 66 1) 0) ((r.pkt.at 72 4))) ≤ r.pkt.at 88 8 → r.pkt.hasRight s rightWrite ((r.pkt.at 80
       8 % 2 ^ 44)) ((recordsSize x (bit (r.pkt.at 66 1) 0) ((r.pkt.at 72 4)))) = true → (r.pkt.at 72 4) ≠ 0 → copyRuns s cx
       ((r.pkt.at 64 2)) = false → ((recordsOf x ((r.pkt.at 64 2)) (bit (r.pkt.at 66 1) 0) ((r.pkt.at 68 4)) ((r.pkt.at 72
       4)) r.seed)).2 = 0 → exec (.checkpoint cx) s = .next (whole s fun _ => complete (writeWords ((readsOf s x (bit
       (r.pkt.at 66 1) 0) ((r.pkt.at 68 4)) ((r.pkt.at 72 4)))) ((r.pkt.at 80 8 % 2 ^ 44)) ((recordsOf x ((r.pkt.at 64 2))
       (bit (r.pkt.at 66 1) 0) ((r.pkt.at 68 4)) ((r.pkt.at 72 4)) r.seed)).1) cx stDONE (32 * ((recordsOf x ((r.pkt.at 64
       2)) (bit (r.pkt.at 66 1) 0) ((r.pkt.at 68 4)) ((r.pkt.at 72 4)) r.seed)).1.length))) ∧
  (∀ (s : State) (cx : Nat) (r : Running) (x : Pset), turnOf s cx 0x0901 = some r → Clear r.pkt checkpointLayout → setOf?
       s ((r.pkt.at 64 2)) = some x → (r.pkt.at 68 4) + (r.pkt.at 72 4) ≤ x.total → (r.pkt.at 80 8 % 2 ^ 44) % 32 = 0 →
       inSoftware s ((r.pkt.at 80 8 % 2 ^ 44)) ((recordsSize x (bit (r.pkt.at 66 1) 0) ((r.pkt.at 72 4)))) = true →
       (recordsSize x (bit (r.pkt.at 66 1) 0) ((r.pkt.at 72 4))) ≤ r.pkt.at 88 8 → r.pkt.hasRight s rightWrite ((r.pkt.at 80
       8 % 2 ^ 44)) ((recordsSize x (bit (r.pkt.at 66 1) 0) ((r.pkt.at 72 4)))) = true → (r.pkt.at 72 4) ≠ 0 → copyRuns s cx
       ((r.pkt.at 64 2)) = false → ((recordsOf x ((r.pkt.at 64 2)) (bit (r.pkt.at 66 1) 0) ((r.pkt.at 68 4)) ((r.pkt.at 72
       4)) r.seed)).2 ≠ 0 → exec (.checkpoint cx) s = .next (whole s fun _ => complete (writeWords ((readsOf s x (bit
       (r.pkt.at 66 1) 0) ((r.pkt.at 68 4)) ((r.pkt.at 72 4)))) ((r.pkt.at 80 8 % 2 ^ 44)) ((recordsOf x ((r.pkt.at 64 2))
       (bit (r.pkt.at 66 1) 0) ((r.pkt.at 68 4)) ((r.pkt.at 72 4)) r.seed)).1) cx stDATA_POISON ((recordsOf x ((r.pkt.at 64
       2)) (bit (r.pkt.at 66 1) 0) ((r.pkt.at 68 4)) ((r.pkt.at 72 4)) r.seed)).2)) ∧
  (∀ (s : State) (cx : Nat) (r : Running) (x : Pset) (h a : Nat), turnOf s cx 0x0906 = some r → Clear r.pkt shardLayout →
       setOf? s ((r.pkt.at 64 2)) = some x → (r.pkt.at 80 8) % 32 = 0 → expPlace s ((r.pkt.at 80 8)) = .away h a →
       regionOfRange s.part a ((recordsSize x true x.total)) = some .dram → (recordsSize x true x.total) ≤ r.pkt.at 88 8 →
       globalDenied s r.pkt ((r.pkt.at 80 8)) ((recordsSize x true x.total)) = false → copyRuns s cx ((r.pkt.at 64 2)) =
       false → exec (.shardCopy cx) s = .next (whole s fun _ => awaitAcks (sendShard (((recordsOf x ((r.pkt.at 64 2)) true 0
       x.total r.seed)).1.length + 1) (readsOf s x true 0 x.total) cx (gaHarbour ((r.pkt.at 80 8))) (gaLocal ((r.pkt.at 80
       8))) ((if bit (r.pkt.at 96 2) 15 then some (r.pkt.at 96 2 % 16384, r.pkt.at 98 2) else none)) ((recordsOf x
       ((r.pkt.at 64 2)) true 0 x.total r.seed)).1) cx (if ((recordsOf x ((r.pkt.at 64 2)) true 0 x.total r.seed)).2 = 0
       then stDONE else stDATA_POISON) (32 * ((recordsOf x ((r.pkt.at 64 2)) true 0 x.total r.seed)).1.length % 4294967296))) ∧
  (∀ (s : State) (cx : Nat) (r : Running) (x : Pset), turnOf s cx 0x0904 = some r → Clear r.pkt [(8, 15, 0)] → setOf? s
       (r.pkt.at 64 2) = some x → x.isDispatch = false → exec (.digest cx) s = .next (whole s fun _ => (x.setDigest r.seed
       x.ep.active).elim (complete ((countPoison (reachQuays s (List.range x.total)) (fun k => (((x.con k).bad
       x.ep.active).filter fun g => decide (g < 256)).length) (List.range x.total))) cx stDATA_POISON 0) fun d => complete
       ((countPoison (reachQuays s (List.range x.total)) (fun k => (((x.con k).bad x.ep.active).filter fun g => decide (g <
       256)).length) (List.range x.total))) cx stDONE d)) ∧
  (∀ (s : State) (cx : Nat) (r : Running) (flips : List Flip) (x : Pset), turnOf s cx 0x0903 = some r → Clear r.pkt [(8,
       23, 0), (8, 63, 32), (9, 31, 0), (10, 43, 0)] → setOf? s ((r.pkt.at 64 2)) = some x → r.pkt.at 66 1 < quays s.part →
       (r.pkt.at 68 4) + (r.pkt.at 72 4) ≤ x.total → (r.pkt.at 80 8 % 2 ^ 44) % 32 = 0 → inSoftware s ((r.pkt.at 80 8 % 2 ^
       44)) ((r.pkt.at 72 4) * replaySize x) = true → r.pkt.hasRight s rightWrite ((r.pkt.at 80 8 % 2 ^ 44)) ((r.pkt.at 72
       4) * replaySize x) = true → (r.pkt.at 72 4) ≠ 0 → replayFault x ((r.pkt.at 68 4)) ((r.pkt.at 72 4)) = none → exec
       (.replay cx flips) s = .next (whole s fun _ => complete (writeWords (noteFlush (modSet ((countPoison (reachQuays
       (reachQuays s (upFrom ((r.pkt.at 68 4)) ((r.pkt.at 72 4)))) ((upFrom ((r.pkt.at 68 4)) ((r.pkt.at 72 4))).map (· +
       r.pkt.at 66 1))) x.replayReads (upFrom ((r.pkt.at 68 4)) ((r.pkt.at 72 4))))) ((r.pkt.at 64 2)) fun y => y.countSw
       fun w =>
       { w with cFlush := w.cFlush + ((((List.range ((r.pkt.at 72 4))).map fun i => replayRecord x ((r.pkt.at 64 2)) ((r.pkt.at 68 4) + i) (replayFlips x flips i))).foldl (fun m e => m + e.flush) (x.factorFlushes (!x.ep.active) x.ep.step x.sw.carried)) })
       clCrane (((((List.range ((r.pkt.at 72 4))).map fun i => replayRecord x ((r.pkt.at 64 2)) ((r.pkt.at 68 4) + i)
       (replayFlips x flips i))).foldl (fun m e => m + e.flush) (x.factorFlushes (!x.ep.active) x.ep.step x.sw.carried))))
       ((r.pkt.at 80 8 % 2 ^ 44)) ((((List.range ((r.pkt.at 72 4))).map fun i => replayRecord x ((r.pkt.at 64 2)) ((r.pkt.at
       68 4) + i) (replayFlips x flips i))).flatMap (·.words))) cx (if (upFrom ((r.pkt.at 68 4)) ((r.pkt.at 72 4))).any
       x.replayBad then stDATA_POISON else stDONE) ((((List.range ((r.pkt.at 72 4))).map fun i => replayRecord x ((r.pkt.at
       64 2)) ((r.pkt.at 68 4) + i) (replayFlips x flips i))).filter fun e => !e.same).length)) ∧
  (∀ (s : State) (cx : Nat) (r : Running), turnOf s cx 0x0905 = some r → Clear r.pkt [(8, 7, 0), (9, 63, 0)] → r.pkt.at 64
       1 ≤ 1 → (maskBits ((r.pkt.at 72 8)) 64).all (fun e => engineListed e && !engineAbsent s e) = true → (r.pkt.at 72 8) ≠
       0 → exec (.snapArm cx) s = .next (complete (setRegW s rPlSnapArmed ((if r.pkt.at 64 1 = 1 then regW s rPlSnapArmed
       ||| (r.pkt.at 72 8) else regW s rPlSnapArmed &&& (2 ^ 64 - 1 - (r.pkt.at 72 8))))) cx stDONE ((if r.pkt.at 64 1 = 1
       then regW s rPlSnapArmed ||| (r.pkt.at 72 8) else regW s rPlSnapArmed &&& (2 ^ 64 - 1 - (r.pkt.at 72 8)))))) ∧
  (∀ (s : State), s.pow.harbour ≠ .off → fld s rPlSnapCtl 0 0 = 1 → exec .snapIn s = .next (pilotArrive s (pilotBits 3 0 0
       (BitVec.ofNat 64 (fld s rPlSnapCtl 63 16))) true none))

/-- RESTORE reads its records, and with every check passed it applies all of them to the set: a full restore replaces the
  state of the set, a patch the consignments it names, and what it sends to other harbours is acknowledged before its
  reply (R102, R356-R358). -/
def Obligations.RestoresComplete : Prop :=
  ∀ (s : State) (cx : Nat) (r : Running) (x : Pset) (t : State × List (Option Byte)) (a : RecAcc), turnOf s cx 0x0902 =
      some r → Clear r.pkt restoreLayout → setOf? s ((r.pkt.at 64 2)) = some x → r.pkt.at 66 1 ≤ 1 → (r.pkt.at 72 8 % 2 ^
      44) % 32 = 0 → inSoftware s ((r.pkt.at 72 8 % 2 ^ 44)) ((r.pkt.at 80 8)) = true → readDenied s r.pkt ((r.pkt.at 72 8 %
      2 ^ 44)) ((r.pkt.at 80 8)) = false → (r.pkt.at 80 8) ≠ 0 → t = readTable s ((r.pkt.at 72 8 % 2 ^ 44)) ((r.pkt.at 80
      8)) → readRecords x ((r.pkt.at 66 1 == 0)) ((r.pkt.at 80 8) / 32 + 1) t.2 RecAcc.none0 = .done a → (if (r.pkt.at 66 1
      == 0) then fullBusy s cx ((r.pkt.at 64 2)) x else patchBusy s cx ((r.pkt.at 64 2)) x a) = false → a.poison = none →
      (if bit (r.pkt.at 67 1) 0 then verifyFault x r.seed ((r.pkt.at 66 1 == 0)) a else none) = none → exec (.restore cx) s
      = .next (whole s fun _ => awaitAcks (if (r.pkt.at 66 1 == 0) then applyFull (reachQuays t.1 (a.cons.map (·.1)))
      ((ftzAt r.ftz clCrane)) r.seed ((r.pkt.at 64 2)) x a else applyPatch (reachQuays t.1 (a.cons.map (·.1))) ((ftzAt r.ftz
      clCrane)) r.seed ((r.pkt.at 64 2)) x a) cx stDONE a.count)

/-- QUAY_STATE puts idle quays to sleep and wakes others (R387); HARBOUR_MOOR begins mooring once its reply is posted
  (R389); CONFIG_SAVE writes the copy that is not in use, and then makes it valid, the copy in use (R407); LOGBOOK_READ
  delivers the bytes of an area (R408). That the sequence number of a save is that of the copy in use plus one is the
  model's reading (log entry 64), that it has these two steps is its choice (log entry 14), and how the bytes of an area
  spell what the logbook holds is left open (log entry 9). -/
def Obligations.FirmwareCommandsComplete : Prop :=
  (∀ (s : State) (cx : Nat) (r : Running), turnOf s cx 0x0A01 = some r → Clear r.pkt [(8, 15, 0), (8, 23, 16)] → r.pkt.at
       66 1 ≤ 1 → r.pkt.at 64 2 < 2 ^ quays s.part → r.pkt.at 64 2 ≠ 0 → exec (.quayState cx) s = .next (settle
       (applyQuayState s cx r))) ∧
  (∀ (s : State) (cx : Nat) (r : Running), turnOf s cx 0x0A02 = some r → Clear r.pkt [(8, 0, 0), (9, 47, 0)] → moorBusy s
       cx = false → (winOf ((complete { s with pow := { s.pow with wakeAfter := r.pkt.at 72 6 } } cx stDONE 0))
       r.pkt.win).held.length ≤ (winOf s r.pkt.win).held.length → exec (.harbourMoor cx) s = .next (beginMooring ((complete
       { s with pow := { s.pow with wakeAfter := r.pkt.at 72 6 } } cx stDONE 0)) (bit (r.pkt.at 64 1) 0))) ∧
  (∀ (s : State) (cx : Nat) (r : Running), turnOf s cx 0x0A02 = some r → Clear r.pkt [(8, 0, 0), (9, 47, 0)] → moorBusy s
       cx = false → (winOf s r.pkt.win).held.length < (winOf ((complete
       { s with pow := { s.pow with wakeAfter := r.pkt.at 72 6 } } cx stDONE 0)) r.pkt.win).held.length → exec (.harbourMoor
       cx) s = .next
       ({ ((complete { s with pow := { s.pow with wakeAfter := r.pkt.at 72 6 } } cx stDONE 0)) with pow := { ((complete { s with pow := { s.pow with wakeAfter := r.pkt.at 72 6 } } cx stDONE 0)).pow with moorReply := some (bit (r.pkt.at 64 1) 0) } })) ∧
  (∀ (s : State) (cx : Nat) (r : Running), turnOf s cx 0x0B01 = some r → Clear r.pkt [] → saveBefore s cx = false → exec
       (.configSave cx) s = .next (putCmd (writeCopy s (captureConfig s) false) cx
       { r with phase := .save (captureConfig s) })) ∧
  (∀ (s : State) (cx : Nat) (r : Running) (q : CfgSave), cmdOf? s cx = some r → r.phase = .save q → hmRuns s = true → exec
       (.configSave cx) s = .next (complete
       { s with boot := if s.boot.useB then { s.boot with copyA := ({ valid := true, seq := BitVec.ofNat 64 ((((copyInUse s.boot).seq.toNat + 1) % 2 ^ 64)), regs := q.regs, arenas := q.arenas }), useB := false } else { s.boot with copyB := ({ valid := true, seq := BitVec.ofNat 64 ((((copyInUse s.boot).seq.toNat + 1) % 2 ^ 64)), regs := q.regs, arenas := q.arenas }), useB := true } }
       cx stDONE ((((copyInUse s.boot).seq.toNat + 1) % 2 ^ 64)))) ∧
  (∀ (s : State) (cx : Nat) (r : Running), turnOf s cx 0x0B02 = some r → Clear r.pkt [(8, 7, 0), (8, 63, 32), (9, 31, 0),
       (10, 43, 0)] → (r.pkt.at 64 1) ≤ 5 → r.pkt.at 68 4 + (r.pkt.at 72 4) ≤ areaSize ((r.pkt.at 64 1)) → (r.pkt.at 80 8 %
       2 ^ 44) % 32 = 0 → inSoftware s ((r.pkt.at 80 8 % 2 ^ 44)) ((r.pkt.at 72 4)) = true → r.pkt.hasRight s rightWrite
       ((r.pkt.at 80 8 % 2 ^ 44)) ((r.pkt.at 72 4)) = true → (r.pkt.at 72 4) ≠ 0 → exec (.logbookRead cx) s = .next (whole s
       fun _ => complete (writeBytes s ((r.pkt.at 80 8 % 2 ^ 44)) ((upFrom (r.pkt.at 68 4) ((r.pkt.at 72 4))).map (logbookAt
       s ((r.pkt.at 64 1))))) cx stDONE ((r.pkt.at 72 4))))

/-- A WRITE, TOKEN or CONTRIB packet whose checks pass lands: its data, its tally or its token changes as R174-R183, R197
  and R198 give (R169). One that cannot land yet waits, in its port's hold or in the loopback, a host FINAL write bound to
  the generation in force then (R177); that one off the loopback keeps its place there is the model's reading (log entry
  90); while a port's hold is full, its bulk packets stay in the fabric (R187). That a packet one of whose accesses must
  wait does so whole, with the wakes it has started, is the model's choice (log entry 14). -/
def Obligations.BulkPacketsComplete : Prop :=
  (∀ (s s1 : State) (src : LandSrc) (hdr : BitVec 256) (payload : List Codeword) (p : Packet) (t0 t : State), arrived s
       src hdr payload (ofType tyWRITE) = some (s1, p) → holdRoom s src = true → landTry (landTicks s1) p = (t0, .done t) →
       exec (.landingWrite src hdr payload) s = .next (afterLanding t)) ∧
  (∀ (s s1 : State) (src : LandSrc) (hdr : BitVec 256) (payload : List Codeword) (p : Packet) (t0 t : State), arrived s
       src hdr payload (ofType tyTOKEN) = some (s1, p) → holdRoom s src = true → landTry (landTicks s1) p = (t0, .done t) →
       exec (.tokenPacket src hdr payload) s = .next (afterLanding t)) ∧
  (∀ (s s1 : State) (src : LandSrc) (hdr : BitVec 256) (payload : List Codeword) (p : Packet) (t0 t : State), arrived s
       src hdr payload (ofType tyCONTRIB) = some (s1, p) → holdRoom s src = true → landTry (landTicks s1) p = (t0, .done t)
       → exec (.contribPacket src hdr payload) s = .next (afterLanding t)) ∧
  (∀ (s s1 t : State) (n : Nat) (hdr : BitVec 256) (payload : List Codeword) (p : Packet) (b : Bool), arrived s (.port n)
       hdr payload (ofType tyWRITE) = some (s1, p) → (holdOf s n).length < 32 → landTry (landTicks s1) p = (t, .stall b) →
       exec (.landingWrite (.port n) hdr payload) s = .next (afterLanding
       { t with land := { t.land with holds := t.land.holds ++ [(n, bindFinal t p)] } })) ∧
  (∀ (s s1 t : State) (n : Nat) (hdr : BitVec 256) (payload : List Codeword) (p : Packet) (b : Bool), arrived s (.port n)
       hdr payload (ofType tyTOKEN) = some (s1, p) → (holdOf s n).length < 32 → landTry (landTicks s1) p = (t, .stall b) →
       exec (.tokenPacket (.port n) hdr payload) s = .next (afterLanding
       { t with land := { t.land with holds := t.land.holds ++ [(n, bindFinal t p)] } })) ∧
  (∀ (s s1 t : State) (n : Nat) (hdr : BitVec 256) (payload : List Codeword) (p : Packet) (b : Bool), arrived s (.port n)
       hdr payload (ofType tyCONTRIB) = some (s1, p) → (holdOf s n).length < 32 → landTry (landTicks s1) p = (t, .stall b) →
       exec (.contribPacket (.port n) hdr payload) s = .next (afterLanding
       { t with land := { t.land with holds := t.land.holds ++ [(n, bindFinal t p)] } })) ∧
  (∀ (s s1 t : State) (i : Nat) (hdr : BitVec 256) (payload : List Codeword) (p : Packet) (b : Bool), arrived s (.loop i)
       hdr payload (ofType tyWRITE) = some (s1, p) → landTry (landTicks s1) p = (t, .stall b) → exec (.landingWrite (.loop
       i) hdr payload) s = .next (afterLanding
       { t with land := { t.land with loop := t.land.loop.take i ++ bindFinal t p :: t.land.loop.drop i } })) ∧
  (∀ (s s1 t : State) (i : Nat) (hdr : BitVec 256) (payload : List Codeword) (p : Packet) (b : Bool), arrived s (.loop i)
       hdr payload (ofType tyTOKEN) = some (s1, p) → landTry (landTicks s1) p = (t, .stall b) → exec (.tokenPacket (.loop i)
       hdr payload) s = .next (afterLanding
       { t with land := { t.land with loop := t.land.loop.take i ++ bindFinal t p :: t.land.loop.drop i } })) ∧
  (∀ (s s1 t : State) (i : Nat) (hdr : BitVec 256) (payload : List Codeword) (p : Packet) (b : Bool), arrived s (.loop i)
       hdr payload (ofType tyCONTRIB) = some (s1, p) → landTry (landTicks s1) p = (t, .stall b) → exec (.contribPacket
       (.loop i) hdr payload) s = .next (afterLanding
       { t with land := { t.land with loop := t.land.loop.take i ++ bindFinal t p :: t.land.loop.drop i } })) ∧
  (∀ (s : State) (n : Nat) (hdr : BitVec 256) (payload : List Codeword), 32 ≤ (holdOf s n).length → exec (.landingWrite
       (.port n) hdr payload) s = .next (afterLanding s)) ∧
  (∀ (s : State) (n : Nat) (hdr : BitVec 256) (payload : List Codeword), 32 ≤ (holdOf s n).length → exec (.tokenPacket
       (.port n) hdr payload) s = .next (afterLanding s)) ∧
  (∀ (s : State) (n : Nat) (hdr : BitVec 256) (payload : List Codeword), 32 ≤ (holdOf s n).length → exec (.contribPacket
       (.port n) hdr payload) s = .next (afterLanding s))

/-- ACK, REFUSE, GATE, PILOT and NORM packets act on the source, the manifest, the gate, the engines or the round that
  they name (R61, R125, R126, R172, R185, R214, R215, R435); a NORM packet of no open round, or one with a grain that
  cannot be read, is discarded and counted as malformed (R214). How the model takes a target gate above 1023, a second
  arrival of a slot and an abort of a gate that is neither parent nor member is log entry 102. -/
def Obligations.MessagePacketsComplete : Prop :=
  (∀ (s s1 : State) (src : LandSrc) (hdr : BitVec 256) (payload : List Codeword) (p : Packet), arrived s src hdr payload
       (ofType tyACK) = some (s1, p) → exec (.ackPacket src hdr payload) s = .next (afterLanding (ackMsg s1 p))) ∧
  (∀ (s s1 : State) (src : LandSrc) (hdr : BitVec 256) (payload : List Codeword) (p : Packet), arrived s src hdr payload
       (ofType tyREFUSE) = some (s1, p) → exec (.refusePacket src hdr payload) s = .next (afterLanding (refuseMsg s1 p))) ∧
  (∀ (s s1 : State) (src : LandSrc) (hdr : BitVec 256) (payload : List Codeword) (p : Packet) (m : GateMsg), arrived s src
       hdr payload (fun q => ofType tyGATE q && (gateMsgOf q).any (fun x => x.msg == 0)) = some (s1, p) → gateMsgOf p = some
       m → exec (.gateArrivalMsg src hdr payload) s = .next (arrivalMsg s1 p.hdr.orig m)) ∧
  (∀ (s s1 : State) (src : LandSrc) (hdr : BitVec 256) (payload : List Codeword) (p : Packet) (m : GateMsg), arrived s src
       hdr payload (fun q => ofType tyGATE q && (gateMsgOf q).any (fun x => x.msg == 1)) = some (s1, p) → gateMsgOf p = some
       m → exec (.gateReleaseMsg src hdr payload) s = .next (releaseMsg s1 p.hdr.orig m)) ∧
  (∀ (s s1 : State) (src : LandSrc) (hdr : BitVec 256) (payload : List Codeword) (p : Packet) (m : GateMsg), arrived s src
       hdr payload (fun q => ofType tyGATE q && (gateMsgOf q).any (fun x => x.msg == 2)) = some (s1, p) → gateMsgOf p = some
       m → exec (.gateAbortMsg src hdr payload) s = .next (abortMsg s1 p.hdr.orig m)) ∧
  (∀ (s s1 : State) (src : LandSrc) (hdr : BitVec 256) (payload : List Codeword) (p : Packet) (g : Grain), arrived s src
       hdr payload (ofType tyPILOT) = some (s1, p) → payloadGrain p 0 = some g → bits (g.setWidth 128).toNat 7 0 = 2 → exec
       (.pilotPacket src hdr payload) s = .next (forwardRecall (pilotArrive s1 (g.setWidth 128) false none) (g.setWidth
       128))) ∧
  (∀ (s s1 : State) (src : LandSrc) (hdr : BitVec 256) (payload : List Codeword) (p : Packet) (g : Grain), arrived s src
       hdr payload (ofType tyPILOT) = some (s1, p) → payloadGrain p 0 = some g → bits (g.setWidth 128).toNat 7 0 = 3 → exec
       (.pilotPacket src hdr payload) s = .next (snapOut (pilotArrive s1 (g.setWidth 128) false none))) ∧
  (∀ (s s1 : State) (src : LandSrc) (hdr : BitVec 256) (payload : List Codeword) (p : Packet) (gs : List Grain) (x :
       Pset), arrived s src hdr payload (ofType tyNORM) = some (s1, p) → normGrains p = some gs → setOf? s1 (bits (((gs.getD
       64 0).toNat)) 79 64) = some x → x.sw.phase = .normSent → bits (((gs.getD 64 0).toNat)) 127 80 = x.ep.step + 1 → exec
       (.normPacket src hdr payload) s = .next (decideRound s1 (bits (((gs.getD 64 0).toNat)) 79 64) (vectorUnits ((gs.take
       64).flatMap fun g => (List.range 4).map fun i => bits g.toNat (64 * i + 63) (64 * i))) (bits (((gs.getD 64 0).toNat))
       63 0))) ∧
  (∀ (s s1 : State) (src : LandSrc) (hdr : BitVec 256) (payload : List Codeword) (p : Packet) (gs : List Grain), arrived s
       src hdr payload (ofType tyNORM) = some (s1, p) → normGrains p = some gs → (setOf? s1 (bits (((gs.getD 64 0).toNat))
       79 64)).all (fun x => x.sw.phase != .normSent || bits (((gs.getD 64 0).toNat)) 127 80 != x.ep.step + 1) = true → exec
       (.normPacket src hdr payload) s = .next (countBadPkt s1)) ∧
  (∀ (s s1 : State) (src : LandSrc) (hdr : BitVec 256) (payload : List Codeword) (p : Packet), arrived s src hdr payload
       (ofType tyNORM) = some (s1, p) → normGrains p = none → exec (.normPacket src hdr payload) s = .next (countBadPkt s1))

/-- MANIFEST_FINALISE performs a finalising generation unless its set is held, and one that its held FINAL writes keep
  FINALISING ends once they are performed (Table 9-6); an expiry, a parking time and an acknowledgement timeout act only
  once their ticks have run; a hold is released packet by packet, and what came while the harbour moored follows (R172,
  R178, R186-R188, R390). -/
def Obligations.LandingEventsComplete : Prop :=
  (∀ (s : State) (m gen : Nat) (x : Manifest), s.pow.harbour = .active → finalisingOf s m gen = some x → x.tallied = false
       → (setOf? s x.pset = none ∨ (setOf? s x.pset).any (fun y => y.held) = false) → exec (.manifestFinalise m gen) s =
       .next (afterLanding (whole s fun _ => finishMan (finaliseRange s m x) m gen))) ∧
  (∀ (s : State) (m gen : Nat) (x : Manifest), s.pow.harbour = .active → finalisingOf s m gen = some x → x.tallied = true
       → (setOf? s x.pset = none ∨ (setOf? s x.pset).any (fun y => y.held) = false) → exec (.manifestFinalise m gen) s =
       .next (afterLanding (finishMan s m gen))) ∧
  (∀ (s : State) (m : Nat), manDue s m = true → exec (.manifestExpiry m) s = .next (afterLanding (failMan s m true))) ∧
  (∀ (s : State) (e : AnchEntry) (p : Packet), s.land.entries.find? (fun f => f.id == e.id) = some e → parkDue s e = true
       → e.pkt = some p → exec (.parkTtlExpiry e.id) s = .next (afterLanding (refuse (bump (dropEntry s e.id) rLdStat 47 32
       1) p.hdr akEXPIRED))) ∧
  (∀ (s : State) (source : Nat), (sourceOf s (srcKey source)).plain ≠ 0 → fld s rLdCfg 31 8 ≠ 0 → expired s (sourceOf s
       (srcKey source)).tPlain (fld s rLdCfg 31 8) = true → exec (.ackTimeout source false) s = .next (afterLanding
       (sourceMoved (bump (setSource s (srcKey source) { sourceOf s (srcKey source) with plain := 0, flag := true })
       rLdStat2 15 0 1) (srcKey source) 0 false))) ∧
  (∀ (s : State) (source : Nat), (sourceOf s (srcKey source)).final ≠ 0 → fld s rLdCfg 31 8 ≠ 0 → expired s (sourceOf s
       (srcKey source)).tFinal (fld s rLdCfg 31 8) = true → exec (.ackTimeout source true) s = .next (afterLanding
       (sourceMoved (bump (setSource s (srcKey source) { sourceOf s (srcKey source) with final := 0, flag := true })
       rLdStat2 15 0 1) (srcKey source) 0 false))) ∧
  (∀ (s : State) (port : Nat), landUp s = true → exec (.anchorageHoldRelease port) s = .next (serveLate (afterLanding
       (releaseHold (landTicks s) port))))

/-- The cranes examine the consignments of the set being walked: a fresh one is swept, one already written keeps its slip
  where its seal still holds, one with poison in its active slip is left (R221-R225); a waiting command takes the crane
  when it is free (R21), and the commit ends the walk once every consignment is written and checked (R228, R229); a crane
  that power holds goes on waiting, and its dozing quay wakes (R20, R388). -/
def Obligations.WalkEventsComplete : Prop :=
  (∀ (s : State) (cx : Nat) (t : List Nat) (r : Running), hmRuns s = true → s.walk.set = none → s.walk.wait = cx :: t →
       cmdOf? s cx = some r → exec .craneSwitch s = .next (whole s fun _ => startWalk
       { s with walk := { s.walk with wait := t } } cx (r.pkt.at 64 2))) ∧
  (∀ (s : State) (n k : Nat) (residue : Option Nat) (flips : List Flip) (x : Pset), s.walk.set = some n → setOf? s n =
       some x → x.sw.phase = .walking → k < x.total → (x.con k).visited = false → (x.con k).residue = false → inWindow s x k
       = true → (hmRuns s = true ∨ servedAhead s n k = false) → homeQuay s k ∉ s.walk.powerHeld → x.unreadable k x.ep.active
       = false → (x.con k).progress = false → exec (.consignmentSweep n k residue flips) s = .next (whole s fun _ =>
       sweepOne (useCrane s (homeQuay s k)) n k residue flips x)) ∧
  (∀ (s : State) (n k : Nat) (residue : Option Nat) (flips : List Flip) (x : Pset), s.walk.set = some n → setOf? s n =
       some x → x.sw.phase = .walking → k < x.total → (x.con k).visited = false → (x.con k).residue = false → inWindow s x k
       = true → (hmRuns s = true ∨ servedAhead s n k = false) → homeQuay s k ∉ s.walk.powerHeld → x.unreadable k x.ep.active
       = false → (x.con k).progress = true → exec (.consignmentSweep n k residue flips) s = .next (whole s fun _ => if
       sealOf n k (x.ep.step + 1) (x.slipBytes (!x.ep.active) k) (stageBytes x.sfmt (x.con k).stage) = (x.con k).sealWord
       then walkEnd (putSet ((useCrane s (homeQuay s k))) n (((x.setCon k
       { x.con k with visited := true, cleared := !(x.con k).selected || (x.con k).checked }).fold k true).countSw fun r =>
       { r with cKept := r.cKept + 1 })) n else sweepOne ((useCrane s (homeQuay s k))) n k residue flips (x.setCon k
       { x.con k with progress := false, cleared := false }))) ∧
  (∀ (s : State) (n k : Nat) (residue : Option Nat) (flips : List Flip) (x : Pset), s.walk.set = some n → setOf? s n =
       some x → x.sw.phase = .walking → k < x.total → (x.con k).visited = false → (x.con k).residue = false → inWindow s x k
       = true → (hmRuns s = true ∨ servedAhead s n k = false) → homeQuay s k ∉ s.walk.powerHeld → x.unreadable k x.ep.active
       = true → exec (.consignmentSweep n k residue flips) s = .next (whole s fun _ => walkEnd (putSet (bump (useCrane s
       (homeQuay s k)) (rInEccStat (homeQuay s k)) 47 32 (x.badReads k x.ep.active)) n ((x.setCon k
       { x.con k with visited := true, progress := false, cleared := false }).countSw fun r =>
       { r with poisoned := r.poisoned + 1 })) n)) ∧
  (∀ (s : State) (n k : Nat) (residue : Option Nat) (flips : List Flip) (x : Pset), s.walk.set = some n → setOf? s n =
       some x → x.sw.phase = .walking → k < x.total → (x.con k).visited = false → (x.con k).residue = false → inWindow s x k
       = true → (hmRuns s = true ∨ servedAhead s n k = false) → homeQuay s k ∈ s.walk.powerHeld → exec (.consignmentSweep n
       k residue flips) s = .next (whole s fun _ => wakeQuay s (homeQuay s k))) ∧
  (∀ (s : State) (n : Nat) (x : Pset), s.walk.set = some n → setOf? s n = some x → x.sw.phase = .walking → hmRuns s = true
       → x.sw.poisoned = 0 → (List.range x.total).all (fun k => (x.con k).visited && (x.con k).progress && (x.con
       k).cleared) = true → exec (.commit n) s = .next (whole s fun _ => commitWalk s n x))

/-- DUPLICATE_CHECK compares a selected consignment's seal with that of the next quay's crane: where they agree the check
  passes, and where they differ the third execution decides, or the walk stops with CHECK_FAIL; every seal difference
  escalates the checks of its quay's cranes (R333, R334-R336, R339). That after a residue detection two recomputations
  that agree are written, and the walk stops with CHECK_FAIL where they differ, is the model's reading (log entry 89). The
  quays of the cranes that work are awake (R388). -/
def Obligations.DuplicateCheckCompletes : Prop :=
  (∀ (s : State) (n k : Nat) (partner third : List Flip) (x : Pset) (o : ConOut), hmRuns s = true → s.walk.set = some n →
       setOf? s n = some x → x.sw.phase = .walking → k < x.total → x.walkCon k = some o → (x.con k).residue = true → exec
       (.duplicateCheck n k partner third) s = .next (whole s fun _ => if (sealOf n k (x.ep.step + 1) (((flipBytes (o.slip
       ++ o.stage) partner)).take ((slipLen x.consts.rule))) (((flipBytes (o.slip ++ o.stage) partner)).drop ((slipLen
       x.consts.rule)))) = (sealOf n k (x.ep.step + 1) (((flipBytes (o.slip ++ o.stage) third)).take ((slipLen
       x.consts.rule))) (((flipBytes (o.slip ++ o.stage) third)).drop ((slipLen x.consts.rule)))) then walkEnd (thirdWrites
       ((useCrane ((putSet (useCrane (useCrane s ((homeQuay s k))) (((homeQuay s k) + 1) % quays s.part)) n ((x.countSw fun
       r => { r with cDup := r.cDup + 1 })))) (((homeQuay s k) + 2) % quays s.part))) n k ((x.countSw fun r =>
       { r with cDup := r.cDup + 1 })) o ((flipBytes (o.slip ++ o.stage) third)) false) n else checkStop (escalate (bump
       (putSet ((useCrane ((putSet (useCrane (useCrane s ((homeQuay s k))) (((homeQuay s k) + 1) % quays s.part)) n
       ((x.countSw fun r => { r with cDup := r.cDup + 1 })))) (((homeQuay s k) + 2) % quays s.part))) n (((x.countSw fun r
       => { r with cDup := r.cDup + 1 })).countSw fun r => { r with cDetect := r.cDetect + 1 })) rInStat 31 16 1) (.lane
       ((homeQuay s k)) 0)) n k)) ∧
  (∀ (s : State) (n k : Nat) (partner third : List Flip) (x : Pset) (o : ConOut), hmRuns s = true → s.walk.set = some n →
       setOf? s n = some x → x.sw.phase = .walking → k < x.total → x.walkCon k = some o → (x.con k).residue = false → (x.con
       k).visited = true → (x.con k).progress = true → (x.con k).selected = true → (x.con k).checked = false → exec
       (.duplicateCheck n k partner third) s = .next (whole s fun _ => if (sealOf n k (x.ep.step + 1) (((flipBytes (o.slip
       ++ o.stage) partner)).take ((slipLen x.consts.rule))) (((flipBytes (o.slip ++ o.stage) partner)).drop ((slipLen
       x.consts.rule)))) = (x.con k).sealWord then walkEnd (passCheck ((putSet (useCrane (useCrane s ((homeQuay s k)))
       (((homeQuay s k) + 1) % quays s.part)) n ((x.countSw fun r => { r with cDup := r.cDup + 1 })))) n k) n else if
       (sealOf n k (x.ep.step + 1) (((flipBytes (o.slip ++ o.stage) third)).take ((slipLen x.consts.rule))) (((flipBytes
       (o.slip ++ o.stage) third)).drop ((slipLen x.consts.rule)))) = (x.con k).sealWord then walkEnd (passCheck
       (chargeLanes ((bump (putSet ((useCrane ((putSet (useCrane (useCrane s ((homeQuay s k))) (((homeQuay s k) + 1) % quays
       s.part)) n ((x.countSw fun r => { r with cDup := r.cDup + 1 })))) (((homeQuay s k) + 2) % quays s.part))) n
       ((((x.countSw fun r => { r with cDup := r.cDup + 1 })).countSw fun r => { r with cDetect := r.cDetect + 1 })))
       rInStat 31 16 1)) (((homeQuay s k) + 1) % quays s.part) ((((x.countSw fun r =>
       { r with cDup := r.cDup + 1 })).countSw fun r => { r with cDetect := r.cDetect + 1 })) k ((laneDiffs s.part
       ((x.countSw fun r => { r with cDup := r.cDup + 1 })) (((x.countSw fun r =>
       { r with cDup := r.cDup + 1 })).writtenBytes k) ((flipBytes (o.slip ++ o.stage) partner))))) n k) n else if (sealOf n
       k (x.ep.step + 1) (((flipBytes (o.slip ++ o.stage) third)).take ((slipLen x.consts.rule))) (((flipBytes (o.slip ++
       o.stage) third)).drop ((slipLen x.consts.rule)))) = (sealOf n k (x.ep.step + 1) (((flipBytes (o.slip ++ o.stage)
       partner)).take ((slipLen x.consts.rule))) (((flipBytes (o.slip ++ o.stage) partner)).drop ((slipLen x.consts.rule))))
       then walkEnd (thirdWrites (chargeLanes ((bump (putSet ((useCrane ((putSet (useCrane (useCrane s ((homeQuay s k)))
       (((homeQuay s k) + 1) % quays s.part)) n ((x.countSw fun r => { r with cDup := r.cDup + 1 })))) (((homeQuay s k) + 2)
       % quays s.part))) n ((((x.countSw fun r => { r with cDup := r.cDup + 1 })).countSw fun r =>
       { r with cDetect := r.cDetect + 1 }))) rInStat 31 16 1)) ((homeQuay s k)) ((((x.countSw fun r =>
       { r with cDup := r.cDup + 1 })).countSw fun r => { r with cDetect := r.cDetect + 1 })) k ((laneDiffs s.part
       ((x.countSw fun r => { r with cDup := r.cDup + 1 })) (((x.countSw fun r =>
       { r with cDup := r.cDup + 1 })).writtenBytes k) ((flipBytes (o.slip ++ o.stage) partner))))) n k ((((x.countSw fun r
       => { r with cDup := r.cDup + 1 })).countSw fun r => { r with cDetect := r.cDetect + 1 })) o ((flipBytes (o.slip ++
       o.stage) third)) true) n else checkStop (escalate ((bump (putSet ((useCrane ((putSet (useCrane (useCrane s ((homeQuay
       s k))) (((homeQuay s k) + 1) % quays s.part)) n ((x.countSw fun r => { r with cDup := r.cDup + 1 })))) (((homeQuay s
       k) + 2) % quays s.part))) n ((((x.countSw fun r => { r with cDup := r.cDup + 1 })).countSw fun r =>
       { r with cDetect := r.cDetect + 1 }))) rInStat 31 16 1)) (.lane ((homeQuay s k)) 0)) n k))

/-- NORM_EXCHANGE_START sends this harbour's norm vector or, in a local set, decides at once (R213, R215); the digest
  exchange ends as MISSING when its time has run (R364), and a hold ends after its ticks (R341). -/
def Obligations.RoundEventsComplete : Prop :=
  (∀ (s : State) (n : Nat) (x : Pset), setOf? s n = some x → (!x.isDispatch && x.sw.phase == .idle && x.allFinal &&
       !x.ep.expelled && !x.ep.disputed && hmRuns s) = true → (x.pr.localOnly = true ∨ countNum s = 1) → exec
       (.normExchangeStart n) s = .next (whole s fun _ => decideRound ((advance (normSentState s n x) n)) n (vectorUnits
       x.ownVector.1) ((x.nonfinite + b2n x.ownVector.2)))) ∧
  (∀ (s : State) (n : Nat) (x : Pset), setOf? s n = some x → (!x.isDispatch && x.sw.phase == .idle && x.allFinal &&
       !x.ep.expelled && !x.ep.disputed && hmRuns s) = true → x.pr.localOnly = false → countNum s ≠ 1 → exec
       (.normExchangeStart n) s = .next (whole s fun _ => sendPacket ((advance (normSentState s n x) n))
       { hdr := { newHdr ((advance (normSentState s n x) n)) tyNORM x.pr.root with len := 65 }, payload := normPayload x.ownVector.1 ((x.nonfinite + b2n x.ownVector.2)) n (x.ep.step + 1) })) ∧
  (∀ (s : State) (n : Nat) (x : Pset), clocksRun s = true → setOf? s n = some x → x.pr.pending = true → x.pr.digTimeout ≠
       0 → expired s x.pr.pendTick (x.pr.digTimeout * 1024) = true → exec (.digestExchangeTimeout n) s = .next (endMissing s
       n)) ∧
  (∀ (s : State) (n : Nat) (x : Pset), clocksRun s = true → setOf? s n = some x → x.held = true → fld s rInCheckCfg 63 40
       ≠ 0 → expired s x.heldTick (fld s rInCheckCfg 63 40 * 1024) = true → exec (.recallHoldTimeout n) s = .next (endHold s
       n true))

/-- A mode change ends in the mode ordered, with the unit's registers cleared (R281); the oldest request of a quay's
  permit queue is granted while its pool has room (R297, R311); a duplicate that has its permit and its partner settles
  the operation, and where the partner is retired the home unit makes two runs, each under a permit of its own (R337,
  R338); a gap of a busy bank serves what waits (R313, R314). -/
def Obligations.BankEventsComplete : Prop :=
  (∀ (s : State) (b : Nat) (m : Bool), (bankOf s b).changing = some m → exec (.modeChange b) s = .next (settle (setBank s
       b { bankOf s b with compute := m, changing := none, lanes := LaneRegs.zero }))) ∧
  (∀ (s : State) (q b : Nat) (t : List Nat), (permitsOf s q).waiting = b :: t → (permitsOf s q).holders.length <
       (permitsOf s q).pool → q ∉ asleep s → b < 65536 → exec (.permitGrant q) s = .next (settle (grantOp (setPermits s q
       { permitsOf s q with waiting := t, holders := (permitsOf s q).holders ++ [b] }) b))) ∧
  (∀ (s : State) (q b : Nat) (t : List Nat), (permitsOf s q).waiting = b :: t → (permitsOf s q).holders.length <
       (permitsOf s q).pool → q ∉ asleep s → 65536 ≤ b → exec (.permitGrant q) s = .next (settle (setPermits s q
       { permitsOf s q with waiting := t, holders := (permitsOf s q).holders ++ [b] }))) ∧
  (∀ (s : State) (b : Nat) (first second : List Flip) (o : BOp), (bankOf s b).run = some o → o.phase = .computed → o.dup =
       none → unitRetired s (b ^^^ 1) = false → b + 65536 ∈ (permitsOf s (b / 1024)).holders → partnerFree s b = true →
       (permitsOf s (b / 1024)).pool ≠ 0 → bankAwake s b = true → exec (.berthDuplicate b first second) s = .next (settle
       (settleDuplicate (rouseBerth (rouseBerth s b) (b ^^^ 1)) b o first second))) ∧
  (∀ (s : State) (b : Nat) (first second : List Flip) (o : BOp), (bankOf s b).run = some o → o.phase = .computed → o.dup =
       none → unitRetired s (b ^^^ 1) = true → b + 65536 ∈ (permitsOf s (b / 1024)).holders → partnerFree s b = true →
       (permitsOf s (b / 1024)).pool ≠ 0 → bankAwake s b = true → exec (.berthDuplicate b first second) s = .next (settle
       (secondRun (rouseBerth (rouseBerth s b) (b ^^^ 1)) b o first))) ∧
  (∀ (s : State) (b : Nat) (first second f : List Flip) (o : BOp), (bankOf s b).run = some o → o.phase = .computed → o.dup
       = some f → b + 131072 ∈ (permitsOf s (b / 1024)).holders → partnerFree s b = true → (permitsOf s (b / 1024)).pool ≠ 0
       → bankAwake s b = true → exec (.berthDuplicate b first second) s = .next (settle (settleDuplicate (rouseBerth
       (rouseBerth s b) (b ^^^ 1)) b o f second))) ∧
  (∀ (s : State) (b n : Nat) (older : List Nat), bankRuns s b = true → bankAwake s b = true → exec (.busyBankAccess b ⟨n,
       older⟩) s = .next (settle (serveGap b (writeAhead s b n older).host.reqs 0 (writeAhead s b n older))))

/-- The rows of the twelve berth operations: operation code, bank, older grains and silent errors (Table 14-8). -/
def berthRow : Instr → Option (Nat × Nat × List Nat × List Flip)
  | .matvec b o f => some (1, b, o, f)
  | .dot b o f => some (2, b, o, f)
  | .scale b o f => some (3, b, o, f)
  | .add b o f => some (4, b, o, f)
  | .mul b o f => some (5, b, o, f)
  | .act b o f => some (6, b, o, f)
  | .reduce b o f => some (7, b, o, f)
  | .normStat b o f => some (8, b, o, f)
  | .normApply b o f => some (9, b, o, f)
  | .smaxStat b o f => some (10, b, o, f)
  | .smaxApply b o f => some (11, b, o, f)
  | .attn b o f => some (12, b, o, f)
  | _ => none

/-- Every berth operation that has been granted its permit, in a quay that is awake, reads its operands, computes and writes its result grains, and
ends with its code and counts, or waits for its duplicate where it was selected (R288, R291-R295, R297, R315, R337). -/
def Obligations.BerthOperationsComplete : Prop :=
  ∀ (s : State) (i : Instr) (op b : Nat) (older : List Nat) (flips : List Flip) (o : BOp),
    berthRow i = some (op, b, older, flips) → (bankOf s b).run = some o → o.op = op → o.phase = .granted →
    (permitsOf s (b / 1024)).pool ≠ 0 → bankAwake s b = true →
    let r := advanceOp s b o older flips none
    (o.selected = false → exec i s = .next (settle (endRun r.1 b r.2 r.2.code r.2.nelem r.2.nsat r.2.nflush true))) ∧
    (o.selected = true →
      let p := permitsOf r.1 (b / 1024)
      let s1 := setPermits r.1 (b / 1024) { p with waiting := p.waiting ++ [b + 65536] }
      exec i s = .next (settle (setBank s1 b { bankOf s1 b with run := some { r.2 with phase := .computed } })))

/-- Every 400 wt the harbourmaster sizes the permit pools and sets the throttle level (R309, R383); a quay that it has not
  sized falls back (R310); a trip stops the cranes and the pools (R384); a waking quay becomes Active, with the lanes of
  its link that failed their training retired, and serves what was held (R347, R388). That link training happens at
  QUAY_WAKE is the model's choice (log entry 107), and so is it that HARBOUR_THROTTLE brings the readings by which TRIPPED
  clears (log entry 111). -/
def Obligations.PowerEventsComplete : Prop :=
  (∀ (s : State) (meas : List QuayMeas), isActive s = true → exec (.permitPoolSizing meas) s = .next (sizePools s meas)) ∧
  (∀ (s : State) (q tempC : Nat), isActive s = true → q < quays s.part → q ∉ asleep s → expired s (permitsOf s
       q).sizedTick 800 = true → exec (.permitPoolFallback q tempC) s = .next (setPermits (setFld s (rBtPermitStat q) 11 11
       (b2n ((decide (fld s (rBtPermitCfg q) 63 56 ≤ tempC))))) q
       { permitsOf s q with pool := if (decide (fld s (rBtPermitCfg q) 63 56 ≤ tempC)) ∨ fld s rPwHbStat 21 21 = 1 then 0 else min 16 (fld s (rBtPermitCfg q) 8 0), fallback := true })) ∧
  (∀ (s : State) (mw tempC : Nat) (quayC : List Nat), isActive s = true → exec (.harbourThrottle mw tempC quayC) s = .next
       (throttleStep s mw tempC quayC)) ∧
  (∀ (s s1 : State) (reading : Nat), isActive s = true → fld s rPwCap 63 56 ≤ reading → s1 = zeroPools (setFld (setFld
       (raiseAlert s 2) rPwHbStat 21 21 1) rPwHbStat 20 18 7) → exec (.temperatureTrip reading) s = .next (((List.range
       (quays s1.part)).filter fun q => q ∉ s1.walk.powerHeld).foldl holdCrane s1)) ∧
  (∀ (s : State) (q : Nat) (failed : List Nat), isActive s = true → q ∈ s.pow.waking → exec (.quayWake ⟨q, failed⟩) s =
       .next (settle (serveQuayHeld (retryQuayStates (quayActive (failed.foldl (fun s1 l => retireLink s1 q l) s) q)))))

/-- Mooring loses the state of its columns and keeps what RETAIN keeps (R390); wake events are noted once, with their
  cause (R391, Table 18-5); the harbour wakes, trains its ports, performs the narrower resets that woke it and serves what
  it holds and what it refused while it moored, or performs the Warm reset that woke it (R393). -/
def Obligations.HarbourPowerComplete : Prop :=
  (∀ (s : State) (retain : Bool), s.pow.harbour = .mooring retain → exec .mooring s = .next (moorNow s retain)) ∧
  (∀ (s : State) (die : Nat), die < ports s.part / 32 → exec (.hostWakeLine die) s = .next (recordWake s 1)) ∧
  (∀ (s : State) (port : Nat), port < 8 → exec (.fabricWake port) s = .next (recordWake s 2)) ∧
  (∀ (s : State), s.pow.wakeAfter ≠ 0 → expired s s.pow.mooredTick s.pow.wakeAfter = true → exec .wakeAfterExpiry s =
       .next (recordWake s 4)) ∧
  (∀ (s : State) (retain : Bool), s.pow.harbour = .moored retain → s.pow.harbourWaking = true → s.pow.warmAfter = none →
       exec .harbourWake s = .next (serveAll (serveLate (serveLateReqs (s.pow.resetsAfter.foldl kindReset (wakeHarbour
       s)))))) ∧
  (∀ (s : State) (retain keep ref : Bool), s.pow.harbour = .moored retain → s.pow.harbourWaking = true → s.pow.warmAfter =
       some (keep, ref) → exec .harbourWake s = .next (warmNow (wakeHarbour s) keep ref))

/-- The watch wraps (R379); a lost reference resets the host ports, stops the landing ports with what they hold and raises
  ALERT (R375), its return trains them again (R375); the trim value is stored (R377); that the holds of the landing ports
  are emptied while packets of the loopback stay is the model's reading (log entry 70), and that REF_SPREAD corrects the
  trim its choice (log entry 106); a unit that has nothing to do enters Idle (R386). -/
def Obligations.ClockEventsComplete : Prop :=
  (∀ (s : State), now s + 1 = 2 ^ 48 → exec .watchWrap s = .next (watchTick s)) ∧
  (∀ (s : State), isOn s = true → fld s rHbClk 0 0 = 1 → exec .refLoss s = .next (settle
       { (((List.range (ports s.part)).foldl portReset (raiseAlert (bump (setFld s rHbClk 0 0 0) rHbClk 47 40 1) 1))) with land := { (((List.range (ports s.part)).foldl portReset (raiseAlert (bump (setFld s rHbClk 0 0 0) rHbClk 47 40 1) 1))).land with stopped := true, holds := [], late := [] } })) ∧
  (∀ (s : State), isOn s = true → fld s rHbClk 0 0 = 0 → exec .refReturn s = .next (trainPorts (setFld s rHbClk 0 0 1))) ∧
  (∀ (s : State) (offset : BitVec 16), isOn s = true → fld s rHbClk 0 0 = 1 → exec (.watchTrimConverged offset) s = .next
       (setFld (setFld s rHbClk 2 2 1) rHbClk 39 24 ((offset.toNat + 10 * fld s rHbClk 20 8) % 65536))) ∧
  (∀ (s : State) (e : Nat), isActive s = true → engineListed e = true → engineAbsent s e = false → engineQuiet s e = true
       → ∃ t, exec (.idleEntry (.engine e)) s = .next t ∧ e ∈ t.pow.idleEngines ∧ t = { s with pow := t.pow }) ∧
  (∀ (s : State) (b : Nat), isActive s = true → b < banksOf s.part → bankBusy (bankOf s b) = false → ∃ t, exec (.idleEntry
       (.berth b)) s = .next t ∧ b ∈ t.pow.idleBerths ∧ t = { s with pow := t.pow })

/-- Power on and Cold reset, Warm reset with its KEEP, and the Engine, Quay and Port resets each leave the state of their
  column of Table 18-7, and the removal of supply leaves nothing but the logbook (R385, R393-R397); a narrower reset of a
  harbour that is moored, or on its way there, first wakes it (R393); a lockstep mismatch restarts the harbourmaster
  (R79). That POWER_ON boots a part with supply only where it has not booted is the model's choice (log entries 60 and
  21), and the wake cause of such a reset too (log entry 112). -/
def Obligations.ResetsComplete : Prop :=
  (∀ (s : State) (ref : Bool), (isOn s = false ∨ fld s rHbBootStat 2 0 = 0) → exec (.powerOn ref) s = .next (coldReset s
       ref)) ∧
  (∀ (s : State) (ref : Bool), isOn s = true → exec (.coldRstN ref) s = .next (coldReset s ref)) ∧
  (∀ (s : State) (ref : Bool), s.pow.harbour = .active → exec (.warmRstN ref) s = .next (warmNow s (fld s rPwReset 16 16
       == 1) ref) ∧ exec (.warmReset ref) s = .next (warmNow s false ref) ∧ exec (.warmResetKeep ref) s = .next (warmNow s
       true ref)) ∧
  (∀ (s : State) (e : Nat), isActive s = true → exec (.engineReset e) s = .next (settle (engineReset s e))) ∧
  (∀ (s : State) (p : Nat), isActive s = true → exec (.portReset p) s = .next (settle (portReset s p))) ∧
  (∀ (s : State) (q : Nat), isActive s = true → exec (.quayReset q) s = .next (settle (quayReset s q))) ∧
  (∀ (s : State) (n : Nat), ((∃ retain, s.pow.harbour = .moored retain ∨ s.pow.harbour = .mooring retain)) → exec
       (.engineReset n) s = .next ((wakeFor s n) 1) ∧ exec (.portReset n) s = .next ((wakeFor s n) 2) ∧ exec (.quayReset n)
       s = .next ((wakeFor s n) 3)) ∧
  (∀ (s : State), exec .supplyRemoval s = .next (removeSupply s)) ∧
  (∀ (s : State), isActive s = true → fld s rHbHmStat 0 0 = 1 → exec .lockstepMismatch s = .next (settle (restartHm
       (raiseAlert (setFld s rHbHmStat 1 1 1) 0))))

/-- The sideband reads and writes registers whatever the protection map says (R412, R413), answers an offset it does not
  serve with its status, reads and clears the alert causes, and orders wakes and resets; the test port shifts out what its
  instruction selects (R413-R416). A reset that PW_RESET orders follows its answer, and WARM keeps DRAM with
  PW_RESET.KEEP_PIN too (R394). That ALERT_CAUSE answers the eight bytes of HB_ALERT and clears bits 6 to 0, and that a
  part without supply is silent, is the model's reading (log entry 60). -/
def Obligations.SidebandComplete : Prop :=
  (∀ (s : State) (off : Nat), s.pow.harbour ≠ .off → sidebandFault s off = none → exec (.regRead off) s = .next (sideband
       s sbOK (leBytes 8 (readReg s off)))) ∧
  (∀ (s : State) (off : Nat) (v : Word), s.pow.harbour ≠ .off → sidebandFault s off = none → pwResetOf off v.toNat = none
       → exec (.regWrite off v) s = .next (settleActive (sideband (writeReg s off v.toNat).1 (if (writeReg s off v.toNat).2
       then sbDENIED else sbOK) []))) ∧
  (∀ (s : State) (off k t : Nat) (v : Word), s.pow.harbour ≠ .off → sidebandFault s off = none → pwResetOf off v.toNat =
       some (k, t) → exec (.regWrite off v) s = .next (settleActive (orderReset (sideband (writeReg s off v.toNat).1 (if
       (writeReg s off v.toNat).2 then sbDENIED else sbOK) []) 3 (k, t)))) ∧
  (∀ (s : State), s.pow.harbour ≠ .off → exec .alertCause s = .next (alertEdge ((sideband s sbOK (leBytes 8 (readReg s
       rHbAlert)))) (setFld ((sideband s sbOK (leBytes 8 (readReg s rHbAlert)))) rHbAlert 6 0 0)) ∧ exec .wake s = .next
       (recordWake (sideband s sbOK []) 3) ∧ (∀ ref, exec (.cold ref) s = .next (coldReset (sideband s sbOK []) ref)) ∧ (∀
       keep ref, exec (.warm keep ref) s = .next (warmReset (sideband s sbOK []) (keep || fld s rPwReset 16 16 == 1) ref))) ∧
  (∀ (s : State) (off : Nat) (st : Nat), s.pow.harbour ≠ .off → sidebandFault s off = some st → exec (.regRead off) s =
       .next (sideband s st []) ∧ ∀ v, exec (.regWrite off v) s = .next (sideband s st [])) ∧
  (∀ (s : State), s.pow.harbour = .off → exec .alertCause s = .next s ∧ exec .wake s = .next s ∧ ∀ off, exec (.regRead
       off) s = .next s) ∧
  (∀ (s : State), s.pow.harbour ≠ .off → exec .bypass s = .next (selectTap s .bypass [false]) ∧ exec .idcode s = .next
       (selectTap s .idcode (shiftBits 32 (idcodeOf s.fuses))) ∧ exec .samplePreload s = .next (boundaryTap s .sample) ∧
       exec .extest s = .next (boundaryTap s .extest)) ∧
  (∀ (s : State) (op : DebugOp), s.pow.harbour = .active → debugOpen s = true → exec (.debugAccess op) s = .next (debugDo
       s op))

/-! ### Addresses, codewords and packets -/

/-- Chunk n of the interleaved region lies at byte u × 512 of the bank of its bank code, a byte of a bank has its aperture
address, and the two are views of one store: every byte of DRAM has exactly one place in one bank, and every place in a bank
is one byte of DRAM (R30, R32, R33). -/
def Obligations.TwoViewsOneStore : Prop :=
  ∀ part : Part,
    (∀ a < capacity part,
      let n := a / 512
      let u := n / 2 ^ wBits part
      let g := (n % 2 ^ wBits part) ^^^ (u % 2 ^ wBits part) ^^^ (u / 2 ^ wBits part)
      let bb := match part with
        | .z16 => g % 16 * 1024 + g / 16 % 16 * 64 + g / 256
        | .z8 => g % 8 * 1024 + g / 8 % 16 * 64 + g / 128
      u ≤ 196607 ∧ g < 2 ^ wBits part ∧ bankPlace part a = (bb, u * 512 + a % 512) ∧ bb < banksOf part ∧
      toAperture part a = 0x40000000000 + bb * 0x6000000 + (u * 512 + a % 512) ∧ fromAperture part (toAperture part a) = a ∧
      homeAddr part (toAperture part a) = a ∧ homeAddr part a = a) ∧
    (∀ b < banksOf part, ∀ x < bankBytes, bankAddr part b x < capacity part ∧ bankPlace part (bankAddr part b x) = (b, x))

/-- A packet header's fields fit their places in Table 9-1. -/
def headerFits (h : PktHdr) : Prop :=
  h.ver < 2 ^ 4 ∧ h.type < 2 ^ 4 ∧ h.dest < 2 ^ 18 ∧ h.orig < 2 ^ 18 ∧ h.manifest < 2 ^ 14 ∧ h.gen < 2 ^ 16 ∧
  h.source < 2 ^ 24 ∧ h.target < 2 ^ 44 ∧ h.len < 2 ^ 8 ∧ h.fmt < 2 ^ 4 ∧ h.cnt < 2 ^ 24 ∧ h.reserved < 2 ^ 8 ∧ h.arg < 2 ^ 32

/-- A header of version 2 or 3 survives the fabric: the fields of its bits are its fields, and its last word is 0 in version
2 and the CRC of the rest in version 3 (Table 9-1, R168). -/
def Obligations.HeadersSurvive : Prop :=
  ∀ h : PktHdr, headerFits h →
    PktHdr.ofBits h.toBits = h ∧ h.toBits.toNat / 2 ^ 224 = (if h.ver = 3 then hcrcOf h.lowBits else 0)

/-- A word with one symbol changed: symbols 0 to 31 are data, 32 to 35 check symbols (R321). -/
def symbolError (c : Codeword) (i : Nat) (e : Byte) : Codeword :=
  if i < 32 then { c with data := c.data ^^^ ((e.zeroExtend 256 : Grain) <<< (8 * i)) }
  else { c with check := c.check ^^^ ((e.zeroExtend 32 : BitVec 32) <<< (8 * (i - 32))) }

/-- A codeword decodes CLEAN and a poison codeword POISON, and any one symbol in error of a codeword is CORRECTED to its data,
in normal and in scrub mode (R323, R324). -/
def Obligations.OneSymbolErrorsAreCorrected : Prop :=
  ∀ (g : Grain) (scrub : Bool),
    classify scrub (deltaOf (codewordOf g)) = .clean ∧ classify scrub (deltaOf (poisonOf g)) = .poison ∧
    ∀ i < 36, ∀ e : Byte, e ≠ 0 → ∃ m : Grain,
      classify scrub (deltaOf (symbolError (codewordOf g) i e)) = .corrected m ∧
      (symbolError (codewordOf g) i e).data ^^^ m = g

/-- A codeword put at a grain is what is stored there, the bytes of the grain are its data, and every other grain keeps its
codeword and its bytes (R47, R321). -/
def Obligations.StoredGrainReadsBack : Prop :=
  ∀ (s : State) (a : Nat) (w : Codeword), s.memOk → a % 32 = 0 →
    storedWord (storeRaw s a w) a = w ∧ (storeRaw s a w).memOk ∧
    (∀ i < 32, memByte (storeRaw s a w).mem (a + i) = w.data.extractLsb' (8 * i) 8) ∧
    (∀ b, b % 32 = 0 → b ≠ a → storedWord (storeRaw s a w) b = storedWord s b) ∧
    (∀ b, b / 32 ≠ a / 32 → memByte (storeRaw s a w).mem b = memByte s.mem b)

/-! ### Commands -/

/-- The end of a command reaches only what commands share: of the rest of the state it changes nothing, whatever its status
and whoever waits for its release; it leaves the part and the form of its memory as they were (R80-R82, R113). -/
def Obligations.CompletionFrame : Prop :=
  ∀ (s : State) (cx st f res : Nat),
    (complete s cx st res).untouched = s.untouched ∧ (completeBad s cx st f).untouched = s.untouched ∧
    (complete s cx st res).part = s.part ∧ (s.memOk → (complete s cx st res).memOk ∧ (completeBad s cx st f).memOk)

/-- A command that has a reply and no release, in a window whose ring lies in the software pools and has room, leaves at its
end the record of Table 4-4 at the entry of its number, with the PHASE bit of its pass, and counts it; the command is gone,
and every other byte of memory is as it was (R80, R81). -/
def Obligations.ReplyRecordIsWritten : Prop :=
  ∀ (s : State) (cx st res : Nat) (run : Running), s.memOk → cmdOf? s cx = some run →
    run.pkt.wantsReply = true ∨ 16 ≤ st → run.pkt.release? = none →
    let w := winOf s run.pkt.win
    w.size ≠ 0 → w.held = [] → ringFull w = false → w.base % 32 = 0 → inPools w.base (32 * 2 ^ w.size) = true →
    let p := run.pkt
    let a := w.base + 32 * (w.prod % 2 ^ w.size)
    let t := complete s cx st res
    memRead t.mem a 32 =
      leBytes 8 p.token ++ leBytes 2 p.seq ++ leBytes 1 p.win ++ leBytes 1 st ++ leBytes 2 p.opcode ++
      leBytes 2 (b2n (w.prod / 2 ^ w.size % 2 == 0)) ++ leBytes 8 res ++ leBytes 6 (now s) ++ leBytes 2 0 ∧
    winOf t p.win = { w with prod := (w.prod + 1) % 131072 } ∧ cmdOf? t cx = none ∧
    (∀ b, b < a ∨ a + 32 ≤ b → memByte t.mem b = memByte s.mem b)

/-- Clearing a watch that is not armed completes with DONE and RESULT 0; an armed one whose notices have not all been sent
goes on, and one whose notices have been sent is gone, with their number in RESULT (R110). -/
def Obligations.WatchClearAnswers : Prop :=
  ∀ (s : State) (cx : Nat) (r : Running), turnOf s cx 0x0205 = some r → Clear r.pkt [(8, 7, 0)] →
    let w := r.pkt.at 64 1
    (tget? s.sync.watches w = none → exec (.watchClear cx) s = .next (complete s cx stDONE 0)) ∧
    (∀ x, tget? s.sync.watches w = some x → noticeWaits s w = true → exec (.watchClear cx) s = .next s) ∧
    (∀ x t, tget? s.sync.watches w = some x → noticeWaits s w = false → exec (.watchClear cx) s = .next t →
      tget? t.sync.watches w = none ∧ noticeWaits t w = false ∧
      t = complete { s with sync := { s.sync with watches := terase s.sync.watches w } } cx stDONE x.sent)

/-! ### Ports and protection -/

/-- A request of any opcode, the reserved one among them, that arrives with its credits and with a TAG already outstanding has
no effect but TAG_REUSE; its DENIED waits for the response of the request that holds the tag, which is not affected (R53). -/
def Obligations.TagReuseIsDenied : Prop :=
  ∀ (s : State) (p : Nat) (hdr : BitVec 128), portUp s p = true → (p, (ReqHdr.ofBits hdr).tag) ∈ s.host.tags →
    let h := ReqHdr.ofBits hdr
    reqCredits (kindOf h.opc) h.len ≤ creditsFree s p (channelOf s (kindOf h.opc) h.addr) →
    let s2 := setFld (noteRev s p h.rev2) (rHbPortStat p) 3 3 1
    let t := { s2 with host := { s2.host with reused := s2.host.reused ++ [(p, h.tag, channelOf s (kindOf h.opc) h.addr)] } }
    (h.opc = 0 ∨ h.opc = 1 → exec (.rd p hdr) s = .next t) ∧ (h.opc = 4 → exec (.rda p hdr) s = .next t) ∧
    (∀ d, h.opc = 2 → h.final = false → exec (.wr p hdr d) s = .next t) ∧
    (∀ d, h.opc = 3 → h.final = false → exec (.wrr p hdr d) s = .next t) ∧
    (∀ d, h.opc = 2 ∨ h.opc = 3 → h.final = true → exec (.finalWrite p hdr d) s = .next t) ∧
    (∀ d, h.opc = 5 → exec (.atm p hdr d) s = .next t) ∧ (h.opc = 6 → exec (.fnl p hdr) s = .next t) ∧
    (∀ m lat, h.opc = 7 → exec (.plt p hdr m lat) s = .next t) ∧
    t.host.reqs = s.host.reqs ∧ t.host.tags = s.host.tags ∧ t.host.egress = s.host.egress ∧ t.mem = s.mem ∧
    fld t (rHbPortStat p) 3 3 = 1

/-- While LOCK is clear every port holds every right at every address, and a write of the map records the values written, a
region whose LIMIT lies below its BASE excepted (R411, R409). -/
def Obligations.OpenMapRecords : Prop :=
  ∀ s : State, locked s = false →
    (∀ p need a n, hasRight s p need a n = true) ∧
    (∀ r < 32, ∀ v, bits v 60 60 = 0 ∨ bits v 29 0 ≤ bits v 59 30 →
      let t := (writeReg s (rHbProtRgn r) v).1
      fld t (rHbProtRgn r) 29 0 = bits v 29 0 ∧ fld t (rHbProtRgn r) 59 30 = bits v 59 30 ∧
      fld t (rHbProtRgn r) 60 60 = bits v 60 60 ∧ (writeReg s (rHbProtRgn r) v).2 = false) ∧
    (∀ k < 2 * ports s.part, ∀ v,
      let t := (writeReg s (rHbProtPort k) v).1
      regW t (rHbProtPort k) = v % 2 ^ 64 ∧ (writeReg s (rHbProtPort k) v).2 = false)

/-- Once LOCK is set the map decides every access byte by byte, and no write of a register clears LOCK or changes the map,
SELF of HB_ROADSTEAD or SIZE_GIB of LD_ANCH; one that would change SELF is told so (R409, R410, R412). -/
def Obligations.LockHolds : Prop :=
  ∀ s : State, locked s = true →
    (∀ p need a n, hasRight s p need a n = true ↔
      ∀ i < n, ∃ r < 32, regionHolds s r ((a + i) / 16384) = true ∧ bit (regionRights s p r) need = true) ∧
    (∀ off v,
      let t := (writeReg s off v).1
      locked t = true ∧ (∀ r < 32, regW t (rHbProtRgn r) = regW s (rHbProtRgn r)) ∧
      (∀ k < 256, regW t (rHbProtPort k) = regW s (rHbProtPort k)) ∧
      fld t rHbRoadstead 17 0 = fld s rHbRoadstead 17 0 ∧ fld t rLdAnch 6 0 = fld s rLdAnch 6 0) ∧
    (∀ v, (writeReg s rHbRoadstead v).2 = decide (fld s rHbRoadstead 17 0 ≠ bits v 17 0))

/-- Every fuse bit that is blown in one set of fuses is blown in the other (R432). -/
def fusesGrow (f g : Fuses) : Prop :=
  (f.dbgKill = true → g.dbgKill = true) ∧ f.keyRevoked &&& g.keyRevoked = f.keyRevoked ∧ f.fwSvnMin &&& g.fwSvnMin = f.fwSvnMin

/-- A debug access acts only while DBG_KILL and LOCK are both 0 and selects BYPASS at any other time; a fuse that it blows,
DBG_KILL, a bit of KEY_REVOKED or bits of FW_SVN_MIN, changes nothing that is sensed until the next Cold reset, by the sideband, by
COLD_RST_N or by power-on; no row clears a fuse, blown or sensed; and DBG_KILL, once sensed, stays for the life of the part (R393,
R416, R432). That an access that is open acts in an Active harbour, and when POWER_ON boots a part, is the model's reading (log
entry 60). -/
def Obligations.DebugAccessCloses : Prop :=
  (∀ (s : State) (op : DebugOp), s.pow.harbour ≠ .off → s.fuses.dbgKill = true ∨ locked s = true →
    exec (.debugAccess op) s = .next (selectTap s .bypass [false])) ∧
  (∀ (s : State) (op : DebugOp), s.pow.harbour = .active → s.fuses.dbgKill = false → locked s = false →
    exec (.debugAccess op) s = .next (debugDo s op)) ∧
  (∀ s : State, (debugDo s .blowDbgKill).fuses = s.fuses ∧ (debugDo s .blowDbgKill).blown = { s.blown with dbgKill := true }) ∧
  (∀ (s : State) (k : Nat), (debugDo s (.blowKeyRevoked k)).fuses = s.fuses ∧
    (debugDo s (.blowKeyRevoked k)).blown = { s.blown with keyRevoked := s.blown.keyRevoked ||| (1#2 <<< k) }) ∧
  (∀ (s : State) (m : BitVec 8), (debugDo s (.blowSvnMin m)).fuses = s.fuses ∧
    (debugDo s (.blowSvnMin m)).blown = { s.blown with fwSvnMin := s.blown.fwSvnMin ||| m }) ∧
  (∀ (s : State) (ref : Bool), s.pow.harbour ≠ .off →
    (∃ t, exec (.cold ref) s = .next t ∧ t.fuses = s.blown ∧ t.blown = s.blown) ∧
    (∃ t, exec (.coldRstN ref) s = .next t ∧ t.fuses = s.blown ∧ t.blown = s.blown)) ∧
  (∀ (s : State) (ref : Bool), s.pow.harbour = .off ∨ fld s rHbBootStat 2 0 = 0 →
    ∃ t, exec (.powerOn ref) s = .next t ∧ t.fuses = s.blown ∧ t.blown = s.blown) ∧
  (∀ (s t : State) (i : Instr), exec i s = .next t → fusesGrow s.blown t.blown ∧
    (fusesGrow s.fuses s.blown → fusesGrow s.fuses t.fuses ∧ fusesGrow t.fuses t.blown)) ∧
  (∀ (s t : State) (i : Instr), s.fuses.dbgKill = true → s.blown.dbgKill = true → exec i s = .next t →
    t.fuses.dbgKill = true ∧ t.blown.dbgKill = true)

/-! ### Tallies, commits and permits -/

/-- The words of a contribution that can be read. -/
def readable (w : TWord) : Prop := w ≠ .bad

/-- The tug adds exactly: the marker absorbs, and up to 2^23 - 1 contributions, each below 2^40, give the same word in any
order of arrival: the marker where one of them is the marker, and otherwise their exact sum (R181). -/
def Obligations.TalliesAddExactly : Prop :=
  (∀ w : TWord, readable w → addTally (some markerWord) w = markerWord) ∧
  (∀ o : Option Word, addTally o .marker = markerWord) ∧
  (∀ (o : Word) (v : Int), o ≠ markerWord →
    addTally (some o) (.val v) = if 2 ^ 63 - 1 < (o.toInt + v).natAbs then markerWord else BitVec.ofInt 64 (o.toInt + v)) ∧
  (∀ l : List TWord, l.length ≤ 8388607 → (∀ w ∈ l, readable w) → (∀ v, TWord.val v ∈ l → v.natAbs < 2 ^ 40) →
    l.foldl (fun o w => addTally (some o) w) 0 =
      if TWord.marker ∈ l then markerWord
      else BitVec.ofInt 64 (l.foldl (fun n w => match w with | .val v => n + v | _ => n) 0))

/-- The commit of a set leaves an epoch word with EPOCH, STEP and TROUND one greater, ACTIVE inverted, and LS and CLEAN as
R216 gives: CLEAN one greater, or, with DYNAMIC and CLEAN then equal to a G that is not 0, LS one greater up to LMAX and CLEAN
0 (R216, R229). -/
def Obligations.CommitAdvancesTheEpoch : Prop :=
  ∀ (s : State) (n : Nat) (x : Pset), setOf? s n = some x →
    ∃ y, setOf? (commitWalk s n x) n = some y ∧ y.ep.epoch = x.ep.epoch + 1 ∧ y.ep.step = x.ep.step + 1 ∧
      y.ep.active = !x.ep.active ∧ y.ep.tround = (x.ep.tround + 1) % 65536 ∧
      (y.ep.ls, y.ep.clean) =
        if x.pr.dynamic ∧ x.pr.g ≠ 0 ∧ (x.ep.clean + 1) % 65536 = x.pr.g then (min x.pr.lmax (x.ep.ls + 1), 0)
        else (x.ep.ls, (x.ep.clean + 1) % 65536)

/-- At each boundary of an interval, while the harbourmaster runs, every quay that is awake and was measured gets the pool of the
formula (R309), or 0 while TRIPPED is set (R384); a quay in Doze or waking takes no part and keeps its own (R388); while the
harbourmaster does not run, no pool changes (R310). -/
def Obligations.PoolsFollowTheFormula : Prop :=
  ∀ (s : State) (meas : List QuayMeas) (q : Nat) (m : QuayMeas), isActive s = true → q < quays s.part → meas[q]? = some m →
    ∃ t, exec (.permitPoolSizing meas) s = .next t ∧
      (q ∈ asleep s ∨ hmRuns s = false → (permitsOf t q).pool = (permitsOf s q).pool) ∧
      (q ∉ asleep s → hmRuns s = true → (permitsOf t q).pool =
        if fld s rPwHbStat 21 21 = 1 then 0
        else
          let cfg (hi lo : Nat) : Nat := fld s (rBtPermitCfg q) hi lo
          let budget : Int := (fld s rPwCap 16 0 : Int) - cfg 45 32 - m.otherMw
          let b : Int := if cfg 63 56 ≤ m.tempC then 0
            else if cfg 55 48 < m.tempC then (budget * ((cfg 63 56 : Int) - m.tempC)).fdiv ((cfg 63 56 : Int) - cfg 55 48)
            else budget
          min (b.fdiv (cfg 27 16)).toNat (min 256 (cfg 8 0)))

/-! ### Frames -/

/-- The rows that measure, time or show something. -/
def showsOnly : Instr → Bool
  | .permitPoolFallback .. | .harbourThrottle .. | .watchWrap | .watchTrimConverged .. | .idleEntry .. | .regRead .. | .alertCause
  | .wake | .hostWakeLine .. | .fabricWake .. | .wakeAfterExpiry | .bypass | .idcode | .samplePreload | .extest
  | .flitWithoutCredit .. | .linkReplay .. => true
  | _ => false

/-- A row that measures, times or shows something leaves all of memory, every command, gate, descriptor, manifest, routing
table, parameter set, subscription and berth operation as it was (R379-R386, R392, R413-R415, R54, R62). -/
def Obligations.ShowingRowsFrame : Prop :=
  ∀ (s t : State) (i : Instr), showsOnly i = true → exec i s = .next t →
    t.mem = s.mem ∧ t.chk = s.chk ∧ t.cmd = s.cmd ∧ t.sync = s.sync ∧ t.tds = s.tds ∧ t.land = s.land ∧ t.disp = s.disp ∧
    t.sets = s.sets ∧ t.exp = s.exp ∧ t.integ = s.integ ∧ t.fuses = s.fuses ∧ t.pending = s.pending ∧
    t.berth.banks = s.berth.banks ∧ t.host.reqs = s.host.reqs ∧ t.host.tags = s.host.tags

/-- Memory, and every command, gate, watch, descriptor, manifest, routing table and berth operation are as they were. -/
def onlyRegisters (s t : State) : Prop :=
  t.mem = s.mem ∧ t.chk = s.chk ∧ t.cmd.running = s.cmd.running ∧ t.sync = s.sync ∧ t.tds = s.tds ∧ t.land = s.land ∧
  t.disp = s.disp ∧ t.exp = s.exp ∧ t.berth.banks = s.berth.banks ∧ t.walk = s.walk ∧ t.fuses = s.fuses ∧ t.pending = s.pending

/-- What the arrival of a write of one register makes of the state, before what waited goes on: nothing at a port that is down,
the refusal of a request without its credits, the note of a reused tag, the answer that its form calls for, and otherwise what
its turn makes of it behind the requests that wait (R52-R54, R57). -/
def regArrival (s : State) (p : Nat) (w : BitVec 128) (r : Request) : State :=
  let h := ReqHdr.ofBits w
  let ch := channelOf s (kindOf h.opc) h.addr
  let s1 := taken s p w
  let s2 : State := { s1 with host := { s1.host with reqs := s.host.reqs ++ [heldReq r] } }
  if portUp s p = false then s
  else if creditsFree s p ch < reqCredits (kindOf h.opc) h.len then refuseFlit s p
  else if (p, h.tag) ∈ s.host.tags then
    let s3 := setFld (noteRev s p h.rev2) (rHbPortStat p) 3 3 1
    { s3 with host := { s3.host with reused := s3.host.reused ++ [(p, h.tag, ch)] } }
  else if badForm (kindOf h.opc) h = true then answerForm s1 p ch h .unmapped
  else carryOut s2 (heldReq r) (verdict s2 (heldReq r) false)

/-- The arrival of a write of any register leaves the state `regArrival`, after which what waited goes on. That state is the
one before it in all of memory and in every command, gate, watch, descriptor, manifest, routing table, subscription and berth
operation, but for what four registers order: a write of HB_TD_TURN turns one descriptor and writes its turn record, where it has
one; a write of IN_RECALL_CTL ends the hold of one set and marks its manifests; a GO in HB_BOOT reads the image, and ends commands
that the harbourmaster had taken; and the reset that PW_RESET orders waits for the response to leave. Where nothing waits, a write
of any other register leaves them as they were altogether (R39, R46, R146, R341, R394, R403, R412). -/
def Obligations.RegisterRowsFrame : Prop :=
  ∀ (s t : State) (i : Instr) (p : Nat) (hdr : BitVec 128) (off : Nat) (v : Word), registerRow i = some (p, hdr, off, v) →
    off % 8 = 0 → off < 0x1000000 → exec i s = .next t →
    let w := writeHdr hdr (regBase + off) 1
    let r := requestOf p (if (ReqHdr.ofBits w).opc = 3 then .wrr else .wr) w [codewordOf (bytesGrain (leBytes 8 v.toNat))]
    let u := regArrival s p w r
    (t = u ∨ t = settle u) ∧
    (off ∉ [rHbBoot, rHbTdTurn, rInRecallCtl] → onlyRegisters s u) ∧
    (off ∉ [rHbBoot, rHbTdTurn, rInRecallCtl, rPwReset] → s.atRest → s.host.reqs = [] → onlyRegisters s t) ∧
    (off = rHbTdTurn → s.memOk →
      u.cmd.running = s.cmd.running ∧ u.sync = s.sync ∧ u.land = s.land ∧ u.disp = s.disp ∧ u.sets = s.sets ∧ u.exp = s.exp ∧
      u.walk = s.walk ∧ u.fuses = s.fuses ∧ u.pending = s.pending ∧
      (∀ n, n ≠ v.toNat % 65536 → tget? u.tds n = tget? s.tds n) ∧
      (∀ b, (∀ d, tget? s.tds (v.toNat % 65536) = some d → d.statusEn = true → ∀ g ∈ grainsOf d.status 32,
          b < homeAddr s.part g ∨ homeAddr s.part g + 32 ≤ b) → memByte u.mem b = memByte s.mem b)) ∧
    (off = rInRecallCtl →
      u.mem = s.mem ∧ u.chk = s.chk ∧ u.cmd.running = s.cmd.running ∧ u.sync = s.sync ∧ u.tds = s.tds ∧ u.disp = s.disp ∧
      u.exp = s.exp ∧ u.berth.banks = s.berth.banks ∧ u.walk = s.walk ∧ u.fuses = s.fuses ∧ u.pending = s.pending ∧
      (∀ n, n ≠ v.toNat % 64 → setOf? u n = setOf? s n) ∧
      u.land = { s.land with mans := u.land.mans, finalising := u.land.finalising }) ∧
    (off = rHbBoot →
      u.sync.gates = s.sync.gates ∧ u.sync.watches = s.sync.watches ∧ u.tds = s.tds ∧ u.land = s.land ∧ u.disp = s.disp ∧
      u.sets = s.sets ∧ u.exp.subs = s.exp.subs ∧ u.walk.set = s.walk.set ∧ u.fuses = s.fuses ∧ u.pending = s.pending ∧
      (takenFirmware s = [] →
        u.cmd.running = s.cmd.running ∧ u.sync = s.sync ∧ u.exp = s.exp ∧ u.walk = s.walk ∧ u.berth.banks = s.berth.banks ∧
        (s.memOk → ∀ b, (∀ g ∈ grainsOf (bits v.toNat 43 5 * 32) (bits v.toNat 60 44 * 32),
          b < homeAddr s.part g ∨ homeAddr s.part g + 32 ≤ b) → memByte u.mem b = memByte s.mem b)))

/-- Nothing clears LOCK but Cold and Power: from every state in which it is set, every other row leaves it set (R412). -/
def Obligations.LockStays : Prop :=
  ∀ (s t : State) (i : Instr), locked s = true → exec i s = .next t →
    locked t = true ∨ (∃ ref, i = .cold ref ∨ i = .coldRstN ref ∨ i = .powerOn ref) ∨ i = .supplyRemoval
end

