-- ==== Sys2Proof/Laws/Checks.lean ====
section
/-!
SUPPORT. What the checks of a started command find (R76), and where its turn has come.
-/
namespace Sys2Proof.Machine

open Sys2Proof

/-- No fault is found exactly where no check finds one. -/
theorem firstFault_none (l : List (Bool × Nat)) : firstFault l = none ↔ AllPass l := by
  induction l with
  | nil => simp [firstFault]
  | cons e t ih =>
    obtain ⟨b, u⟩ := e
    have hc : AllPass ((b, u) :: t) ↔ b = false ∧ AllPass t := List.forall_mem_cons
    rw [hc, ← ih]
    cases h : firstFault t <;> cases b <;> simp [firstFault, h]

/-- A command whose reserved bits are clear and whose every other check passes goes on to its work (R76). -/
theorem checkFail_none {p : CmdPkt} {layout : List Named} {params descr : List (Bool × Nat)} (h : Clear p layout)
    (hp : AllPass params) (hd : AllPass descr) : checkFail p layout params descr false = none := by
  have h0 : firstFault (reservedFaults p layout) = none := by
    revert h
    simp only [Clear, checkFail, List.append_nil, firstFault]
    cases firstFault (reservedFaults p layout) <;> simp
  have h1 : firstFault (reservedFaults p layout ++ params) = none := by
    rw [firstFault_none] at h0 ⊢
    intro e he
    rcases List.mem_append.1 he with h2 | h2
    · exact h0 e h2
    · exact hp e h2
  simp [checkFail, h1, (firstFault_none _).2 hd]

/-- A command's turn has come only while it is one of the started commands, with the row's opcode. -/
theorem turnOf_some {s : State} {cx op : Nat} {r : Running} (h : turnOf s cx op = some r) :
    cmdOf? s cx = some r ∧ r.pkt.opcode = op ∧ r.phase = .started := by
  unfold turnOf at h
  cases hc : cmdOf? s cx with
  | none => simp [hc] at h
  | some x =>
    rw [hc] at h
    simp only at h
    split at h
    · cases h
      rename_i hx
      exact ⟨rfl, hx.1, hx.2.1⟩
    · cases h

end Sys2Proof.Machine
end

