-- ==== Sys2Proof/Laws/Holds.lean ====
section
/-!
SUPPORT. What an action that may have to wait leaves (R316, R388; log entry 14), what a sleeping quay's wake leaves alone, and
that nothing goes on where nothing waits.
-/
namespace Sys2Proof.Machine

open Sys2Proof

/-! ### Wakes -/

/-- A reach of a quay changes nothing but which quays doze and wake, and the count of reaches. -/
theorem wakeQuay_eq (s : State) (q : Nat) : wakeQuay s q = { s with pow := (wakeQuay s q).pow } := by
  unfold wakeQuay
  split
  · rfl
  · split <;> rfl

theorem rouse_eq (s : State) (e : Nat) : rouse s e = { s with pow := (rouse s e).pow } := by
  unfold rouse
  split <;> rfl

theorem rouseBerth_eq (s : State) (b : Nat) : rouseBerth s b = { s with pow := (rouseBerth s b).pow } := by
  unfold rouseBerth
  split <;> rfl

theorem rouseUnits_eq (s : State) (qs : List Nat) : rouseUnits s qs = { s with pow := (rouseUnits s qs).pow } := by
  unfold rouseUnits
  split <;> rfl

theorem startWake_eq (s : State) (home : Nat) : startWake s home = { s with pow := (startWake s home).pow } := by
  unfold startWake
  split
  · rfl
  · split
    · exact wakeQuay_eq s _
    · rfl

/-- A quay that is awake is reached without a wake. -/
theorem wakeQuay_awake {s : State} {q : Nat} (h : q ∉ asleep s) (ha : s.pow.harbour = .active) : wakeQuay s q = s := by
  simp only [asleep, ha, if_true, List.mem_append, not_or] at h
  simp [wakeQuay, h.1, h.2]

/-! ### Actions held whole -/

/-- An action held whole leaves what it does, or the wakes it has started. -/
theorem whole_cases (s : State) (f : State → State) :
    (calm s = true ∨ carried s (f s) = true) ∧ whole s f = f s ∨
    (calm s = false ∧ carried s (f s) = false) ∧ whole s f = keepWakes s (f s) := by
  unfold whole attempt
  cases hc : calm s <;> cases hk : carried s (f s) <;> simp [hk]

theorem whole_of_calm {s : State} (f : State → State) (h : calm s = true) : whole s f = f s := by simp [whole, attempt, h]

theorem whole_of_carried {s : State} {f : State → State} (h : carried s (f s) = true) : whole s f = f s := by
  simp [whole, attempt, h]

/-- Only what the action does in the state at hand counts. -/
theorem whole_congr {s : State} {f g : State → State} (h : f s = g s) : whole s f = whole s g := by
  simp [whole, attempt, h]

/-- What nothing does is carried out. -/
@[simp] theorem whole_self (s : State) : whole s (fun t => t) = s := by simp [whole, attempt, carried]

@[simp] theorem keepWakes_fuses (s t : State) : (keepWakes s t).fuses = s.fuses := rfl
@[simp] theorem keepWakes_regs (s t : State) : (keepWakes s t).regs = s.regs := rfl
@[simp] theorem keepWakes_mem (s t : State) : (keepWakes s t).mem = s.mem := rfl
@[simp] theorem keepWakes_chk (s t : State) : (keepWakes s t).chk = s.chk := rfl
@[simp] theorem keepWakes_host (s t : State) : (keepWakes s t).host = s.host := rfl
@[simp] theorem keepWakes_cmd (s t : State) : (keepWakes s t).cmd = s.cmd := rfl
@[simp] theorem keepWakes_sync (s t : State) : (keepWakes s t).sync = s.sync := rfl
@[simp] theorem keepWakes_tds (s t : State) : (keepWakes s t).tds = s.tds := rfl
@[simp] theorem keepWakes_land (s t : State) : (keepWakes s t).land = s.land := rfl
@[simp] theorem keepWakes_disp (s t : State) : (keepWakes s t).disp = s.disp := rfl
@[simp] theorem keepWakes_sets (s t : State) : (keepWakes s t).sets = s.sets := rfl
@[simp] theorem keepWakes_walk (s t : State) : (keepWakes s t).walk = s.walk := rfl
@[simp] theorem keepWakes_exp (s t : State) : (keepWakes s t).exp = s.exp := rfl
@[simp] theorem keepWakes_berth (s t : State) : (keepWakes s t).berth = s.berth := rfl
@[simp] theorem keepWakes_integ (s t : State) : (keepWakes s t).integ = s.integ := rfl
@[simp] theorem keepWakes_boot (s t : State) : (keepWakes s t).boot = s.boot := rfl
@[simp] theorem keepWakes_snap (s t : State) : (keepWakes s t).snap = s.snap := rfl
@[simp] theorem keepWakes_out (s t : State) : (keepWakes s t).out = s.out := rfl
@[simp] theorem keepWakes_pending (s t : State) : (keepWakes s t).pending = s.pending := rfl
@[simp] theorem keepWakes_harbour (s t : State) : (keepWakes s t).pow.harbour = s.pow.harbour := rfl

/-! ### Where nothing waits -/

/-- Folding what leaves every state alone leaves the state alone. -/
theorem foldl_id {α β : Type} (f : β → α → β) (l : List α) (b : β) (h : ∀ a ∈ l, f b a = b) : l.foldl f b = b := by
  induction l with
  | nil => rfl
  | cons a t ih =>
    rw [List.foldl_cons, h a List.mem_cons_self]
    exact ih fun x hx => h x (List.mem_cons_of_mem a hx)

/-- A command that waits for no acknowledgement is left alone. -/
theorem tryAll_rest {s : State} (h : ∀ e ∈ s.cmd.running, tryAcked s e.1 = s) : tryAll s = s :=
  foldl_id _ _ _ h

/-- Where nothing waits inside the harbour, nothing goes on. -/
theorem goOn_atRest {s : State} (h : s.atRest) : goOn s = tryAll s := by
  obtain ⟨h1, h2, h3, h4, h5, h6, -, h8, h9⟩ := h
  have r0 : runOrders s = s := by
    simp only [runOrders, h5, List.filter_nil, List.foldl_nil]
    rw [← h5]
  have r1 : applyHeld s = s := by
    simp only [applyHeld, h1, List.foldl_nil]
    rw [← h1]
  have r2 : retryFailing s = s := by
    simp only [retryFailing, h3, List.foldl_nil]
    rw [← h3]
  have r3 : retryDue s = s := by
    have f : retryFinals s = s := by
      refine foldl_id _ _ _ fun e he => ?_
      have := List.all_eq_true.1 h6 e he
      cases hk : e.kind <;> simp_all
    simp only [retryDue, f, h8, List.foldl_nil]
  have r4 : retryBatches s = s := by simp [retryBatches, h2]
  have r5 : expStages s = s := by simp [expStages, h4]
  rw [goOn, r0, r1, r2, r3, r4, h9, r5]

end Sys2Proof.Machine
end

