-- ==== Sys2Proof/Laws/Memory.lean ====
section
/-!
SUPPORT. The laws of the byte memory: every operation keeps the canonical form, a read gives what was written last, and two
memories in the form with equal bytes are equal.
-/
namespace Sys2Proof.Machine

theorem memWfFrom_weaken {lo lo' : Nat} {m : Mem} (h : memWfFrom lo m = true) (hl : lo' ≤ lo) : memWfFrom lo' m = true := by
  cases m with
  | nil => rfl
  | cons c t =>
    obtain ⟨a, b⟩ := c
    simp only [memWfFrom, Bool.and_eq_true, decide_eq_true_eq] at h ⊢
    exact ⟨⟨by omega, h.1.2⟩, h.2⟩

theorem memWfFrom_filter {p : Host.Cell → Bool} {lo : Nat} {m : Mem} (h : memWfFrom lo m = true) :
    memWfFrom lo (m.filter p) = true := by
  induction m generalizing lo with
  | nil => rfl
  | cons c t ih =>
    obtain ⟨a, b⟩ := c
    simp only [memWfFrom, Bool.and_eq_true, decide_eq_true_eq] at h
    rw [List.filter_cons]
    split
    · simp only [memWfFrom, Bool.and_eq_true, decide_eq_true_eq]
      exact ⟨h.1, ih h.2⟩
    · exact memWfFrom_weaken (ih h.2) (by omega)

theorem memWfFrom_memSet {lo : Nat} {m : Mem} {k : Nat} (v : Byte) (h : memWfFrom lo m = true) (hk : lo ≤ k) :
    memWfFrom lo (memSet m k v) = true := by
  induction m generalizing lo with
  | nil =>
    unfold memSet
    split
    · rfl
    · rename_i hv
      simp only [memWfFrom, Bool.and_eq_true, decide_eq_true_eq]
      exact ⟨⟨hk, hv⟩, trivial⟩
  | cons c t ih =>
    obtain ⟨a, b⟩ := c
    simp only [memWfFrom, Bool.and_eq_true, decide_eq_true_eq] at h
    obtain ⟨⟨h1, h2⟩, h3⟩ := h
    unfold memSet
    split
    · split
      · simp only [memWfFrom, Bool.and_eq_true, decide_eq_true_eq]
        exact ⟨⟨h1, h2⟩, h3⟩
      · rename_i hlt hv
        have h4 : memWfFrom (a + 1) t = true := h3
        simp only [memWfFrom, Bool.and_eq_true, decide_eq_true_eq]
        exact ⟨⟨hk, hv⟩, ⟨by omega, h2⟩, h4⟩
    · split
      · rename_i heq
        subst heq
        split
        · exact memWfFrom_weaken h3 (by omega)
        · simp only [memWfFrom, Bool.and_eq_true, decide_eq_true_eq]
          exact ⟨⟨h1, ‹_›⟩, h3⟩
      · simp only [memWfFrom, Bool.and_eq_true, decide_eq_true_eq]
        exact ⟨⟨h1, h2⟩, ih h3 (by omega)⟩

/-- A write of one byte keeps the form. -/
theorem memWf_memSet {m : Mem} (k : Nat) (v : Byte) (h : memWf m = true) : memWf (memSet m k v) = true :=
  memWfFrom_memSet v h (Nat.zero_le k)

/-- A write of bytes keeps the form. -/
theorem memWf_memWrite {m : Mem} (a : Nat) (bs : List Byte) (h : memWf m = true) : memWf (memWrite m a bs) = true := by
  induction bs generalizing m a with
  | nil => exact h
  | cons b t ih => exact ih _ (memWf_memSet a b h)

/-- Dropping cells keeps the form. -/
theorem memWf_filter {m : Mem} (p : Host.Cell → Bool) (h : memWf m = true) : memWf (m.filter p) = true := memWfFrom_filter h

/-- Clearing a range keeps the form. -/
theorem memWf_memClear {m : Mem} (lo hi : Nat) (h : memWf m = true) : memWf (memClear m lo hi) = true := memWfFrom_filter h

theorem memByte_below {lo : Nat} {m : Mem} {j : Nat} (h : memWfFrom lo m = true) (hj : j < lo) : memByte m j = 0 := by
  cases m with
  | nil => rfl
  | cons c t =>
    obtain ⟨a, b⟩ := c
    simp only [memWfFrom, Bool.and_eq_true, decide_eq_true_eq] at h
    simp [memByte, show j < a by omega]

theorem memByte_memSet_from {lo : Nat} {m : Mem} {k : Nat} (v : Byte) (j : Nat) (h : memWfFrom lo m = true) :
    memByte (memSet m k v) j = if j = k then v else memByte m j := by
  induction m generalizing lo with
  | nil =>
    by_cases hv : v = 0
    · simp [memSet, memByte, hv]
    · simp only [memSet, hv, if_false, memByte]
      by_cases hjk : j = k
      · simp [hjk]
      · simp [hjk]
  | cons c t ih =>
    obtain ⟨a, b⟩ := c
    simp only [memWfFrom, Bool.and_eq_true, decide_eq_true_eq] at h
    obtain ⟨⟨h1, h2⟩, h3⟩ := h
    have hb : ∀ i, i < a + 1 → memByte t i = 0 := fun i hi => memByte_below h3 hi
    unfold memSet
    split
    · rename_i hka
      split
      · rename_i hv
        by_cases hjk : j = k
        · subst hjk; simp [memByte, hka, hv]
        · simp [hjk]
      · by_cases hjk : j = k
        · subst hjk; simp [memByte]
        · simp only [memByte, hjk, if_false]
          by_cases hjk2 : j < k
          · have hja : j < a := by omega
            simp [hjk2, hja]
          · simp [hjk2]
    · split
      · rename_i hka
        subst hka
        split
        · rename_i hv
          by_cases hjk : j = k
          · subst hjk; simp [hb j (by omega), hv]
          · by_cases hlt : j < k
            · simp [memByte, hjk, hlt, hb j (by omega)]
            · simp [memByte, hjk, hlt]
        · by_cases hjk : j = k
          · subst hjk; simp [memByte]
          · simp [memByte, hjk]
      · rename_i h4 h5
        simp only [memByte]
        by_cases hja : j < a
        · have : j ≠ k := by omega
          simp [hja, this]
        · by_cases hja2 : j = a
          · simp [hja2]
            omega
          · simp only [hja, hja2, if_false]
            exact ih h3

/-- A read after a write of one byte. -/
theorem memByte_memSet {m : Mem} (k : Nat) (v : Byte) (j : Nat) (h : memWf m = true) :
    memByte (memSet m k v) j = if j = k then v else memByte m j := memByte_memSet_from v j h

/-- A read outside the bytes written. -/
theorem memByte_memWrite_out {m : Mem} {a : Nat} {bs : List Byte} {j : Nat} (h : memWf m = true)
    (hj : j < a ∨ a + bs.length ≤ j) : memByte (memWrite m a bs) j = memByte m j := by
  induction bs generalizing m a with
  | nil => rfl
  | cons b t ih =>
    simp only [List.length_cons] at hj
    rw [memWrite, ih (memWf_memSet a b h) (by omega), memByte_memSet a b j h]
    simp [show j ≠ a by omega]

/-- A read of a byte written. -/
theorem memByte_memWrite_in {m : Mem} {a : Nat} {bs : List Byte} {i : Nat} (h : memWf m = true) (hi : i < bs.length) :
    memByte (memWrite m a bs) (a + i) = bs[i] := by
  induction bs generalizing m a i with
  | nil => simp at hi
  | cons b t ih =>
    rw [memWrite]
    cases i with
    | zero =>
      rw [memByte_memWrite_out (memWf_memSet a b h) (by omega), memByte_memSet a b _ h]
      simp
    | succ n =>
      have h2 : n < t.length := by simpa using hi
      have := ih (a := a + 1) (i := n) (memWf_memSet a b h) h2
      simpa [Nat.add_assoc, Nat.add_comm 1 n] using this

/-- Two memories in the form with equal bytes are equal. -/
theorem mem_ext_from {lo : Nat} {m m' : Mem} (h : memWfFrom lo m = true) (h' : memWfFrom lo m' = true)
    (e : ∀ j, memByte m j = memByte m' j) : m = m' := by
  induction m generalizing lo m' with
  | nil =>
    cases m' with
    | nil => rfl
    | cons c t =>
      obtain ⟨a, b⟩ := c
      simp only [memWfFrom, Bool.and_eq_true, decide_eq_true_eq] at h'
      have := e a
      simp [memByte] at this
      exact absurd this.symm h'.1.2
  | cons c t ih =>
    obtain ⟨a, b⟩ := c
    simp only [memWfFrom, Bool.and_eq_true, decide_eq_true_eq] at h
    cases m' with
    | nil =>
      have := e a
      simp [memByte] at this
      exact absurd this h.1.2
    | cons c' t' =>
      obtain ⟨a', b'⟩ := c'
      simp only [memWfFrom, Bool.and_eq_true, decide_eq_true_eq] at h'
      have ea : a = a' := by
        rcases Nat.lt_trichotomy a a' with hl | hl | hl
        · have := e a
          simp [memByte, hl] at this
          exact absurd this h.1.2
        · exact hl
        · have := e a'
          simp [memByte, hl] at this
          exact absurd this.symm h'.1.2
      subst ea
      have eb : b = b' := by simpa [memByte] using e a
      subst eb
      have : t = t' := by
        apply ih h.2 h'.2
        intro j
        by_cases hj : j < a + 1
        · rw [memByte_below h.2 hj, memByte_below h'.2 hj]
        · have := e j
          simpa [memByte, show ¬ j < a by omega, show j ≠ a by omega] using this
      rw [this]

/-- The canonical form is canonical. -/
theorem mem_ext {m m' : Mem} (h : memWf m = true) (h' : memWf m' = true) (e : ∀ j, memByte m j = memByte m' j) : m = m' :=
  mem_ext_from h h' e

end Sys2Proof.Machine
end

