-- ==== Sys2Proof/Laws/State.lean ====
section
/-!
SUPPORT. What each primitive update leaves alone: one lemma per field and update, all by unfolding one record update.
-/
namespace Sys2Proof.Machine

open Sys2Proof

@[simp] theorem setRegW_fuses (s : State) (off v : Nat) : (setRegW s off v).fuses = s.fuses := rfl
@[simp] theorem setRegW_blown (s : State) (off v : Nat) : (setRegW s off v).blown = s.blown := rfl
@[simp] theorem setRegW_mem (s : State) (off v : Nat) : (setRegW s off v).mem = s.mem := rfl
@[simp] theorem setRegW_chk (s : State) (off v : Nat) : (setRegW s off v).chk = s.chk := rfl
@[simp] theorem setRegW_host (s : State) (off v : Nat) : (setRegW s off v).host = s.host := rfl
@[simp] theorem setRegW_cmd (s : State) (off v : Nat) : (setRegW s off v).cmd = s.cmd := rfl
@[simp] theorem setRegW_sync (s : State) (off v : Nat) : (setRegW s off v).sync = s.sync := rfl
@[simp] theorem setRegW_tds (s : State) (off v : Nat) : (setRegW s off v).tds = s.tds := rfl
@[simp] theorem setRegW_land (s : State) (off v : Nat) : (setRegW s off v).land = s.land := rfl
@[simp] theorem setRegW_disp (s : State) (off v : Nat) : (setRegW s off v).disp = s.disp := rfl
@[simp] theorem setRegW_sets (s : State) (off v : Nat) : (setRegW s off v).sets = s.sets := rfl
@[simp] theorem setRegW_walk (s : State) (off v : Nat) : (setRegW s off v).walk = s.walk := rfl
@[simp] theorem setRegW_exp (s : State) (off v : Nat) : (setRegW s off v).exp = s.exp := rfl
@[simp] theorem setRegW_berth (s : State) (off v : Nat) : (setRegW s off v).berth = s.berth := rfl
@[simp] theorem setRegW_integ (s : State) (off v : Nat) : (setRegW s off v).integ = s.integ := rfl
@[simp] theorem setRegW_pow (s : State) (off v : Nat) : (setRegW s off v).pow = s.pow := rfl
@[simp] theorem setRegW_boot (s : State) (off v : Nat) : (setRegW s off v).boot = s.boot := rfl
@[simp] theorem setRegW_snap (s : State) (off v : Nat) : (setRegW s off v).snap = s.snap := rfl
@[simp] theorem setRegW_out (s : State) (off v : Nat) : (setRegW s off v).out = s.out := rfl
@[simp] theorem setRegW_free (s : State) (off v : Nat) : (setRegW s off v).free = s.free := rfl
@[simp] theorem setRegW_pending (s : State) (off v : Nat) : (setRegW s off v).pending = s.pending := rfl

@[simp] theorem setFld_fuses (s : State) (off hi lo v : Nat) : (setFld s off hi lo v).fuses = s.fuses := rfl
@[simp] theorem setFld_blown (s : State) (off hi lo v : Nat) : (setFld s off hi lo v).blown = s.blown := rfl
@[simp] theorem setFld_mem (s : State) (off hi lo v : Nat) : (setFld s off hi lo v).mem = s.mem := rfl
@[simp] theorem setFld_chk (s : State) (off hi lo v : Nat) : (setFld s off hi lo v).chk = s.chk := rfl
@[simp] theorem setFld_host (s : State) (off hi lo v : Nat) : (setFld s off hi lo v).host = s.host := rfl
@[simp] theorem setFld_cmd (s : State) (off hi lo v : Nat) : (setFld s off hi lo v).cmd = s.cmd := rfl
@[simp] theorem setFld_sync (s : State) (off hi lo v : Nat) : (setFld s off hi lo v).sync = s.sync := rfl
@[simp] theorem setFld_tds (s : State) (off hi lo v : Nat) : (setFld s off hi lo v).tds = s.tds := rfl
@[simp] theorem setFld_land (s : State) (off hi lo v : Nat) : (setFld s off hi lo v).land = s.land := rfl
@[simp] theorem setFld_disp (s : State) (off hi lo v : Nat) : (setFld s off hi lo v).disp = s.disp := rfl
@[simp] theorem setFld_sets (s : State) (off hi lo v : Nat) : (setFld s off hi lo v).sets = s.sets := rfl
@[simp] theorem setFld_walk (s : State) (off hi lo v : Nat) : (setFld s off hi lo v).walk = s.walk := rfl
@[simp] theorem setFld_exp (s : State) (off hi lo v : Nat) : (setFld s off hi lo v).exp = s.exp := rfl
@[simp] theorem setFld_berth (s : State) (off hi lo v : Nat) : (setFld s off hi lo v).berth = s.berth := rfl
@[simp] theorem setFld_integ (s : State) (off hi lo v : Nat) : (setFld s off hi lo v).integ = s.integ := rfl
@[simp] theorem setFld_pow (s : State) (off hi lo v : Nat) : (setFld s off hi lo v).pow = s.pow := rfl
@[simp] theorem setFld_boot (s : State) (off hi lo v : Nat) : (setFld s off hi lo v).boot = s.boot := rfl
@[simp] theorem setFld_snap (s : State) (off hi lo v : Nat) : (setFld s off hi lo v).snap = s.snap := rfl
@[simp] theorem setFld_out (s : State) (off hi lo v : Nat) : (setFld s off hi lo v).out = s.out := rfl
@[simp] theorem setFld_free (s : State) (off hi lo v : Nat) : (setFld s off hi lo v).free = s.free := rfl
@[simp] theorem setFld_pending (s : State) (off hi lo v : Nat) : (setFld s off hi lo v).pending = s.pending := rfl

/-- A training of the quay links changes what is retired, the registers, what leaves the part and the count of drawn values. -/
theorem trainLinks_eq (s : State) : trainLinks s =
    { s with free := s.free + 1, integ := (trainLinks s).integ, regs := (trainLinks s).regs, out := (trainLinks s).out } := rfl

@[simp] theorem addWrap_fuses (s : State) : (addWrap s).fuses = s.fuses := rfl
@[simp] theorem addWrap_blown (s : State) : (addWrap s).blown = s.blown := rfl
@[simp] theorem addWrap_regs (s : State) : (addWrap s).regs = s.regs := rfl
@[simp] theorem addWrap_mem (s : State) : (addWrap s).mem = s.mem := rfl
@[simp] theorem addWrap_chk (s : State) : (addWrap s).chk = s.chk := rfl
@[simp] theorem addWrap_host (s : State) : (addWrap s).host = s.host := rfl
@[simp] theorem addWrap_cmd (s : State) : (addWrap s).cmd = s.cmd := rfl
@[simp] theorem addWrap_sync (s : State) : (addWrap s).sync = s.sync := rfl
@[simp] theorem addWrap_tds (s : State) : (addWrap s).tds = s.tds := rfl
@[simp] theorem addWrap_land (s : State) : (addWrap s).land = s.land := rfl
@[simp] theorem addWrap_disp (s : State) : (addWrap s).disp = s.disp := rfl
@[simp] theorem addWrap_sets (s : State) : (addWrap s).sets = s.sets := rfl
@[simp] theorem addWrap_walk (s : State) : (addWrap s).walk = s.walk := rfl
@[simp] theorem addWrap_exp (s : State) : (addWrap s).exp = s.exp := rfl
@[simp] theorem addWrap_berth (s : State) : (addWrap s).berth = s.berth := rfl
@[simp] theorem addWrap_integ (s : State) : (addWrap s).integ = s.integ := rfl
@[simp] theorem addWrap_pow (s : State) : (addWrap s).pow = s.pow := rfl
@[simp] theorem addWrap_snap (s : State) : (addWrap s).snap = s.snap := rfl
@[simp] theorem addWrap_out (s : State) : (addWrap s).out = s.out := rfl
@[simp] theorem addWrap_free (s : State) : (addWrap s).free = s.free := rfl
@[simp] theorem addWrap_pending (s : State) : (addWrap s).pending = s.pending := rfl

@[simp] theorem emit_fuses (s : State) (o : Out) : (emit s o).fuses = s.fuses := rfl
@[simp] theorem emit_blown (s : State) (o : Out) : (emit s o).blown = s.blown := rfl
@[simp] theorem emit_regs (s : State) (o : Out) : (emit s o).regs = s.regs := rfl
@[simp] theorem emit_mem (s : State) (o : Out) : (emit s o).mem = s.mem := rfl
@[simp] theorem emit_chk (s : State) (o : Out) : (emit s o).chk = s.chk := rfl
@[simp] theorem emit_host (s : State) (o : Out) : (emit s o).host = s.host := rfl
@[simp] theorem emit_cmd (s : State) (o : Out) : (emit s o).cmd = s.cmd := rfl
@[simp] theorem emit_sync (s : State) (o : Out) : (emit s o).sync = s.sync := rfl
@[simp] theorem emit_tds (s : State) (o : Out) : (emit s o).tds = s.tds := rfl
@[simp] theorem emit_land (s : State) (o : Out) : (emit s o).land = s.land := rfl
@[simp] theorem emit_disp (s : State) (o : Out) : (emit s o).disp = s.disp := rfl
@[simp] theorem emit_sets (s : State) (o : Out) : (emit s o).sets = s.sets := rfl
@[simp] theorem emit_walk (s : State) (o : Out) : (emit s o).walk = s.walk := rfl
@[simp] theorem emit_exp (s : State) (o : Out) : (emit s o).exp = s.exp := rfl
@[simp] theorem emit_berth (s : State) (o : Out) : (emit s o).berth = s.berth := rfl
@[simp] theorem emit_integ (s : State) (o : Out) : (emit s o).integ = s.integ := rfl
@[simp] theorem emit_pow (s : State) (o : Out) : (emit s o).pow = s.pow := rfl
@[simp] theorem emit_boot (s : State) (o : Out) : (emit s o).boot = s.boot := rfl
@[simp] theorem emit_snap (s : State) (o : Out) : (emit s o).snap = s.snap := rfl
@[simp] theorem emit_free (s : State) (o : Out) : (emit s o).free = s.free := rfl
@[simp] theorem emit_pending (s : State) (o : Out) : (emit s o).pending = s.pending := rfl

@[simp] theorem storeRaw_fuses (s : State) (home : Nat) (c : Codeword) : (storeRaw s home c).fuses = s.fuses := by simp only [storeRaw]
@[simp] theorem storeRaw_blown (s : State) (home : Nat) (c : Codeword) : (storeRaw s home c).blown = s.blown := by simp only [storeRaw]
@[simp] theorem storeRaw_regs (s : State) (home : Nat) (c : Codeword) : (storeRaw s home c).regs = s.regs := by simp only [storeRaw]
@[simp] theorem storeRaw_host (s : State) (home : Nat) (c : Codeword) : (storeRaw s home c).host = s.host := by simp only [storeRaw]
@[simp] theorem storeRaw_cmd (s : State) (home : Nat) (c : Codeword) : (storeRaw s home c).cmd = s.cmd := by simp only [storeRaw]
@[simp] theorem storeRaw_sync (s : State) (home : Nat) (c : Codeword) : (storeRaw s home c).sync = s.sync := by simp only [storeRaw]
@[simp] theorem storeRaw_tds (s : State) (home : Nat) (c : Codeword) : (storeRaw s home c).tds = s.tds := by simp only [storeRaw]
@[simp] theorem storeRaw_land (s : State) (home : Nat) (c : Codeword) : (storeRaw s home c).land = s.land := by simp only [storeRaw]
@[simp] theorem storeRaw_disp (s : State) (home : Nat) (c : Codeword) : (storeRaw s home c).disp = s.disp := by simp only [storeRaw]
@[simp] theorem storeRaw_sets (s : State) (home : Nat) (c : Codeword) : (storeRaw s home c).sets = s.sets := by simp only [storeRaw]
@[simp] theorem storeRaw_walk (s : State) (home : Nat) (c : Codeword) : (storeRaw s home c).walk = s.walk := by simp only [storeRaw]
@[simp] theorem storeRaw_exp (s : State) (home : Nat) (c : Codeword) : (storeRaw s home c).exp = s.exp := by simp only [storeRaw]
@[simp] theorem storeRaw_berth (s : State) (home : Nat) (c : Codeword) : (storeRaw s home c).berth = s.berth := by simp only [storeRaw]
@[simp] theorem storeRaw_integ (s : State) (home : Nat) (c : Codeword) : (storeRaw s home c).integ = s.integ := by simp only [storeRaw]
@[simp] theorem storeRaw_pow (s : State) (home : Nat) (c : Codeword) : (storeRaw s home c).pow = s.pow := by simp only [storeRaw]
@[simp] theorem storeRaw_boot (s : State) (home : Nat) (c : Codeword) : (storeRaw s home c).boot = s.boot := by simp only [storeRaw]
@[simp] theorem storeRaw_snap (s : State) (home : Nat) (c : Codeword) : (storeRaw s home c).snap = s.snap := by simp only [storeRaw]
@[simp] theorem storeRaw_out (s : State) (home : Nat) (c : Codeword) : (storeRaw s home c).out = s.out := by simp only [storeRaw]
@[simp] theorem storeRaw_free (s : State) (home : Nat) (c : Codeword) : (storeRaw s home c).free = s.free := by simp only [storeRaw]
@[simp] theorem storeRaw_pending (s : State) (home : Nat) (c : Codeword) : (storeRaw s home c).pending = s.pending := by simp only [storeRaw]

@[simp] theorem recordBad_fuses (s : State) (home : Nat) : (recordBad s home).fuses = s.fuses := rfl
@[simp] theorem recordBad_blown (s : State) (home : Nat) : (recordBad s home).blown = s.blown := rfl
@[simp] theorem recordBad_regs (s : State) (home : Nat) : (recordBad s home).regs = s.regs := rfl
@[simp] theorem recordBad_mem (s : State) (home : Nat) : (recordBad s home).mem = s.mem := rfl
@[simp] theorem recordBad_chk (s : State) (home : Nat) : (recordBad s home).chk = s.chk := rfl
@[simp] theorem recordBad_host (s : State) (home : Nat) : (recordBad s home).host = s.host := rfl
@[simp] theorem recordBad_cmd (s : State) (home : Nat) : (recordBad s home).cmd = s.cmd := rfl
@[simp] theorem recordBad_sync (s : State) (home : Nat) : (recordBad s home).sync = s.sync := rfl
@[simp] theorem recordBad_tds (s : State) (home : Nat) : (recordBad s home).tds = s.tds := rfl
@[simp] theorem recordBad_land (s : State) (home : Nat) : (recordBad s home).land = s.land := rfl
@[simp] theorem recordBad_disp (s : State) (home : Nat) : (recordBad s home).disp = s.disp := rfl
@[simp] theorem recordBad_sets (s : State) (home : Nat) : (recordBad s home).sets = s.sets := rfl
@[simp] theorem recordBad_walk (s : State) (home : Nat) : (recordBad s home).walk = s.walk := rfl
@[simp] theorem recordBad_exp (s : State) (home : Nat) : (recordBad s home).exp = s.exp := rfl
@[simp] theorem recordBad_berth (s : State) (home : Nat) : (recordBad s home).berth = s.berth := rfl
@[simp] theorem recordBad_pow (s : State) (home : Nat) : (recordBad s home).pow = s.pow := rfl
@[simp] theorem recordBad_boot (s : State) (home : Nat) : (recordBad s home).boot = s.boot := rfl
@[simp] theorem recordBad_snap (s : State) (home : Nat) : (recordBad s home).snap = s.snap := rfl
@[simp] theorem recordBad_out (s : State) (home : Nat) : (recordBad s home).out = s.out := rfl
@[simp] theorem recordBad_free (s : State) (home : Nat) : (recordBad s home).free = s.free := rfl
@[simp] theorem recordBad_pending (s : State) (home : Nat) : (recordBad s home).pending = s.pending := rfl

@[simp] theorem setWin_fuses (s : State) (w : Nat) (x : Window) : (setWin s w x).fuses = s.fuses := rfl
@[simp] theorem setWin_blown (s : State) (w : Nat) (x : Window) : (setWin s w x).blown = s.blown := rfl
@[simp] theorem setWin_regs (s : State) (w : Nat) (x : Window) : (setWin s w x).regs = s.regs := rfl
@[simp] theorem setWin_mem (s : State) (w : Nat) (x : Window) : (setWin s w x).mem = s.mem := rfl
@[simp] theorem setWin_chk (s : State) (w : Nat) (x : Window) : (setWin s w x).chk = s.chk := rfl
@[simp] theorem setWin_host (s : State) (w : Nat) (x : Window) : (setWin s w x).host = s.host := rfl
@[simp] theorem setWin_sync (s : State) (w : Nat) (x : Window) : (setWin s w x).sync = s.sync := rfl
@[simp] theorem setWin_tds (s : State) (w : Nat) (x : Window) : (setWin s w x).tds = s.tds := rfl
@[simp] theorem setWin_land (s : State) (w : Nat) (x : Window) : (setWin s w x).land = s.land := rfl
@[simp] theorem setWin_disp (s : State) (w : Nat) (x : Window) : (setWin s w x).disp = s.disp := rfl
@[simp] theorem setWin_sets (s : State) (w : Nat) (x : Window) : (setWin s w x).sets = s.sets := rfl
@[simp] theorem setWin_walk (s : State) (w : Nat) (x : Window) : (setWin s w x).walk = s.walk := rfl
@[simp] theorem setWin_exp (s : State) (w : Nat) (x : Window) : (setWin s w x).exp = s.exp := rfl
@[simp] theorem setWin_berth (s : State) (w : Nat) (x : Window) : (setWin s w x).berth = s.berth := rfl
@[simp] theorem setWin_integ (s : State) (w : Nat) (x : Window) : (setWin s w x).integ = s.integ := rfl
@[simp] theorem setWin_pow (s : State) (w : Nat) (x : Window) : (setWin s w x).pow = s.pow := rfl
@[simp] theorem setWin_boot (s : State) (w : Nat) (x : Window) : (setWin s w x).boot = s.boot := rfl
@[simp] theorem setWin_snap (s : State) (w : Nat) (x : Window) : (setWin s w x).snap = s.snap := rfl
@[simp] theorem setWin_out (s : State) (w : Nat) (x : Window) : (setWin s w x).out = s.out := rfl
@[simp] theorem setWin_free (s : State) (w : Nat) (x : Window) : (setWin s w x).free = s.free := rfl
@[simp] theorem setWin_pending (s : State) (w : Nat) (x : Window) : (setWin s w x).pending = s.pending := rfl

@[simp] theorem setGate_fuses (s : State) (g : Nat) (x : Gate) : (setGate s g x).fuses = s.fuses := rfl
@[simp] theorem setGate_blown (s : State) (g : Nat) (x : Gate) : (setGate s g x).blown = s.blown := rfl
@[simp] theorem setGate_regs (s : State) (g : Nat) (x : Gate) : (setGate s g x).regs = s.regs := rfl
@[simp] theorem setGate_mem (s : State) (g : Nat) (x : Gate) : (setGate s g x).mem = s.mem := rfl
@[simp] theorem setGate_chk (s : State) (g : Nat) (x : Gate) : (setGate s g x).chk = s.chk := rfl
@[simp] theorem setGate_host (s : State) (g : Nat) (x : Gate) : (setGate s g x).host = s.host := rfl
@[simp] theorem setGate_cmd (s : State) (g : Nat) (x : Gate) : (setGate s g x).cmd = s.cmd := rfl
@[simp] theorem setGate_tds (s : State) (g : Nat) (x : Gate) : (setGate s g x).tds = s.tds := rfl
@[simp] theorem setGate_land (s : State) (g : Nat) (x : Gate) : (setGate s g x).land = s.land := rfl
@[simp] theorem setGate_disp (s : State) (g : Nat) (x : Gate) : (setGate s g x).disp = s.disp := rfl
@[simp] theorem setGate_sets (s : State) (g : Nat) (x : Gate) : (setGate s g x).sets = s.sets := rfl
@[simp] theorem setGate_walk (s : State) (g : Nat) (x : Gate) : (setGate s g x).walk = s.walk := rfl
@[simp] theorem setGate_exp (s : State) (g : Nat) (x : Gate) : (setGate s g x).exp = s.exp := rfl
@[simp] theorem setGate_berth (s : State) (g : Nat) (x : Gate) : (setGate s g x).berth = s.berth := rfl
@[simp] theorem setGate_integ (s : State) (g : Nat) (x : Gate) : (setGate s g x).integ = s.integ := rfl
@[simp] theorem setGate_pow (s : State) (g : Nat) (x : Gate) : (setGate s g x).pow = s.pow := rfl
@[simp] theorem setGate_boot (s : State) (g : Nat) (x : Gate) : (setGate s g x).boot = s.boot := rfl
@[simp] theorem setGate_snap (s : State) (g : Nat) (x : Gate) : (setGate s g x).snap = s.snap := rfl
@[simp] theorem setGate_out (s : State) (g : Nat) (x : Gate) : (setGate s g x).out = s.out := rfl
@[simp] theorem setGate_free (s : State) (g : Nat) (x : Gate) : (setGate s g x).free = s.free := rfl
@[simp] theorem setGate_pending (s : State) (g : Nat) (x : Gate) : (setGate s g x).pending = s.pending := rfl

@[simp] theorem setBank_fuses (s : State) (b : Nat) (x : Bank) : (setBank s b x).fuses = s.fuses := rfl
@[simp] theorem setBank_blown (s : State) (b : Nat) (x : Bank) : (setBank s b x).blown = s.blown := rfl
@[simp] theorem setBank_regs (s : State) (b : Nat) (x : Bank) : (setBank s b x).regs = s.regs := rfl
@[simp] theorem setBank_mem (s : State) (b : Nat) (x : Bank) : (setBank s b x).mem = s.mem := rfl
@[simp] theorem setBank_chk (s : State) (b : Nat) (x : Bank) : (setBank s b x).chk = s.chk := rfl
@[simp] theorem setBank_host (s : State) (b : Nat) (x : Bank) : (setBank s b x).host = s.host := rfl
@[simp] theorem setBank_cmd (s : State) (b : Nat) (x : Bank) : (setBank s b x).cmd = s.cmd := rfl
@[simp] theorem setBank_sync (s : State) (b : Nat) (x : Bank) : (setBank s b x).sync = s.sync := rfl
@[simp] theorem setBank_tds (s : State) (b : Nat) (x : Bank) : (setBank s b x).tds = s.tds := rfl
@[simp] theorem setBank_land (s : State) (b : Nat) (x : Bank) : (setBank s b x).land = s.land := rfl
@[simp] theorem setBank_disp (s : State) (b : Nat) (x : Bank) : (setBank s b x).disp = s.disp := rfl
@[simp] theorem setBank_sets (s : State) (b : Nat) (x : Bank) : (setBank s b x).sets = s.sets := rfl
@[simp] theorem setBank_walk (s : State) (b : Nat) (x : Bank) : (setBank s b x).walk = s.walk := rfl
@[simp] theorem setBank_exp (s : State) (b : Nat) (x : Bank) : (setBank s b x).exp = s.exp := rfl
@[simp] theorem setBank_integ (s : State) (b : Nat) (x : Bank) : (setBank s b x).integ = s.integ := rfl
@[simp] theorem setBank_pow (s : State) (b : Nat) (x : Bank) : (setBank s b x).pow = s.pow := rfl
@[simp] theorem setBank_boot (s : State) (b : Nat) (x : Bank) : (setBank s b x).boot = s.boot := rfl
@[simp] theorem setBank_snap (s : State) (b : Nat) (x : Bank) : (setBank s b x).snap = s.snap := rfl
@[simp] theorem setBank_out (s : State) (b : Nat) (x : Bank) : (setBank s b x).out = s.out := rfl
@[simp] theorem setBank_free (s : State) (b : Nat) (x : Bank) : (setBank s b x).free = s.free := rfl
@[simp] theorem setBank_pending (s : State) (b : Nat) (x : Bank) : (setBank s b x).pending = s.pending := rfl

@[simp] theorem setPermits_fuses (s : State) (q : Nat) (x : Permits) : (setPermits s q x).fuses = s.fuses := rfl
@[simp] theorem setPermits_blown (s : State) (q : Nat) (x : Permits) : (setPermits s q x).blown = s.blown := rfl
@[simp] theorem setPermits_regs (s : State) (q : Nat) (x : Permits) : (setPermits s q x).regs = s.regs := rfl
@[simp] theorem setPermits_mem (s : State) (q : Nat) (x : Permits) : (setPermits s q x).mem = s.mem := rfl
@[simp] theorem setPermits_chk (s : State) (q : Nat) (x : Permits) : (setPermits s q x).chk = s.chk := rfl
@[simp] theorem setPermits_host (s : State) (q : Nat) (x : Permits) : (setPermits s q x).host = s.host := rfl
@[simp] theorem setPermits_cmd (s : State) (q : Nat) (x : Permits) : (setPermits s q x).cmd = s.cmd := rfl
@[simp] theorem setPermits_sync (s : State) (q : Nat) (x : Permits) : (setPermits s q x).sync = s.sync := rfl
@[simp] theorem setPermits_tds (s : State) (q : Nat) (x : Permits) : (setPermits s q x).tds = s.tds := rfl
@[simp] theorem setPermits_land (s : State) (q : Nat) (x : Permits) : (setPermits s q x).land = s.land := rfl
@[simp] theorem setPermits_disp (s : State) (q : Nat) (x : Permits) : (setPermits s q x).disp = s.disp := rfl
@[simp] theorem setPermits_sets (s : State) (q : Nat) (x : Permits) : (setPermits s q x).sets = s.sets := rfl
@[simp] theorem setPermits_walk (s : State) (q : Nat) (x : Permits) : (setPermits s q x).walk = s.walk := rfl
@[simp] theorem setPermits_exp (s : State) (q : Nat) (x : Permits) : (setPermits s q x).exp = s.exp := rfl
@[simp] theorem setPermits_integ (s : State) (q : Nat) (x : Permits) : (setPermits s q x).integ = s.integ := rfl
@[simp] theorem setPermits_pow (s : State) (q : Nat) (x : Permits) : (setPermits s q x).pow = s.pow := rfl
@[simp] theorem setPermits_boot (s : State) (q : Nat) (x : Permits) : (setPermits s q x).boot = s.boot := rfl
@[simp] theorem setPermits_snap (s : State) (q : Nat) (x : Permits) : (setPermits s q x).snap = s.snap := rfl
@[simp] theorem setPermits_out (s : State) (q : Nat) (x : Permits) : (setPermits s q x).out = s.out := rfl
@[simp] theorem setPermits_free (s : State) (q : Nat) (x : Permits) : (setPermits s q x).free = s.free := rfl
@[simp] theorem setPermits_pending (s : State) (q : Nat) (x : Permits) : (setPermits s q x).pending = s.pending := rfl

@[simp] theorem putSet_fuses (s : State) (n : Nat) (x : Pset) : (putSet s n x).fuses = s.fuses := rfl
@[simp] theorem putSet_blown (s : State) (n : Nat) (x : Pset) : (putSet s n x).blown = s.blown := rfl
@[simp] theorem putSet_regs (s : State) (n : Nat) (x : Pset) : (putSet s n x).regs = s.regs := rfl
@[simp] theorem putSet_mem (s : State) (n : Nat) (x : Pset) : (putSet s n x).mem = s.mem := rfl
@[simp] theorem putSet_chk (s : State) (n : Nat) (x : Pset) : (putSet s n x).chk = s.chk := rfl
@[simp] theorem putSet_host (s : State) (n : Nat) (x : Pset) : (putSet s n x).host = s.host := rfl
@[simp] theorem putSet_cmd (s : State) (n : Nat) (x : Pset) : (putSet s n x).cmd = s.cmd := rfl
@[simp] theorem putSet_sync (s : State) (n : Nat) (x : Pset) : (putSet s n x).sync = s.sync := rfl
@[simp] theorem putSet_tds (s : State) (n : Nat) (x : Pset) : (putSet s n x).tds = s.tds := rfl
@[simp] theorem putSet_land (s : State) (n : Nat) (x : Pset) : (putSet s n x).land = s.land := rfl
@[simp] theorem putSet_disp (s : State) (n : Nat) (x : Pset) : (putSet s n x).disp = s.disp := rfl
@[simp] theorem putSet_walk (s : State) (n : Nat) (x : Pset) : (putSet s n x).walk = s.walk := rfl
@[simp] theorem putSet_exp (s : State) (n : Nat) (x : Pset) : (putSet s n x).exp = s.exp := rfl
@[simp] theorem putSet_berth (s : State) (n : Nat) (x : Pset) : (putSet s n x).berth = s.berth := rfl
@[simp] theorem putSet_integ (s : State) (n : Nat) (x : Pset) : (putSet s n x).integ = s.integ := rfl
@[simp] theorem putSet_pow (s : State) (n : Nat) (x : Pset) : (putSet s n x).pow = s.pow := rfl
@[simp] theorem putSet_boot (s : State) (n : Nat) (x : Pset) : (putSet s n x).boot = s.boot := rfl
@[simp] theorem putSet_snap (s : State) (n : Nat) (x : Pset) : (putSet s n x).snap = s.snap := rfl
@[simp] theorem putSet_out (s : State) (n : Nat) (x : Pset) : (putSet s n x).out = s.out := rfl
@[simp] theorem putSet_free (s : State) (n : Nat) (x : Pset) : (putSet s n x).free = s.free := rfl
@[simp] theorem putSet_pending (s : State) (n : Nat) (x : Pset) : (putSet s n x).pending = s.pending := rfl

@[simp] theorem putCmd_fuses (s : State) (cx : Nat) (r : Running) : (putCmd s cx r).fuses = s.fuses := rfl
@[simp] theorem putCmd_blown (s : State) (cx : Nat) (r : Running) : (putCmd s cx r).blown = s.blown := rfl
@[simp] theorem putCmd_regs (s : State) (cx : Nat) (r : Running) : (putCmd s cx r).regs = s.regs := rfl
@[simp] theorem putCmd_mem (s : State) (cx : Nat) (r : Running) : (putCmd s cx r).mem = s.mem := rfl
@[simp] theorem putCmd_chk (s : State) (cx : Nat) (r : Running) : (putCmd s cx r).chk = s.chk := rfl
@[simp] theorem putCmd_host (s : State) (cx : Nat) (r : Running) : (putCmd s cx r).host = s.host := rfl
@[simp] theorem putCmd_sync (s : State) (cx : Nat) (r : Running) : (putCmd s cx r).sync = s.sync := rfl
@[simp] theorem putCmd_tds (s : State) (cx : Nat) (r : Running) : (putCmd s cx r).tds = s.tds := rfl
@[simp] theorem putCmd_land (s : State) (cx : Nat) (r : Running) : (putCmd s cx r).land = s.land := rfl
@[simp] theorem putCmd_disp (s : State) (cx : Nat) (r : Running) : (putCmd s cx r).disp = s.disp := rfl
@[simp] theorem putCmd_sets (s : State) (cx : Nat) (r : Running) : (putCmd s cx r).sets = s.sets := rfl
@[simp] theorem putCmd_walk (s : State) (cx : Nat) (r : Running) : (putCmd s cx r).walk = s.walk := rfl
@[simp] theorem putCmd_exp (s : State) (cx : Nat) (r : Running) : (putCmd s cx r).exp = s.exp := rfl
@[simp] theorem putCmd_berth (s : State) (cx : Nat) (r : Running) : (putCmd s cx r).berth = s.berth := rfl
@[simp] theorem putCmd_integ (s : State) (cx : Nat) (r : Running) : (putCmd s cx r).integ = s.integ := rfl
@[simp] theorem putCmd_pow (s : State) (cx : Nat) (r : Running) : (putCmd s cx r).pow = s.pow := rfl
@[simp] theorem putCmd_boot (s : State) (cx : Nat) (r : Running) : (putCmd s cx r).boot = s.boot := rfl
@[simp] theorem putCmd_snap (s : State) (cx : Nat) (r : Running) : (putCmd s cx r).snap = s.snap := rfl
@[simp] theorem putCmd_out (s : State) (cx : Nat) (r : Running) : (putCmd s cx r).out = s.out := rfl
@[simp] theorem putCmd_free (s : State) (cx : Nat) (r : Running) : (putCmd s cx r).free = s.free := rfl
@[simp] theorem putCmd_pending (s : State) (cx : Nat) (r : Running) : (putCmd s cx r).pending = s.pending := rfl

end Sys2Proof.Machine
end

