-- ==== Sys2Proof/WellFormed.lean ====
section
/-!
DEFINITION. Which commands are well formed: their operands are numbers that the widest part has, and a payload has the
length that its header gives. Meanings do not depend on it: a command that is not well formed leaves the state as it is, or
is answered as the spec says.
-/
namespace Sys2Proof

/-- A host port: 128 on the widest part (R40). -/
def portOk (p : Nat) : Bool := decide (p < 128)

/-- A command window (R66). -/
def windowOk (w : Nat) : Bool := decide (w < 256)

/-- A bank (R33). -/
def bankOk (b : Nat) : Bool := decide (b < 16384)

/-- A quay (R2). -/
def quayOk (q : Nat) : Bool := decide (q < 16)

/-- A parameter set (R212). -/
def setOk (n : Nat) : Bool := decide (n < 64)

/-- A gate (R120). -/
def gateOk (g : Nat) : Bool := decide (g < 1024)

/-- A manifest number (R173). -/
def manifestOk (m : Nat) : Bool := decide (m < 16384)

/-- An engine identifier (Table 6-7). -/
def engineOk (e : Nat) : Bool := decide (e < 52)

/-- The offset of a register (R39). -/
def regOffOk (off : Nat) : Bool := decide (off < 0x1000000) && off % 8 == 0

/-- The payload of a write has the grains that LEN gives (Table 3-1, R43). -/
def payloadOk (hdr : BitVec 128) (data : List Codeword) : Bool := data.length == ((hdr.toNat >>> 92) % 1024 + 3) / 4

/-- An atomic has one operand, or two for a compare (Table 3-3). -/
def operandsOk (hdr : BitVec 128) (l : List Word) : Bool := l.length == (if (hdr.toNat >>> 102) % 8 = 2 then 2 else 1)

/-- A landing port (R165); a loopback packet is named by its place. -/
def srcOk : LandSrc → Bool
  | .port n => decide (n < 8)
  | .loop _ => true

/-- A link that exists on the widest part (R62). -/
def linkOk : LinkId → Bool
  | .hostPort p => portOk p
  | .quay q => quayOk q

/-- A host die (R40) and an attention line (R118). -/
def dieOk (d : Nat) : Bool := decide (d < 4)
def lineOk (l : Nat) : Bool := decide (l < 32)

/-- One of the two fabric classes' timers names a source (R172). -/
def idleUnitOk : IdleUnit → Bool
  | .engine e => engineOk e
  | .berth b => bankOk b

/-- What a debug access names. -/
def debugOk : DebugOp → Bool
  | .regRead off => regOffOk off
  | .regWrite off _ => regOffOk off
  | .keyHash off => decide (off < 0x60) && off % 8 == 0
  | .blowKeyRevoked k => decide (k < 2)
  | .wrapper _ => true
  | .sramRead _ => true
  | .sramWrite _ _ => true
  | .halt => true
  | .resume => true
  | .blowDbgKill => true
  | .blowSvnMin _ => true

/-- A well-formed command. -/
def Instr.wf : Instr → Bool
  | .rd p _ | .rda p _ | .fnl p _ | .plt p _ _ _ => portOk p
  | .wr p h d | .wrr p h d | .finalWrite p h d => portOk p && payloadOk h d
  | .atm p h l => portOk p && operandsOk h l
  | .flitWithoutCredit p | .responseCredit p _ | .portReset p | .heldRead p _ => portOk p
  | .linkReplay l _ => linkOk l
  | .commandStart w | .heldReplyPost w => windowOk w
  | .gateExpiry g => gateOk g
  | .engineGateArrival e g => engineOk e && gateOk g
  | .attnLineEdge d l => dieOk d && lineOk l
  | .hostWakeLine d => dieOk d
  | .landingWrite src _ _ | .tokenPacket src _ _ | .contribPacket src _ _ | .ackPacket src _ _ | .gateArrivalMsg src _ _
  | .gateReleaseMsg src _ _ | .gateAbortMsg src _ _ | .pilotPacket src _ _ | .normPacket src _ _ | .refusePacket src _ _ =>
    srcOk src
  | .manifestFinalise m _ | .manifestExpiry m => manifestOk m
  | .anchorageHoldRelease p | .fabricWake p => srcOk (.port p)
  | .normExchangeStart n | .consignmentSweep n _ _ _ | .duplicateCheck n _ _ _ | .commit n | .digestExchangeTimeout n
  | .recallHoldTimeout n => setOk n
  | .modeWordWrite p _ b _ | .goWrite p _ b _ => portOk p && bankOk b
  | .modeChange b | .matvec b _ _ | .dot b _ _ | .scale b _ _ | .add b _ _ | .mul b _ _ | .act b _ _ | .reduce b _ _
  | .normStat b _ _ | .normApply b _ _ | .smaxStat b _ _ | .smaxApply b _ _ | .attn b _ _ | .berthDuplicate b _ _
  | .busyBankAccess b _ => bankOk b
  | .permitGrant q | .permitPoolFallback q _ | .scrubRowVisit q | .quayReset q => quayOk q
  | .quayWake q => quayOk q.quay
  | .engineReset e => engineOk e
  | .idleEntry u => idleUnitOk u
  | .bootGo p _ _ | .lock p _ _ | .hbRoadsteadWrite p _ _ | .hbArenaWrite p _ _ | .hbSigCfgWrite p _ _ | .hbTdTurnWrite p _ _
  | .hbKwSeed0Write p _ _ | .hbKwSeed1Write p _ _ | .inKwCseed0Write p _ _ | .inKwCseed1Write p _ _ | .ldAnchWrite p _ _
  | .dsPoolWrite p _ _ _ | .inRecallCtlWrite p _ _ | .inRetireCfgWrite p _ _ | .pwCapWrite p _ _ => portOk p
  | .hbProtRgnWrite p _ r _ => portOk p && decide (r < 32)
  | .hbCmdwWrite p _ w _ | .hbCmdrWrite p _ w _ | .hbCmdcWrite p _ w _ => portOk p && windowOk w
  | .hbEtaValWrite p _ n _ | .hbEtaStepWrite p _ n _ | .hbPsetLsWrite p _ n _ | .hbPsetReplWrite p _ n _ =>
    portOk p && setOk n
  | .btPermitCfgWrite p _ q _ => portOk p && quayOk q
  | .registerWrite p _ off _ => portOk p && regOffOk off
  | .regRead off | .regWrite off _ => regOffOk off
  | .debugAccess op => debugOk op
  | .psetCreate _ | .psetDestroy _ | .psetConst _ | .tdCreate _ | .tdDestroy _ | .psetQuery _ | .manOpen _ | .manCancel _
  | .manQuery _ | .watchSet _ | .watchClear _ | .routeLoad _ | .tokenSend _ | .tokenReturn _ | .gradDispatch _ | .bufRelease _
  | .bufReleaseTimeout _ | .sweep _ | .sweepResume _ | .sweepLandTimeout _ | .sweepNormTimeout _ | .lossScale _ | .exportSub _
  | .exportUnsub _ | .exportPush _ | .berthBatch _ | .berthCancel _ | .gateOpen _ | .gateArrive _ | .gateAbort _ | .beaconWait _
  | .beaconWaitTimeout _ | .taskClose _ | .checkFraction _ | .fieldTest _ _ | .patternLoad _ | .rowRepair _ | .scrubRange _
  | .checkpoint _ | .restore _ | .replay _ _ | .digest _ | .snapArm _ | .shardCopy _ | .quayState _ | .harbourMoor _
  | .configSave _ | .logbookRead _ | .berthMerge _ => true
  | .parkTtlExpiry _ | .ackTimeout _ _ => true
  | .craneSwitch | .permitPoolSizing _ | .harbourThrottle _ _ _ | .temperatureTrip _ | .watchWrap | .refLoss | .refReturn
  | .mooring | .wakeAfterExpiry | .harbourWake | .powerOn _ | .coldRstN _ | .warmRstN _ | .snapIn | .warmReset _
  | .warmResetKeep _ | .lockstepMismatch | .alertCause | .wake | .warm _ _ | .cold _ | .bypass | .idcode | .samplePreload
  | .extest | .supplyRemoval | .watchTrimConverged _ => true

end Sys2Proof
end

