-- ==== Sys2Proof/Tests/Slice0.lean ====
section
/-!
SUPPORT. Tests of the model: the spec's worked examples and the encodings it spells out, what single commands do on small
states, the checks of WellFormed, and for every statement a state and operands that meet its hypotheses.
-/
namespace Sys2Proof.Tests

set_option Elab.async false
set_option linter.unusedVariables false

open Sys2Proof Sys2Proof.Machine

/-- The next state of an outcome, if that is what it is. -/
def nextOf : Host.Outcome State Fault Refusal → Option State
  | .next t => some t
  | _ => none

theorem of_nextOf {o : Host.Outcome State Fault Refusal} {t : State} (h : nextOf o = some t) : o = .next t := by
  cases o <;> simp_all [nextOf]

/-! ### Small states -/

/-- An Active harbour whose harbourmaster and landing ports run. -/
def on : State :=
  let s := setFld State.reset rHbHmStat 0 0 1
  { s with land := { s.land with stopped := false } }

/-- A packet of 256 bytes with an opcode and the eight-byte units from unit 8 on. -/
def pkt (op : Nat) (us : List Nat) : CmdPkt :=
  { win := 0, port := 0, seq := 0, stamp := 0, unlocked := false, bad := false, bytes := leBytes 8 (op + 2 ^ 32) ++ leBytes 56 0 ++ us.flatMap (leBytes 8) }

/-- A started command. -/
def run (op : Nat) (us : List Nat) : Running :=
  { pkt := pkt op us, fast := fastOp op, phase := .started, refused := 0, sent := 0, recalled := false,
    seed := 0, cseed := 0, ftz := 0 }

/-- A state in which one command runs, with context 0. -/
def withRun (s : State) (r : Running) : State := { s with cmd := { s.cmd with running := [(0, r)], nextCx := 1 } }

/-- A state in which one started command waits for its row, with context 0. -/
def cmd (s : State) (op : Nat) (us : List Nat) : State := withRun s (run op us)

/-- The constants of a plain rule. -/
def mom : Consts :=
  { rule := 2, nesterov := false, noBias := false, mstoch := false, beta1 := 0x3F666666, beta2 := 0, eps := 0, lambda := 0,
    maxnorm := 0x3F800000, delta := 0, pivot := 0 }

/-- A parameter set of one tensor of one consignment, and one group. -/
def pset (k : Consts) : Pset :=
  Pset.created k fE4M3 0 false
    [{ elements := 4096, tensorId := 0, noDecay := false, tiled := false, cols := 0, group := 0 }] 1 0x40000000 1048576

/-- A set whose step size is there for its next step. -/
def setReady : Pset := { pset mom with pr := { PsetRegs.created with etaStep := 1 } }

/-- An Active harbour with set 0. -/
def onSet : State := putSet on 0 setReady


/-- Set 0 is a dispatch set. -/
def onDispatch : State := putSet on 0 (pset { mom with rule := 0 })

/-- A reply that waits for its ring. -/
def heldReply (op : Nat) : Reply :=
  { token := 7, seq := 0, win := 0, status := 0, opcode := op, field := 0, result := 5, tick := 0, post := true,
    release := none, task := 0 }

/-- Window 0 holds one reply, and its ring of two entries has room. -/
def heldOne (op : Nat) : State :=
  setWin on 0 { Window.zero with enable := true, base := 0xE0001000000, size := 1, held := [heldReply op] }

/-- What posting the only held reply of window 0 leaves. -/
def postOne (s : State) (q : Reply) : State :=
  let y := releaseOpt (writeReply (setWin s 0 { winOf s 0 with held := [] }) q) q.task q.release
  settleTodo y.1 y.2

/-- Generation 1 of data manifest 3. -/
def manOne : Manifest := { manOfPkt on (pkt 0x0201 [0x10003, 5, 0xE0000400000, 64]) with landed := 2 }

/-- An Active harbour with manifest 3 open. -/
def manOn : State := setMan on 3 manOne

/-- The watch stands at a tick. -/
def later (s : State) (t : Nat) : State := setFld s rHbWatch 47 0 t

/-- Routing table 1 has one entry. -/
def routed : State := { on with disp := { on.disp with routes := [(1, [5])] } }

/-- Generation 1 of token manifest 4, closed with one slot. -/
def tokMan : Manifest :=
  { manOfPkt on (pkt 0x0201 [0x10004, 5, 0xE0001000000, 32, 0, 0, 0x100000001, 0xE0001000000]) with
    kind := 2, state := .closed }

/-- An Active harbour with token manifest 4 closed. -/
def tokClosed : State := setMan on 4 tokMan

/-- The release ring has two entries, and both are waited for. -/
def ringFullOn : State :=
  let s := setFld tokClosed rDsPoolCfg 4 0 1
  { s with disp := { s.disp with prod := 2 } }

/-- Set 0 at a decision, and with its norms sent. -/
def decided : Pset := { setReady with sw := { setReady.sw with phase := .decided } }
def normSent : Pset := { setReady with sw := { setReady.sw with phase := .normSent } }
def onDecided : State := putSet on 0 decided

/-- Gate 5 is open in round 0, with host port 0 and another as members, until tick 100. -/
def gateOn : State := setGate on 5 { Gate.zero with members := [1, 5], state := 1, deadline := 100 }

/-- TASK_CLOSE of task 9, without a list and with one in DRAM. -/
def taskClose (unit8 : Nat) : Running :=
  { run 0x0705 [0] with
    pkt := { pkt 0x0705 [0] with bytes := leBytes 8 (0x705 + 2 ^ 32 + 9 * 2 ^ 48) ++ leBytes 56 0 ++ leBytes 8 unit8 } }
def taskRun : Running := taskClose 0
def taskListRun : Running := taskClose (2 ^ 63)

/-- Task 9 has tagged gate 5, which is open, and beacon 2, which is as it was. -/
def taskTagged : State :=
  { gateOn with sync := { gateOn.sync with tags := [⟨true, 5, 9, 0⟩, ⟨false, 2, 9, 0⟩] } }

/-- An operation image: REDUCE (sum) of 16 H16 elements at 0x1000 of a bank, to 0x2000. -/
def reduceImage : List Byte :=
  [7 + 16 * 2 ^ 32, 0, 0x2000 + 0x2020 * 2 ^ 32, 0, 0, 0, 0, 0x2000, 0x1000, 1, 0, 0, 0, 0, 0, 0].flatMap (leBytes 8)

/-- Bank 5 is in COMPUTE mode, and the pool holds an operation image and a list that names bank 5. -/
def batchMem : State :=
  let s := setBank (setRegW on rHbArena 512) 5 { Bank.zero with compute := true }
  writeBytes (writeBytes s 0xE0001000000 reduceImage) 0xE0001000400 (leBytes 8 5)

/-- BERTH_BATCH of that image and list, with a merge to 0xE0001000800. -/
def batchRun : Running :=
  run 0x0601 [1 + 2 ^ 32 + 2 ^ 41, 0xE0001000000, 0xE0001000400, 0xE0001000800]
def batchStarted : Running := { batchRun with phase := .batch }
def batchOn : State := withRun batchMem batchRun

/-- BERTH_CANCEL while the batch runs on bank 5, as context 1. -/
def batchRuns : State :=
  startBatch { batchMem with cmd := { batchMem.cmd with running := [(0, run 0x0602 [0]), (1, batchRun)], nextCx := 2 } }
    1 batchRun reduceImage [5]

/-- The batch has ended on bank 5. -/
def batchEnded : State :=
  { batchMem with
    cmd := { batchMem.cmd with running := [(1, batchStarted)], nextCx := 2 },
    berth := { batchMem.berth with
      batches := [(1, [{ bank := 5, logidx := 0, code := some stDONE, written := 1 }])], images := [(1, reduceImage)] } }

/-- The same, with poison in its partial. -/
def badPartial : State := storeRaw batchEnded (bankAddr .z16 5 0x2000) (poisonOf 0)

/-- Two harbours are configured, and this one is harbour 0. -/
def twoHarbours : State := setFld onSet rHbRoadstead 49 32 2

/-- Set 0 after a commit: its other slip is that of the epoch before. -/
def committed : Pset :=
  { setReady with
    ep := { setReady.ep with epoch := 1, step := 1, active := true, tround := 1 },
    sw := { setReady.sw with wholeCycle := true } }

/-- HARBOUR_MOOR that asks for a reply. -/
def moorRun : Running :=
  { run 0x0A02 [1] with pkt := { pkt 0x0A02 [1] with bytes := leBytes 8 (0xA02 + 2 ^ 32 + 2 ^ 40) ++ leBytes 56 0 ++ leBytes 8 1 } }

/-- A set without tensors, and its checkpoint: a header and a group record. -/
def emptySet : Pset := { setReady with tensors := [] }
def restoreWords : List Codeword := (recordsOf emptySet 0 true 0 0 0).1
def restoreLen : Nat := 32 * restoreWords.length
def restoreRun : Running := run 0x0902 [0, 0xE0001000000, restoreLen]
def restoreOn : State := withRun (writeWords (putSet on 0 emptySet) 0xE0001000000 restoreWords) restoreRun
def restoreAcc : RecAcc :=
  match readRecords emptySet true (restoreLen / 32 + 1) (readTable restoreOn 0xE0001000000 restoreLen).2 RecAcc.none0 with
  | .done a => a
  | .fault _ => RecAcc.none0

/-- What a packet of bulk class leaves. -/
def landed (s : State) (h : PktHdr) : State :=
  match landBulk (landTicks s) { hdr := h, payload := [codewordOf 5] } with
  | .done t => t
  | .stall _ => s

/-- A berth operation that runs in bank 0 declares bank offsets 0x2000 to 0x2020 as its write region. -/
def onDeclared : State :=
  setBank on 0 { Bank.zero with compute := true, run := some { BOp.fresh reduceImage 0 0 none none 0 with phase := .granted } }

/-- Manifest 3 and set 0 are open, and the anchorage has no room. -/
def onFull : State := setFld (setMan onSet 3 manOne) rLdAnch 6 0 0

/-- The hold of landing port 1 is full. -/
def fullHold : State :=
  { on with land := { on.land with holds := List.replicate 32 (1, { hdr := newHdr on tyWRITE 0, payload := [] }) } }

/-- Packets leave in version 3. -/
def onV3 : State := setFld on rLdCfg 0 0 1

/-- The total of round 1 of set 0, all zero. -/
def normWords : List Codeword := (List.replicate 64 0 ++ [BitVec.ofNat 256 (2 ^ 80)]).map codewordOf

/-- The same with a grain that cannot be read. -/
def badWords : List Codeword := poisonOf 0 :: normWords.tail

/-- A parked packet whose time has run. -/
def parkedEntry : AnchEntry :=
  { id := 3, kind := .parked, man := 3, gen := 9, tick := 0, addr := 0, grains := 1,
    pkt := some { hdr := newHdr on tyWRITE 0, payload := [] } }
def parkedOn : State :=
  let s := later (setFld on rLdCfg 55 32 5) 2000
  { s with land := { s.land with entries := [parkedEntry] } }

/-- Source 7 waits for acknowledgements, and their time has run. -/
def ackedOn : State :=
  setSource (later (setFld on rLdCfg 31 8 5) 2000) (srcKey 7) { Source.zero with plain := 2, final := 1 }

/-- Set 0 while the cranes walk it. -/
def walking : Pset := { setReady with sw := { setReady.sw with phase := .walking } }
def walkOn (x : Pset) : State := let s := putSet on 0 x; { s with walk := { s.walk with set := some 0 } }

/-- Its consignment in each case that a walk can find it in. -/
def sweptCon : Consign := { Consign.zero with visited := true, progress := true, cleared := true }
def sweptSet : Pset := walking.setCon 0 sweptCon
def progressSet : Pset := walking.setCon 0 { Consign.zero with progress := true, sealWord := 1 }
def poisonSet : Pset := walking.setCon 0 { Consign.zero with bad0 := [3] }
def residueSet : Pset := walking.setCon 0 { Consign.zero with residue := true }
def dupSet : Pset := walking.setCon 0 { Consign.zero with visited := true, progress := true, selected := true }

/-- A set whose round has ended and that exchanges its norm with harbour 1. -/
def doneSet : Pset := setReady.setCon 0 { Consign.zero with finalised := true }
def rootSet : Pset := { doneSet with pr := { doneSet.pr with localOnly := false, root := 1, count := 2 } }

/-- That operation with a permit, and bank 5 while it runs. -/
def reduceOp : BOp := { BOp.fresh reduceImage 0 0 none none 0 with phase := .granted }
def reducing : State := setBank on 5 { Bank.zero with compute := true, run := some reduceOp }

/-- That operation has computed its results and waits for its duplicate, in a quay with one permit. -/
def duplicating (dup : Option (List Flip)) (holders : List Nat) : State :=
  setPermits (setBank on 5 { Bank.zero with compute := true, run := some { reduceOp with phase := .computed, dup := dup } }) 0
    { Permits.zero with pool := 1, holders := holders }

/-- The partner of bank 5 is retired. -/
def retirePartner (s : State) : State := { s with integ := { s.integ with retired := [.berth 4] } }

/-- A moored harbour. -/
def mooredOn : State := { on with pow := { on.pow with harbour := .moored true } }

/-! ### Host requests -/

/-- An Active harbour whose port 0 is up. -/
def onPort : State := setFld on (rHbPortStat 0) 0 0 1

/-- A request header of revision 2: opcode, local memory address, length in eight-byte units, tag 3, and other bits. -/
def req (opc a len : Nat) (more : Nat := 0) : BitVec 128 :=
  BitVec.ofNat 128 (a + opc * 2 ^ 64 + 2 ^ 67 + 3 * 2 ^ 68 + len * 2 ^ 92 + more)

theorem witness_IdleStepIsOneTick : ∃ s : State, s.pending = [] ∧ s.pow.harbour ≠ .off := ⟨on, by decide +kernel⟩

theorem witness_StepKeepsForm : ∃ s t : State, s.memOk ∧ step s = .next t := ⟨on, watchTick on, by decide +kernel, rfl⟩

theorem witness_ReadsComplete_1 : ∃ (s : State) (p : Nat) (hdr : BitVec 128) (k : ReqKind) (g : Region), Accepts s p hdr ∧
    kindOf (ReqHdr.ofBits hdr).opc = some k ∧ Goes (taken s p hdr) (requestOf p k hdr []) ∧
    regionOf s.part (requestOf p k hdr []).a = some g ∧ k = .rd :=
  ⟨onPort, 0, req 1 0xE0001000000 4, .rd, .hsram, by decide +kernel⟩

theorem witness_ReadsComplete_2 : ∃ (s : State) (p : Nat) (hdr : BitVec 128) (k : ReqKind) (g : Region), Accepts s p hdr ∧
    kindOf (ReqHdr.ofBits hdr).opc = some k ∧ Goes (taken s p hdr) (requestOf p k hdr []) ∧
    regionOf s.part (requestOf p k hdr []).a = some g ∧ k = .rda :=
  ⟨onPort, 0, req 4 0 8, .rda, .dram, by decide +kernel⟩

theorem witness_WritesComplete_1 : ∃ (s : State) (p : Nat) (hdr : BitVec 128) (data : List Codeword) (k : ReqKind) (g : Region),
    Accepts s p hdr ∧ kindOf (ReqHdr.ofBits hdr).opc = some k ∧ (ReqHdr.ofBits hdr).final = false ∧
    Goes (taken s p hdr) (requestOf p k hdr data) ∧ k = .wr ∧ sentAway (taken s p hdr) (requestOf p k hdr data) = false ∧
    regionOf s.part (requestOf p k hdr data).a = some g :=
  ⟨onPort, 0, req 2 0xE0001000000 4, [codewordOf 5], .wr, .hsram, by decide +kernel⟩

theorem witness_WritesComplete_2 : ∃ (s : State) (p : Nat) (hdr : BitVec 128) (data : List Codeword) (k : ReqKind) (g : Region),
    Accepts s p hdr ∧ kindOf (ReqHdr.ofBits hdr).opc = some k ∧ (ReqHdr.ofBits hdr).final = false ∧
    Goes (taken s p hdr) (requestOf p k hdr data) ∧ k = .wrr ∧ sentAway (taken s p hdr) (requestOf p k hdr data) = false ∧
    regionOf s.part (requestOf p k hdr data).a = some g :=
  ⟨onPort, 0, req 3 0 4, [codewordOf 5], .wrr, .dram, by decide +kernel⟩

/-- The same with two harbours configured; addresses from 2^46 on are of harbour 1. -/
def twoPorts : State := setFld onPort rHbRoadstead 49 32 2

theorem witness_WritesComplete_3 : ∃ (s : State) (p : Nat) (hdr : BitVec 128) (data : List Codeword) (k : ReqKind),
    Accepts s p hdr ∧ kindOf (ReqHdr.ofBits hdr).opc = some k ∧ (ReqHdr.ofBits hdr).final = false ∧
    Goes (taken s p hdr) (requestOf p k hdr data) ∧ k = .wr ∧ sentAway (taken s p hdr) (requestOf p k hdr data) = true :=
  ⟨twoPorts, 0, req 2 (2 ^ 46) 4, [codewordOf 5], .wr, by decide +kernel⟩

theorem witness_WritesComplete_4 : ∃ (s : State) (p : Nat) (hdr : BitVec 128) (data : List Codeword) (k : ReqKind),
    Accepts s p hdr ∧ kindOf (ReqHdr.ofBits hdr).opc = some k ∧ (ReqHdr.ofBits hdr).final = false ∧
    Goes (taken s p hdr) (requestOf p k hdr data) ∧ k = .wrr ∧ sentAway (taken s p hdr) (requestOf p k hdr data) = true :=
  ⟨twoPorts, 0, req 3 (2 ^ 46) 4, [codewordOf 5], .wrr, by decide +kernel⟩

theorem witness_FinalWritesComplete_1 : ∃ (s : State) (p : Nat) (hdr : BitVec 128) (data : List Codeword) (k : ReqKind),
    Accepts s p hdr ∧ kindOf (ReqHdr.ofBits hdr).opc = some k ∧ (k = .wr ∨ k = .wrr) ∧ (ReqHdr.ofBits hdr).final = true ∧
    Goes (taken s p hdr) (requestOf p k hdr data) ∧ sentAway (taken s p hdr) (requestOf p k hdr data) = true :=
  ⟨twoPorts, 0, req 2 (2 ^ 46) 4 (2 ^ 105), [codewordOf 5], .wr, by decide +kernel⟩

/-- What the landing engine leaves of a local FINAL write to no open manifest. -/
def finalTaken : State := (takeFinal (taken onPort 0 (req 2 0 4 (2 ^ 105))) (heldReq (requestOf 0 .wr (req 2 0 4 (2 ^ 105)) [codewordOf 5]))).getD on

theorem witness_FinalWritesComplete_2 : ∃ (s : State) (p : Nat) (hdr : BitVec 128) (data : List Codeword) (k : ReqKind) (t : State),
    Accepts s p hdr ∧ kindOf (ReqHdr.ofBits hdr).opc = some k ∧ (k = .wr ∨ k = .wrr) ∧ (ReqHdr.ofBits hdr).final = true ∧
    Goes (taken s p hdr) (requestOf p k hdr data) ∧ sentAway (taken s p hdr) (requestOf p k hdr data) = false ∧
    takeFinal (taken s p hdr) (heldReq (requestOf p k hdr data)) = some t :=
  ⟨onPort, 0, req 2 0 4 (2 ^ 105), [codewordOf 5], .wr, finalTaken, by decide +kernel⟩

theorem witness_AtomicsAndFnlComplete_1 : ∃ (s : State) (p : Nat) (hdr : BitVec 128) (ops : List Word) (g : Region) (r : Request),
    Accepts s p hdr ∧ kindOf (ReqHdr.ofBits hdr).opc = some .atm ∧
    r = requestOf p .atm hdr [codewordOf (bytesGrain (ops.flatMap fun w => leBytes 8 w.toNat))] ∧
    Goes (taken s p hdr) r ∧ regionOf s.part r.a = some g :=
  ⟨onPort, 0, req 5 0xE0000400000 1, [1], .hsram,
    requestOf 0 .atm (req 5 0xE0000400000 1) [codewordOf (bytesGrain (leBytes 8 1))], by decide +kernel⟩

theorem witness_AtomicsAndFnlComplete_2 : ∃ (s : State) (p : Nat) (hdr : BitVec 128), Accepts s p hdr ∧
    kindOf (ReqHdr.ofBits hdr).opc = some .fnl ∧ Goes (taken s p hdr) (requestOf p .fnl hdr []) :=
  ⟨onPort, 0, req 6 0 0, by decide +kernel⟩

theorem witness_ReadsComplete_3 : ∃ (s : State) (p : Nat) (hdr : BitVec 128), portUp s p = true ∧ s.pow.harbour = .active ∧
    (ReqHdr.ofBits hdr).opc = 0 ∧ 1 ≤ creditsFree s p (channelOf s none (ReqHdr.ofBits hdr).addr) ∧ (p, (ReqHdr.ofBits hdr).tag) ∉ s.host.tags :=
  ⟨onPort, 0, req 0 0xE0001000000 4, by decide +kernel⟩

theorem witness_PilotRequestsComplete : ∃ (s : State) (p : Nat) (hdr msg : BitVec 128), portUp s p = true ∧
    1 ≤ creditsFree s p .pilot ∧ (p, (ReqHdr.ofBits hdr).tag) ∉ s.host.tags ∧ kindOf (ReqHdr.ofBits hdr).opc = some .plt ∧
    (ReqHdr.ofBits hdr).len = 2 ∧ (bits msg.toNat 7 0 = 1 ∨ bits msg.toNat 7 0 = 3) :=
  ⟨onPort, 0, req 7 0 2, 1, by decide +kernel⟩

/-- A read that waits with tag 3. -/
def heldRd : HeldReq := { heldReq (requestOf 0 .rd (req 1 0 4) []) with why := .quay }

theorem witness_HeldReadCompletes_1 : ∃ (s : State) (p tag : Nat) (h : HeldReq), findReq s p tag = some h ∧ h.req.isRd = true ∧
    verdict s h false = .go ∧ (attempt s fun t => takeEffect t h).2 = true :=
  ⟨{ onPort with host := { onPort.host with reqs := [heldRd] } }, 0, 3, heldRd, by decide +kernel⟩

/-- A read over the boundary of the SRAM of quays 0 and 1. -/
def crossRd : HeldReq := { heldReq (requestOf 0 .rd (req 1 (qsramBase + 0x3000000 - 32) 8) []) with why := .quay }

theorem witness_HeldReadCompletes_2 : ∃ (s : State) (p tag : Nat) (h : HeldReq), findReq s p tag = some h ∧ h.req.isRd = true ∧
    verdict s h false = .go ∧ (attempt s fun t => takeEffect t h).2 = false :=
  ⟨{ onPort with host := { onPort.host with reqs := [crossRd] }, pow := { onPort.pow with doze := [1] } }, 0, 3, crossRd,
    by decide +kernel⟩

theorem witness_LinkEventsComplete_1 : ∃ (s : State) (p : Nat) (hdr : BitVec 128), portUp s p = true ∧
    (ReqHdr.ofBits hdr).opc = 1 ∧ creditsFree s p (channelOf s (some .rd) (ReqHdr.ofBits hdr).addr) = 0 :=
  ⟨{ onPort with host := { onPort.host with reqs := List.replicate 256 heldRd } }, 0, req 1 0 4, by decide +kernel⟩

theorem witness_LinkEventsComplete_2 : ∃ (s : State) (p : Nat), portUp s p = true ∧ s.host.orders ≠ [] :=
  ⟨{ onPort with host := { onPort.host with orders := [⟨0, 5, 1, 0⟩] } }, 0, by decide +kernel⟩

theorem witness_LinkEventsComplete_3 : ∃ (s : State) (q : Nat), q < quays s.part ∧ s.pow.harbour = .active :=
  ⟨on, 15, by decide +kernel⟩

/-- The register write that a row makes. -/
def regReq (w : BitVec 128) (v : Word) : Request := requestOf 0 .wr w [codewordOf (bytesGrain (leBytes 8 v.toNat))]

theorem witness_RegisterRowsComplete : ∃ (s : State) (i : Instr) (p : Nat) (hdr : BitVec 128) (off : Nat) (v : Word)
    (w : BitVec 128) (r : Request), registerRow i = some (p, hdr, off, v) ∧ off % 8 = 0 ∧ off < 0x1000000 ∧
    w = writeHdr hdr (regBase + off) 1 ∧
    r = requestOf p (if (ReqHdr.ofBits w).opc = 3 then .wrr else .wr) w [codewordOf (bytesGrain (leBytes 8 v.toNat))] ∧
    Accepts s p w ∧ Goes (taken s p w) r :=
  ⟨onPort, .lock 0 (req 2 0 1) 1, 0, req 2 0 1, rHbProtLock, 1, writeHdr (req 2 0 1) (regBase + rHbProtLock) 1,
    regReq (writeHdr (req 2 0 1) (regBase + rHbProtLock) 1) 1, by decide +kernel⟩

theorem witness_RegisterRowsFrame_1 : ∃ (s t : State) (i : Instr) (p : Nat) (hdr : BitVec 128) (off : Nat) (v : Word),
    registerRow i = some (p, hdr, off, v) ∧ off % 8 = 0 ∧ off < 0x1000000 ∧
    off ∉ [rHbBoot, rHbTdTurn, rInRecallCtl, rPwReset] ∧ s.atRest ∧ s.host.reqs = [] ∧ exec i s = .next t ∧ locked t = true :=
  ⟨onPort, hostRegWrite onPort 0 (req 2 0 1) rHbProtLock 1, .lock 0 (req 2 0 1) 1, 0, req 2 0 1, rHbProtLock, 1,
    by decide +kernel, by decide +kernel, by decide +kernel, by decide +kernel, by decide +kernel, by decide +kernel,
    of_nextOf (by decide +kernel), by decide +kernel⟩

theorem witness_RegisterRowsFrame_2 : ∃ (s t : State) (i : Instr) (p : Nat) (hdr : BitVec 128) (off : Nat) (v : Word),
    registerRow i = some (p, hdr, off, v) ∧ off % 8 = 0 ∧ off < 0x1000000 ∧
    off ∉ [rHbBoot, rHbTdTurn, rInRecallCtl] ∧ s.host.reqs ≠ [] ∧ exec i s = .next t :=
  ⟨{ onPort with host := { onPort.host with reqs := [heldRd] } },
    hostRegWrite { onPort with host := { onPort.host with reqs := [heldRd] } } 0 (req 2 0 1) rHbProtLock 1, .lock 0 (req 2 0 1) 1, 0,
    req 2 0 1, rHbProtLock, 1, by decide +kernel, by decide +kernel, by decide +kernel, by decide +kernel, by decide +kernel,
    of_nextOf (by decide +kernel)⟩

/-- Descriptor 7 has a turn record, in the software pools. -/
def turning : State :=
  { onPort with tds := [(7, { tdOfPacket (pkt 0x0104 [64, 0, 0, 0, 0, 0x4000000]) with statusEn := true, status := 0xE0001000000 })] }

theorem witness_RegisterRowsFrame_3 : ∃ (s t : State) (p : Nat) (hdr : BitVec 128) (d : TDesc), s.memOk ∧
    tget? s.tds 7 = some d ∧ d.statusEn = true ∧ exec (.hbTdTurnWrite p hdr 7) s = .next t ∧ tget? t.tds 7 = some d.turned :=
  ⟨turning, hostRegWrite turning 0 (req 2 0 1) rHbTdTurn 7, 0, req 2 0 1,
    { tdOfPacket (pkt 0x0104 [64, 0, 0, 0, 0, 0x4000000]) with statusEn := true, status := 0xE0001000000 },
    by decide +kernel, by decide +kernel, by decide +kernel, of_nextOf (by decide +kernel), by decide +kernel⟩

/-- A write that ends the hold of set 0. -/
def holding : State := putSet onPort 0 { setReady with held := true }

theorem witness_RegisterRowsFrame_4 : ∃ (s t : State) (p : Nat) (hdr : BitVec 128) (x : Pset),
    (setOf? s 0).any (·.held) = true ∧ exec (.inRecallCtlWrite p hdr 0) s = .next t ∧ setOf? t 0 = some x ∧ x.held = false :=
  ⟨holding, hostRegWrite holding 0 (req 2 0 1) rInRecallCtl 0, 0, req 2 0 1, { setReady with held := false },
    by decide +kernel, of_nextOf (by decide +kernel), by decide +kernel, by decide +kernel⟩

/-- The part waits for its image, with a firmware command taken in one state and none in the other. -/
def waitsImage : State := setFld (setFld onPort rHbBootStat 2 0 1) rHbHmStat 0 0 0

theorem witness_RegisterRowsFrame_5 : ∃ (s t : State) (p : Nat) (hdr : BitVec 128), s.memOk ∧ takenFirmware s = [] ∧
    exec (.bootGo p hdr (2 ^ 63)) s = .next t ∧ fld t rHbBootStat 2 0 = 4 :=
  ⟨waitsImage, hostRegWrite waitsImage 0 (req 2 0 1) rHbBoot (2 ^ 63), 0, req 2 0 1,
    by decide +kernel, by decide +kernel, of_nextOf (by decide +kernel), by decide +kernel⟩

theorem witness_RegisterRowsFrame_6 : ∃ (s t : State) (p : Nat) (hdr : BitVec 128), takenFirmware s ≠ [] ∧
    exec (.bootGo p hdr (2 ^ 63)) s = .next t ∧ t.cmd.running = [] :=
  ⟨cmd waitsImage 0x0102 [0], hostRegWrite (cmd waitsImage 0x0102 [0]) 0 (req 2 0 1) rHbBoot (2 ^ 63), 0, req 2 0 1,
    by decide +kernel, of_nextOf (by decide +kernel), by decide +kernel⟩

/-- The mode word write of bank 5. -/
def modeHdr : BitVec 128 := writeHdr (req 2 0 1) (modeBase + 8 * 5) 1

theorem witness_BerthWriteRowsComplete_1 : ∃ (s : State) (p : Nat) (hdr : BitVec 128) (b : Nat) (v : Word) (w : BitVec 128)
    (r : Request), b < 16384 ∧ w = writeHdr hdr (modeBase + 8 * b) 1 ∧
    r = requestOf p (if (ReqHdr.ofBits w).opc = 3 then .wrr else .wr) w [codewordOf (bytesGrain (leBytes 8 v.toNat))] ∧
    Accepts s p w ∧ Goes (taken s p w) r :=
  ⟨onPort, 0, req 2 0 1, 5, 0, modeHdr, regReq modeHdr 0, by decide +kernel⟩

theorem witness_BerthWriteRowsComplete_2 : ∃ (s : State) (p : Nat) (hdr : BitVec 128) (b : Nat) (v : Word) (w : BitVec 128)
    (r : Request), b < 16384 ∧ w = writeHdr hdr (modeBase + 8 * b) 1 ∧
    r = requestOf p (if (ReqHdr.ofBits w).opc = 3 then .wrr else .wr) w [codewordOf (bytesGrain (leBytes 8 v.toNat))] ∧
    Accepts s p w ∧ verdict (waiting (taken s p w) r) (heldReq r) false = .start :=
  ⟨onPort, 0, req 2 0 1, 5, 1, modeHdr, regReq modeHdr 1, by decide +kernel⟩

/-- The GO grain write of bank 5. -/
def goHdr : BitVec 128 := writeHdr (req 2 0 4) (berthBase + 5 * 0x400000 + 0x200) 4

theorem witness_BerthWriteRowsComplete_3 : ∃ (s : State) (p : Nat) (hdr : BitVec 128) (b : Nat) (go : Codeword) (w : BitVec 128)
    (r : Request), b < 16384 ∧ w = writeHdr hdr (berthBase + b * 0x400000 + 0x200) 4 ∧
    r = requestOf p (if (ReqHdr.ofBits w).opc = 3 then .wrr else .wr) w [go] ∧
    Accepts s p w ∧ Goes (taken s p w) r ∧ b < quays s.part * 1024 :=
  ⟨setBank onPort 5 { Bank.zero with compute := true }, 0, req 2 0 4, 5, codewordOf 0, goHdr,
    requestOf 0 .wr goHdr [codewordOf 0], by decide +kernel⟩

/-- A port 0 whose tag 3 is outstanding. -/
def tagged : State := { onPort with host := { onPort.host with tags := [(0, 3)] } }

theorem witness_TagReuseIsDenied : ∃ (s : State) (p : Nat), portUp s p = true ∧ ∀ opc < 8,
    (p, (ReqHdr.ofBits (req opc 0 4)).tag) ∈ s.host.tags ∧ (ReqHdr.ofBits (req opc 0 4)).opc = opc ∧
    reqCredits (kindOf opc) 4 ≤ creditsFree s p (channelOf s (kindOf opc) (ReqHdr.ofBits (req opc 0 4)).addr) ∧
    (ReqHdr.ofBits (req opc 0 4)).len = 4 ∧
    (ReqHdr.ofBits (req opc 0 4)).final = false ∧ (ReqHdr.ofBits (req opc 0 4 (2 ^ 105))).final = true :=
  ⟨tagged, 0, by decide +kernel⟩

/-! ### Descriptors of memory, packets, commands and frames -/

theorem witness_TwoViewsOneStore : (0x123456789A : Nat) < capacity .z16 ∧ 4431 < banksOf .z16 ∧ 0x48D09A < bankBytes := by decide

theorem witness_HeadersSurvive : ∃ h : PktHdr, headerFits h ∧ h.ver = 3 := ⟨newHdr onV3 tyACK 5, by unfold headerFits; decide +kernel⟩

theorem witness_OneSymbolErrorsAreCorrected : ∃ (i : Nat) (e : Byte), i < 36 ∧ e ≠ 0 := ⟨35, 255, by decide⟩

theorem witness_StoredGrainReadsBack : ∃ (s : State) (a b : Nat), s.memOk ∧ a % 32 = 0 ∧ b % 32 = 0 ∧ b ≠ a :=
  ⟨batchMem, 0xE0001000000, 0xE0001000020, by decide +kernel⟩

theorem witness_CompletionFrame : ∃ s : State, s.memOk ∧ s.cmd.running ≠ [] := ⟨batchOn, by decide +kernel⟩

/-- A window with a ring of 64 entries, on its second pass, and a command that wants its reply. -/
def ringOn : State :=
  setWin (withRun on { run 0x0206 [0] with pkt := { pkt 0x0206 [0] with bytes := leBytes 8 (0x206 + 2 ^ 32 + 2 ^ 40) ++ leBytes 56 0 } })
    0 { Window.zero with enable := true, base := 0xE0001000000, size := 6, prod := 65, cons := 65 }

theorem witness_ReplyRecordIsWritten : ∃ (s : State) (cx st : Nat) (run : Running), s.memOk ∧ cmdOf? s cx = some run ∧
    (run.pkt.wantsReply = true ∨ 16 ≤ st) ∧ run.pkt.release? = none ∧ (winOf s run.pkt.win).size ≠ 0 ∧
    (winOf s run.pkt.win).held = [] ∧ ringFull (winOf s run.pkt.win) = false ∧ (winOf s run.pkt.win).base % 32 = 0 ∧
    inPools (winOf s run.pkt.win).base (32 * 2 ^ (winOf s run.pkt.win).size) = true :=
  ⟨ringOn, 0, 0, (cmdOf? ringOn 0).getD (run 0 []), by decide +kernel⟩

/-- A watch that has sent three notices, and one more that waits. -/
def watched : State := { cmd on 0x0205 [0] with sync := { on.sync with watches := [(0, { base := 0, length := 512, subs := [], sent := 3 })] } }
def watchWaits : State :=
  { watched with host := { watched.host with egress := [{ port := 1, ch := .read, msg := .notice 0 0 0 0 false, frees := false }] } }

theorem witness_WatchClearAnswers_1 : ∃ (s : State) (cx : Nat) (r : Running), turnOf s cx 0x0205 = some r ∧
    Clear r.pkt [(8, 7, 0)] ∧ tget? s.sync.watches (r.pkt.at 64 1) = none :=
  ⟨cmd on 0x0205 [0], 0, run 0x0205 [0], by decide +kernel⟩

theorem witness_WatchClearAnswers_2 : ∃ (s : State) (cx : Nat) (r : Running) (x : Watch), turnOf s cx 0x0205 = some r ∧
    Clear r.pkt [(8, 7, 0)] ∧ tget? s.sync.watches (r.pkt.at 64 1) = some x ∧ noticeWaits s (r.pkt.at 64 1) = true :=
  ⟨watchWaits, 0, run 0x0205 [0], { base := 0, length := 512, subs := [], sent := 3 }, by decide +kernel⟩

theorem witness_WatchClearAnswers_3 : ∃ (s : State) (cx : Nat) (r : Running) (x : Watch), turnOf s cx 0x0205 = some r ∧
    Clear r.pkt [(8, 7, 0)] ∧ tget? s.sync.watches (r.pkt.at 64 1) = some x ∧ noticeWaits s (r.pkt.at 64 1) = false ∧
    exec (.watchClear cx) s = .next (complete { s with sync := { s.sync with watches := [] } } cx stDONE 3) :=
  ⟨watched, 0, run 0x0205 [0], { base := 0, length := 512, subs := [], sent := 3 },
    by decide +kernel, by decide +kernel, by decide +kernel, by decide +kernel, of_nextOf (by decide +kernel)⟩

/-- LOCK is set, and port 0 may read the 16 KiB from address 0 on. -/
def lockedOn : State := setRegW (setRegW (setRegW on rHbProtLock 1) (rHbProtRgn 3) (2 ^ 60)) (rHbProtPort 0) (2 ^ 12)

theorem witness_OpenMapRecords : ∃ (s : State) (v : Nat), locked s = false ∧ (bits v 60 60 = 0 ∨ bits v 29 0 ≤ bits v 59 30) :=
  ⟨on, 0x1E00000FF8000020, by decide +kernel⟩

theorem witness_LockHolds : ∃ s : State, locked s = true ∧ hasRight s 0 rightRead 0 16384 = true ∧
    hasRight s 0 rightRead 0 16385 = false ∧ hasRight s 0 rightWrite 0 1 = false ∧ hasRight s 1 rightRead 0 1 = false :=
  ⟨lockedOn, by decide +kernel⟩

theorem witness_DebugAccessCloses_1 : ∃ s : State, s.pow.harbour ≠ .off ∧ (s.fuses.dbgKill = true ∨ locked s = true) :=
  ⟨lockedOn, by decide +kernel⟩

theorem witness_DebugAccessCloses_2 : ∃ s : State, s.pow.harbour = .active ∧ s.fuses.dbgKill = false ∧ locked s = false :=
  ⟨on, by decide +kernel⟩

/-- DBG_KILL is blown, and sensed. -/
def killed : State := { on with fuses := { on.fuses with dbgKill := true }, blown := { on.blown with dbgKill := true } }

theorem witness_DebugAccessCloses_3 : ∃ (s t : State) (i : Instr), s.fuses.dbgKill = true ∧ s.blown.dbgKill = true ∧
    exec i s = .next t :=
  ⟨killed, selectTap killed .bypass [false], .bypass, by decide, by decide, rfl⟩

theorem witness_DebugAccessCloses_4 : ∃ (s t : State) (i : Instr), fusesGrow s.fuses s.blown ∧ s.blown.dbgKill = true ∧
    s.fuses.dbgKill = false ∧ exec i s = .next t :=
  ⟨{ on with blown := killed.blown }, selectTap { on with blown := killed.blown } .bypass [false], .bypass, by
    unfold fusesGrow; decide +kernel, by decide, by decide, rfl⟩

theorem witness_DebugAccessCloses_5 : ∃ s : State, s.pow.harbour ≠ .off ∧ s.blown ≠ s.fuses :=
  ⟨{ on with blown := killed.blown }, by decide +kernel⟩

theorem witness_DebugAccessCloses_6 : ∃ s : State, s.pow.harbour = .off ∧ s.blown ≠ s.fuses :=
  ⟨{ on with blown := killed.blown, pow := { on.pow with harbour := .off } }, by decide +kernel⟩

theorem witness_TalliesAddExactly : ∃ l : List TWord, l.length ≤ 8388607 ∧ (∀ w ∈ l, readable w) ∧
    ∀ v, TWord.val v ∈ l → v.natAbs < 2 ^ 40 :=
  ⟨[.val (2 ^ 40 - 1), .marker, .val (1 - 2 ^ 40)], by decide, by unfold readable; decide, by
    intro v h; simp at h; omega⟩

theorem witness_CommitAdvancesTheEpoch : ∃ (s : State) (n : Nat) (x : Pset), setOf? s n = some x ∧
    x.pr.dynamic = true ∧ (x.ep.clean + 1) % 65536 = x.pr.g :=
  ⟨walkOn { sweptSet with ep := { sweptSet.ep with clean := 1999 } }, 0, { sweptSet with ep := { sweptSet.ep with clean := 1999 } },
    by decide +kernel⟩

/-- What a quay measures. -/
def meas : QuayMeas := { otherMw := 56000, tempC := 88, quayMw := 60000 }

theorem witness_PoolsFollowTheFormula_1 : ∃ (s : State) (l : List QuayMeas) (q : Nat) (m : QuayMeas), isActive s = true ∧
    q < quays s.part ∧ l[q]? = some m ∧ q ∉ asleep s ∧ hmRuns s = true ∧ fld s rPwHbStat 21 21 = 0 :=
  ⟨on, [meas], 0, meas, by decide +kernel⟩

theorem witness_PoolsFollowTheFormula_2 : ∃ (s : State) (l : List QuayMeas) (q : Nat) (m : QuayMeas), isActive s = true ∧
    q < quays s.part ∧ l[q]? = some m ∧ q ∉ asleep s ∧ hmRuns s = true ∧ fld s rPwHbStat 21 21 = 1 :=
  ⟨setFld on rPwHbStat 21 21 1, [meas], 0, meas, by decide +kernel⟩

theorem witness_PoolsFollowTheFormula_3 : ∃ (s : State) (l : List QuayMeas) (q : Nat) (m : QuayMeas), isActive s = true ∧
    q < quays s.part ∧ l[q]? = some m ∧ q ∈ asleep s ∧ hmRuns s = true :=
  ⟨{ on with pow := { on.pow with doze := [0] } }, [meas], 0, meas, by decide +kernel⟩

theorem witness_PoolsFollowTheFormula_4 : ∃ (s : State) (l : List QuayMeas) (q : Nat) (m : QuayMeas), isActive s = true ∧
    q < quays s.part ∧ l[q]? = some m ∧ hmRuns s = false :=
  ⟨State.reset, [meas], 0, meas, by decide +kernel⟩

theorem witness_ShowingRowsFrame : ∃ (s t : State) (i : Instr), showsOnly i = true ∧ exec i s = .next t :=
  ⟨on, sideband on sbOK (leBytes 8 (readReg on rHbId)), .regRead rHbId, by decide +kernel, of_nextOf (by decide +kernel)⟩

/-! ### Rows whose witness is not a list of values -/

theorem witness_BerthOperationsComplete_1 : ∃ (s : State) (i : Instr) (op b : Nat) (older : List Nat) (flips : List Flip) (o : BOp),
    berthRow i = some (op, b, older, flips) ∧ (bankOf s b).run = some o ∧ o.op = op ∧ o.phase = .granted ∧
    (permitsOf s (b / 1024)).pool ≠ 0 ∧ bankAwake s b = true ∧ o.selected = false :=
  ⟨setPermits reducing 0 { Permits.zero with pool := 1 }, .reduce 5 [] [], 7, 5, [], [], reduceOp, by decide +kernel⟩

theorem witness_BerthOperationsComplete_2 : ∃ (s : State) (i : Instr) (op b : Nat) (older : List Nat) (flips : List Flip) (o : BOp),
    berthRow i = some (op, b, older, flips) ∧ (bankOf s b).run = some o ∧ o.op = op ∧ o.phase = .granted ∧
    (permitsOf s (b / 1024)).pool ≠ 0 ∧ bankAwake s b = true ∧ o.selected = true :=
  ⟨setPermits (setBank reducing 5 { bankOf reducing 5 with run := some { reduceOp with selected := true } }) 0
      { Permits.zero with pool := 1 }, .reduce 5 [] [], 7, 5, [], [], { reduceOp with selected := true }, by decide +kernel⟩

theorem witness_LockStays : ∃ (s t : State) (i : Instr), locked s = true ∧ exec i s = .next t :=
  ⟨lockedOn, selectTap lockedOn .bypass [false], .bypass, by decide +kernel, rfl⟩

/-! ### PSET_CREATE -/

/-- PSET_CREATE of a dispatch set with one tensor of 4096 elements and one group, whose table lies in the pools. -/
def createRun : Running := run 0x0101 [1, 0, 0, 0, 0, 0, 2 ^ 32, 0xE0001000000]
def createOn : State := withRun (writeBytes on 0xE0001000000 (leBytes 8 4096 ++ leBytes 8 0)) createRun
def createTab : TensorTab := readTensors createOn createRun.pkt

theorem create_place (s : State) (h0 : s.sets = []) (h1 : arenaBase s = 274877906944) (h2 : anchBase s = 1632087572480)
    (h3 : s.part = .z16) (h4 : freeSet s = some 0) (h5 : firstOnQuay s 0 274877906944 = some 274877907968) :
    createPlace s createRun.pkt createTab = some 274877907968 := by
  have k0 : createTab.tensors.foldl (fun n e => n + e.cons) 0 = 1 := by decide +kernel
  have k1 : createRun.pkt.at 66 1 = 0 := by decide +kernel
  have k2 : createRun.pkt.at 116 4 = 1 := by decide +kernel
  have k3 : createRun.pkt.at 64 2 = 1 := by decide +kernel
  have k4 : conBytes 0 (createRun.pkt.at 112 1) = 16384 := rfl
  have k5 := (Config.arenaOverhead 0 1 1 1).isLt
  have k6 : createBytes s createRun.pkt createTab ≤ 2000000 := by
    simp only [createBytes, setBytes, setRows, k0, k1, k2, k3, k4, h3, quays, ceilDiv]
    omega
  have k7 : 274877907968 + createBytes s createRun.pkt createTab ≤ 1632087572480 := by omega
  simp [createPlace, arenaPlace, h0, h1, h2, h4, h5, k7]

theorem witness_SetCommandsComplete_1 : ∃ (s : State) (cx : Nat) (r : Running) (t : TensorTab) (n base : Nat),
    turnOf s cx 0x0101 = some r ∧ Clear r.pkt psetCreateLayout ∧ r.pkt.at 66 1 ≤ 4 ∧ r.pkt.at 66 1 = 0 ∧
    r.pkt.at 116 4 ≤ 1048576 ∧ t = readTensors s r.pkt ∧
    firstEntry t.entries (fun v => tensorFault (r.pkt.at 66 1) (r.pkt.at 116 4) (tensorOfBits v)) = none ∧
    firstEntry t.entries tensorStray = none ∧ tableFault s r.pkt t = false ∧
    readDenied s r.pkt (r.pkt.at 120 8 % 2 ^ 44) (16 * r.pkt.at 64 2) = false ∧ r.pkt.at 64 2 ≠ 0 ∧ r.pkt.at 116 4 ≠ 0 ∧
    t.bad = false ∧ freeSet t.state = some n ∧ createPlace t.state r.pkt t = some base := by
  refine ⟨createOn, 0, createRun, createTab, 0, 274877907968, ?_, ?_, ?_, ?_, ?_, rfl, ?_, ?_, ?_, ?_, ?_, ?_, ?_, ?_,
    create_place _ (by decide +kernel) (by decide +kernel) (by decide +kernel) (by decide +kernel) (by decide +kernel)
      (by decide +kernel)⟩
  case refine_8 =>
    have h : createPlace createOn createRun.pkt createTab = some 274877907968 :=
      create_place _ (by decide +kernel) (by decide +kernel) (by decide +kernel) (by decide +kernel) (by decide +kernel)
        (by decide +kernel)
    rw [tableFault, h]
    decide +kernel
  all_goals decide +kernel

/-! ### What meets the hypotheses of each statement about a family of rows -/

theorem witness_CommandsStart_1 : ∃ (s : State) (w : Nat) (p : CmdPkt) (t : List CmdPkt), (winOf s w).pend = p :: t ∧
    s.pow.harbour = .active ∧ orderHolds s w p = false ∧ boundHolds s w p = false ∧ fastOp p.opcode = true ∧
    opcodes.contains p.opcode = true ∧ p.bad = false :=
  ⟨setWin on 0 { Window.zero with enable := true, pend := [pkt 0x0702 []] }, 0, pkt 0x0702 [], [], by decide +kernel⟩

theorem witness_CommandsStart_2 : ∃ (s : State) (w : Nat) (p : CmdPkt) (t : List CmdPkt), (winOf s w).pend = p :: t ∧
    s.pow.harbour = .active ∧ orderHolds s w p = false ∧ boundHolds s w p = false ∧ fastOp p.opcode = true ∧
    opcodes.contains p.opcode = false :=
  ⟨setWin on 0 { Window.zero with enable := true, pend := [pkt 0x0706 []] }, 0, pkt 0x0706 [], [], by decide +kernel⟩

theorem witness_CommandsStart_3 : ∃ (s : State) (w : Nat) (p : CmdPkt) (t : List CmdPkt), (winOf s w).pend = p :: t ∧
    s.pow.harbour = .active ∧ orderHolds s w p = false ∧ boundHolds s w p = false ∧ fastOp p.opcode = true ∧
    opcodes.contains p.opcode = true ∧ p.bad = true :=
  ⟨setWin on 0 { Window.zero with enable := true, pend := [{ pkt 0x0702 [] with bad := true }] }, 0, { pkt 0x0702 [] with bad := true }, [], by decide +kernel⟩

theorem witness_CommandsStart_4 : ∃ (s : State) (w : Nat) (p : CmdPkt) (t : List CmdPkt), (winOf s w).pend = p :: t ∧
    s.pow.harbour = .active ∧ orderHolds s w p = false ∧ boundHolds s w p = false ∧ launchWaits s p = false ∧ fastOp
    p.opcode = false ∧ hmHalted (takeCmd s w p) = false :=
  ⟨setWin on 0 { Window.zero with enable := true, pend := [pkt 0x0102 []] }, 0, pkt 0x0102 [], [], by decide +kernel⟩

theorem witness_CommandsStart_5 : ∃ (s : State) (w : Nat) (p : CmdPkt) (t : List CmdPkt), (winOf s w).pend = p :: t ∧
    s.pow.harbour = .active ∧ orderHolds s w p = false ∧ boundHolds s w p = false ∧ launchWaits s p = false ∧ fastOp
    p.opcode = false ∧ hmHalted (takeCmd s w p) = true :=
  ⟨setWin (setFld on rHbHmStat 2 2 1) 0 { Window.zero with enable := true, pend := [pkt 0x0102 []] }, 0, pkt 0x0102 [], [], by decide +kernel⟩

theorem witness_CommandsStart_6 : ∃ (s : State) (w : Nat) (q : Reply) (t : List Reply) (s1 : State), (winOf s w).held = q
    :: t ∧ ringWaits s (winOf s w) = false ∧ s1 = settleTodo (releaseOpt (writeReply (setWin s w
    { winOf s w with held := t }) q) q.task q.release).1 (releaseOpt (writeReply (setWin s w { winOf s w with held := t })
    q) q.task q.release).2 ∧ clocksRun s = true ∧ (q.opcode ≠ 0x0A02 ∨ s1.pow.moorReply = none) :=
  ⟨heldOne 0x0702, 0, heldReply 0x0702, [], postOne (heldOne 0x0702) (heldReply 0x0702), by decide +kernel⟩

theorem witness_CommandsStart_7 : ∃ (s : State) (w : Nat) (q : Reply) (t : List Reply) (s1 : State) (retain : Bool),
    (winOf s w).held = q :: t ∧ ringWaits s (winOf s w) = false ∧ s1 = settleTodo (releaseOpt (writeReply (setWin s w
    { winOf s w with held := t }) q) q.task q.release).1 (releaseOpt (writeReply (setWin s w { winOf s w with held := t })
    q) q.task q.release).2 ∧ clocksRun s = true ∧ q.opcode = 0x0A02 ∧ s1.pow.moorReply = some retain :=
  ⟨{ heldOne 0x0A02 with pow := { on.pow with moorReply := some true } }, 0, heldReply 0x0A02, [], postOne { heldOne 0x0A02 with pow := { on.pow with moorReply := some true } } (heldReply 0x0A02), true, by decide +kernel⟩

theorem witness_CommandsStart_8 : ∃ (s : State) (f : State → State), (calm s = true ∨ carried s (f s) = true) :=
  ⟨on, id, by decide +kernel⟩

theorem witness_CommandsStart_9 : ∃ (s : State) (f : State → State), calm s = false ∧ carried s (f s) = false :=
  ⟨{ on with pow := { on.pow with waking := [3] } }, fun s => wakeQuay s 3, by decide +kernel⟩

theorem witness_SetCommandsComplete_2 : ∃ (s : State) (cx : Nat) (r : Running), turnOf s cx 0x0101 = some r ∧ Clear r.pkt
    psetCreateLayout ∧ r.pkt.at 66 1 ≤ 4 ∧ (r.pkt.at 66 1 = 0 ∨ AllPass (constFaults (r.pkt.at 66 1) (constsOf r.pkt)) ∧
    (r.pkt.at 112 1 = fE4M3 ∨ r.pkt.at 112 1 = fK4)) ∧ r.pkt.at 116 4 ≤ 1048576 ∧ (r.pkt.at 64 2 = 0 ∨ r.pkt.at 116 4 = 0) ∧
    firstEntry (readTensors s r.pkt).entries (fun v => tensorFault (r.pkt.at 66 1) (r.pkt.at 116 4) (tensorOfBits v)) = none
    ∧ firstEntry (readTensors s r.pkt).entries tensorStray = none ∧ badSource s (r.pkt.at 120 8 % 2 ^ 44) (16 * r.pkt.at 64
    2) = false ∧ readDenied s r.pkt (r.pkt.at 120 8 % 2 ^ 44) (16 * r.pkt.at 64 2) = false :=
  ⟨cmd (on) 0x0101 [0, 0, 0, 0, 0, 0, 1 * 2 ^ 32, 0xE0001000000], 0, run 0x0101 [0, 0, 0, 0, 0, 0, 1 * 2 ^ 32, 0xE0001000000], by decide +kernel⟩

theorem witness_SetCommandsComplete_3 : ∃ (s : State) (cx : Nat) (r : Running) (x : Pset), turnOf s cx 0x0102 = some r ∧
    Clear r.pkt [(8, 15, 0)] ∧ setOf? s ((r.pkt.at 64 2)) = some x ∧ setInUse s cx ((r.pkt.at 64 2)) x = false :=
  ⟨cmd (onSet) 0x0102 [0], 0, run 0x0102 [0], setReady, by decide +kernel⟩

theorem witness_SetCommandsComplete_4 : ∃ (s : State) (cx : Nat) (r : Running) (x : Pset), turnOf s cx 0x0103 = some r ∧
    Clear r.pkt psetConstLayout ∧ setOf? s ((r.pkt.at 64 2)) = some x ∧ x.isDispatch = false ∧ r.pkt.at 66 1 = x.consts.rule
    ∧ AllPass (constFaults x.consts.rule (constsOf r.pkt)) ∧ x.sw.phase = .idle ∧ bit (r.pkt.at 67 1) 3 = false :=
  ⟨cmd (onSet) 0x0103 [0x3F66666600020000, 0, 0x3F80000000000000], 0, run 0x0103 [0x3F66666600020000, 0, 0x3F80000000000000], setReady, by decide +kernel⟩

theorem witness_SetCommandsComplete_5 : ∃ (s : State) (cx : Nat) (r : Running) (x : Pset) (t : State × List (Option
    Byte)), turnOf s cx 0x0103 = some r ∧ Clear r.pkt psetConstLayout ∧ setOf? s ((r.pkt.at 64 2)) = some x ∧ x.isDispatch =
    false ∧ r.pkt.at 66 1 = x.consts.rule ∧ AllPass (constFaults x.consts.rule (constsOf r.pkt)) ∧ x.sw.phase = .idle ∧ bit
    (r.pkt.at 67 1) 3 = true ∧ leavesRegion s (r.pkt.at 96 8 % 2 ^ 44) (ceilDiv x.groups 8) = false ∧ readDenied s r.pkt
    (r.pkt.at 96 8 % 2 ^ 44) (ceilDiv x.groups 8) = false ∧ t = readTable s (r.pkt.at 96 8 % 2 ^ 44) (ceilDiv x.groups 8) ∧
    tableBad t.2 = false :=
  ⟨cmd (onSet) 0x0103 [0x3F66666608020000, 0, 0x3F80000000000000, 0, 0xE0001000000], 0, run 0x0103 [0x3F66666608020000, 0, 0x3F80000000000000, 0, 0xE0001000000], setReady, readTable (cmd onSet 0x0103 [0x3F66666608020000, 0, 0x3F80000000000000, 0, 0xE0001000000]) 0xE0001000000 1, by decide +kernel⟩

theorem witness_SetCommandsComplete_6 : ∃ (s : State) (cx : Nat) (r : Running) (x : Pset), turnOf s cx 0x0106 = some r ∧
    Clear r.pkt [(8, 15, 0), (9, 43, 0)] ∧ setOf? s ((r.pkt.at 64 2)) = some x ∧ (r.pkt.at 72 8 % 2 ^ 44) % 32 = 0 ∧
    inSoftware s ((r.pkt.at 72 8 % 2 ^ 44)) 64 = true ∧ r.pkt.hasRight s rightWrite ((r.pkt.at 72 8 % 2 ^ 44)) 64 = true :=
  ⟨cmd (onSet) 0x0106 [0, 0xE0001000000], 0, run 0x0106 [0, 0xE0001000000], setReady, by decide +kernel⟩

theorem witness_DescriptorCommandsComplete_1 : ∃ (s : State) (cx : Nat) (r : Running), turnOf s cx 0x0104 = some r ∧ Clear
    r.pkt tdCreateLayout ∧ AllPass (tdParams s r.pkt (tdOfPacket r.pkt)) ∧ AllPass (tdDescr s (tdOfPacket r.pkt)) ∧ tdDenied
    s r.pkt (tdOfPacket r.pkt) = false ∧ s.tds.length < 65536 :=
  ⟨cmd (on) 0x0104 [64, 0xE0001000000, 0, 0, 0, 0x4000000], 0, run 0x0104 [64, 0xE0001000000, 0, 0, 0, 0x4000000], by decide +kernel⟩

theorem witness_DescriptorCommandsComplete_2 : ∃ (s : State) (cx : Nat) (r : Running) (d : TDesc), turnOf s cx 0x0105 =
    some r ∧ Clear r.pkt [(8, 15, 0)] ∧ tget? s.tds ((r.pkt.at 64 2)) = some d ∧ (d.turn ≠ 0 ∨ setOf? s d.pset = none) :=
  ⟨cmd ({ on with tds := [(7, tdOfPacket (pkt 0x0104 [64, 0, 0, 0, 0, 0x4000000]))] }) 0x0105 [7], 0, run 0x0105 [7], tdOfPacket (pkt 0x0104 [64, 0, 0, 0, 0, 0x4000000]), by decide +kernel⟩

theorem witness_ManifestCommandsComplete_1 : ∃ (s : State) (cx : Nat) (r : Running), turnOf s cx 0x0201 = some r ∧ Clear
    r.pkt manOpenLayout ∧ AllPass (manParams ((landTicks s)) ((r.pkt.at 64 2 % 16384)) ((manOfPkt (landTicks s) r.pkt))) ∧
    manDenied ((landTicks s)) r.pkt ((manOfPkt (landTicks s) r.pkt)) = false ∧ (manOf ((landTicks s)) ((r.pkt.at 64 2 %
    16384))).state ≠ .opened ∧ manClash ((landTicks s)) ((r.pkt.at 64 2 % 16384)) ((manOfPkt (landTicks s) r.pkt)) = false ∧
    manActive ((landTicks s)) < 16384 ∧ ((manOfPkt (landTicks s) r.pkt)).isEmpty = false :=
  ⟨cmd (on) 0x0201 [0x10003, 5, 0xE0000400000, 64], 0, run 0x0201 [0x10003, 5, 0xE0000400000, 64], by decide +kernel⟩

theorem witness_ManifestCommandsComplete_2 : ∃ (s : State) (cx : Nat) (r : Running), turnOf s cx 0x0201 = some r ∧ Clear
    r.pkt manOpenLayout ∧ AllPass (manParams ((landTicks s)) ((r.pkt.at 64 2 % 16384)) ((manOfPkt (landTicks s) r.pkt))) ∧
    manDenied ((landTicks s)) r.pkt ((manOfPkt (landTicks s) r.pkt)) = false ∧ (manOf ((landTicks s)) ((r.pkt.at 64 2 %
    16384))).state ≠ .opened ∧ manClash ((landTicks s)) ((r.pkt.at 64 2 % 16384)) ((manOfPkt (landTicks s) r.pkt)) = false ∧
    manActive ((landTicks s)) < 16384 ∧ ((manOfPkt (landTicks s) r.pkt)).isEmpty = true ∧ (((manOfPkt (landTicks s)
    r.pkt)).kind ≠ 1 ∨ ((manOfPkt (landTicks s) r.pkt)).contribs ≠ 0) :=
  ⟨cmd (on) 0x0201 [0x10003, 5, 0xE0000400000, 0], 0, run 0x0201 [0x10003, 5, 0xE0000400000, 0], by decide +kernel⟩

theorem witness_ManifestCommandsComplete_3 : ∃ (s : State) (cx : Nat) (r : Running), turnOf s cx 0x0201 = some r ∧ Clear
    r.pkt manOpenLayout ∧ AllPass (manParams ((landTicks s)) ((r.pkt.at 64 2 % 16384)) ((manOfPkt (landTicks s) r.pkt))) ∧
    (manOf ((landTicks s)) ((r.pkt.at 64 2 % 16384))).state ≠ .opened ∧ manClash ((landTicks s)) ((r.pkt.at 64 2 % 16384))
    ((manOfPkt (landTicks s) r.pkt)) = false ∧ manActive ((landTicks s)) < 16384 ∧ ((manOfPkt (landTicks s) r.pkt)).kind = 1
    ∧ ((manOfPkt (landTicks s) r.pkt)).contribs = 0 :=
  ⟨cmd (onSet) 0x0201 [0x10003 + 2 ^ 32, 5, 0, 0, 0, 1], 0, run 0x0201 [0x10003 + 2 ^ 32, 5, 0, 0, 0, 1], by decide +kernel⟩

theorem witness_ManifestCommandsComplete_4 : ∃ (s : State) (cx : Nat) (r : Running) (x : Manifest), turnOf s cx 0x0202 =
    some r ∧ Clear r.pkt manLayout ∧ manNamed (landTicks s) (r.pkt.at 64 2 % 16384) (r.pkt.at 66 2) = some x ∧ x.state =
    .opened ∧ endOwed (failMan (landTicks s) (r.pkt.at 64 2 % 16384) false) (r.pkt.at 64 2 % 16384) x.gen = false :=
  ⟨cmd (manOn) 0x0202 [0x10003], 0, run 0x0202 [0x10003], manOne, by decide +kernel⟩

theorem witness_ManifestCommandsComplete_5 : ∃ (s : State) (cx : Nat) (r : Running), turnOf s cx 0x0203 = some r ∧ Clear
    r.pkt manLayout :=
  ⟨cmd (manOn) 0x0203 [0x10003], 0, run 0x0203 [0x10003], by decide +kernel⟩

theorem witness_WatchCommandsComplete_1 : ∃ (s : State) (cx : Nat) (r : Running), turnOf s cx 0x0204 = some r ∧ Clear
    r.pkt watchSetLayout ∧ AllPass (watchParams s r.pkt) ∧ r.pkt.hasRight s rightRead ((r.pkt.at 72 8 % 2 ^ 44)) ((r.pkt.at
    80 8 % 2 ^ 44)) = true ∧ ((List.range ((r.pkt.at 65 1 % 16))).map (watchSub r.pkt)).all (fun x => r.pkt.portRight s x.1
    rightRead ((r.pkt.at 72 8 % 2 ^ 44)) ((r.pkt.at 80 8 % 2 ^ 44))) = true ∧ (r.pkt.at 65 1 % 16) ≠ 0 ∧ (r.pkt.at 80 8 % 2
    ^ 44) ≠ 0 ∧ tget? s.sync.watches (r.pkt.at 64 1) = none :=
  ⟨cmd (on) 0x0204 [0x105, 0xE0000400000, 512, 3], 0, run 0x0204 [0x105, 0xE0000400000, 512, 3], by decide +kernel⟩

theorem witness_WatchCommandsComplete_2 : ∃ (s : State) (cx : Nat) (r : Running) (x : Watch), turnOf s cx 0x0205 = some r
    ∧ Clear r.pkt [(8, 7, 0)] ∧ tget? s.sync.watches (r.pkt.at 64 1) = some x ∧ noticeWaits s (r.pkt.at 64 1) = false :=
  ⟨cmd ({ on with sync := { on.sync with watches := [(5, { base := 0, length := 512, subs := [(3, 0)], sent := 9 })] } }) 0x0205 [5], 0, run 0x0205 [5], { base := 0, length := 512, subs := [(3, 0)], sent := 9 }, by decide +kernel⟩

theorem witness_DispatchCommandsComplete_1 : ∃ (s : State) (cx : Nat) (r : Running) (t : State × List (Option Byte)),
    turnOf s cx 0x0301 = some r ∧ Clear r.pkt [(8, 1, 0), (8, 63, 32), (9, 43, 0)] ∧ (r.pkt.at 68 4) ≤ 65536 ∧ badSource s
    ((r.pkt.at 72 8 % 2 ^ 44)) (4 * (r.pkt.at 68 4)) = false ∧ t = readTable s ((r.pkt.at 72 8 % 2 ^ 44)) (4 * (r.pkt.at 68
    4)) ∧ (tableEntries t.2 4 ((r.pkt.at 68 4))).all (fun e => e.all fun v => decide (bits v 17 0 < countNum s)) = true ∧
    readDenied s r.pkt ((r.pkt.at 72 8 % 2 ^ 44)) (4 * (r.pkt.at 68 4)) = false ∧ (r.pkt.at 68 4) ≠ 0 ∧ runsOther s cx
    0x0302 (fun q => q.at 64 1 % 4 == r.pkt.at 64 1 % 4) = false ∧ tableBad t.2 = false :=
  ⟨cmd (on) 0x0301 [0x200000001, 0xE0001000000], 0, run 0x0301 [0x200000001, 0xE0001000000], readTable (cmd on 0x0301 [0x200000001, 0xE0001000000]) 0xE0001000000 8, by decide +kernel⟩

theorem witness_DispatchCommandsComplete_2 : ∃ (s : State) (cx : Nat) (r : Running) (t u : State × List (Option Byte)),
    turnOf s cx 0x0302 = some r ∧ Clear r.pkt tokenSendLayout ∧ t = tokenRoutes s r.pkt ∧ AllPass (tokenSendParams s r.pkt
    ((tableEntries t.2 2 (t.2.length / 2)))) ∧ tokenSendDenied s r.pkt = false ∧ r.pkt.at 96 4 ≠ 0 ∧ r.pkt.at 65 1 ≠ 0 ∧
    r.pkt.at 66 2 ≠ 0 ∧ u = (if bit (r.pkt.at 88 8) 63 then readTable t.1 (r.pkt.at 88 8 % 2 ^ 44) (8 * r.pkt.at 65 1 *
    r.pkt.at 96 4) else (t.1, [])) ∧ tableBad t.2 = false ∧ tableBad u.2 = false :=
  ⟨cmd routed 0x0302 [0x10101, 0xE0001000000, 0xE0001000000, 2 ^ 63 + 0xE0001000000, 1, 0, 1], 0, run 0x0302 [0x10101, 0xE0001000000, 0xE0001000000, 2 ^ 63 + 0xE0001000000, 1, 0, 1], tokenRoutes (cmd routed 0x0302 [0x10101, 0xE0001000000, 0xE0001000000, 2 ^ 63 + 0xE0001000000, 1, 0, 1]) (pkt 0x0302 [0x10101, 0xE0001000000, 0xE0001000000, 2 ^ 63 + 0xE0001000000, 1, 0, 1]), readTable (cmd routed 0x0302 [0x10101, 0xE0001000000, 0xE0001000000, 2 ^ 63 + 0xE0001000000, 1, 0, 1]) 0xE0001000000 8, by decide +kernel⟩

theorem witness_DispatchCommandsComplete_3 : ∃ (s : State) (cx : Nat) (r : Running) (x : Manifest) (t : State × List
    (Option Byte)), turnOf s cx 0x0303 = some r ∧ Clear r.pkt [(8, 13, 0), (8, 31, 16), (8, 47, 32), (9, 43, 0)] ∧ x = manOf
    s (r.pkt.at 64 2 % 16384) ∧ x.gen = r.pkt.at 66 2 ∧ x.kind = 2 ∧ (x.state = .closed ∨ x.state = .failed) ∧
    s.land.failing.any (fun f => f.1 == r.pkt.at 64 2 % 16384 && f.2.2.gen == x.gen) = false ∧ (r.pkt.at 68 2) ≤ 4096 ∧
    (r.pkt.at 68 2) ≠ 0 ∧ badSource s ((r.pkt.at 72 8 % 2 ^ 44)) (32 * (r.pkt.at 68 2) * x.records) = false ∧ readDenied s
    r.pkt ((r.pkt.at 72 8 % 2 ^ 44)) (32 * (r.pkt.at 68 2) * x.records) = false ∧ t = readTable s x.lading (32 * x.records)
    ∧ tableBad t.2 = false :=
  ⟨cmd tokClosed 0x0303 [0x10004 + 2 ^ 32, 0xE0001000000], 0, run 0x0303 [0x10004 + 2 ^ 32, 0xE0001000000], tokMan, readTable (cmd tokClosed 0x0303 [0x10004 + 2 ^ 32, 0xE0001000000]) tokMan.lading (32 * tokMan.records), by decide +kernel⟩

theorem witness_DispatchCommandsComplete_4 : ∃ (s : State) (cx : Nat) (r : Running), turnOf s cx 0x0304 = some r ∧ Clear
    r.pkt gradDispatchLayout ∧ AllPass (gradDispatchParams s r.pkt) ∧ readDenied s r.pkt (r.pkt.at 80 8 % 2 ^ 44) (8192 *
    (r.pkt.at 76 4)) = false ∧ (r.pkt.at 76 4) ≠ 0 ∧ (r.pkt.at 66 1 ≠ 2 ∨ r.pkt.at 68 2 ≠ 0) ∧ runsOther s cx 0x0304 (fun q
    => q.at 64 2 == r.pkt.at 64 2 && overlaps (r.pkt.at 72 4) ((r.pkt.at 76 4)) (q.at 72 4) (q.at 76 4)) = false :=
  ⟨cmd onDispatch 0x0304 [0x10000, 2 ^ 32, 0xE0001000000, 0, 0, 1], 0, run 0x0304 [0x10000, 2 ^ 32, 0xE0001000000, 0, 0, 1], by decide +kernel⟩

theorem witness_DispatchCommandsComplete_5 : ∃ (s : State) (cx : Nat) (r : Running) (x : Manifest), turnOf s cx 0x0305 =
    some r ∧ Clear r.pkt [(8, 13, 0), (8, 31, 16)] ∧ x = manOf s (r.pkt.at 64 2 % 16384) ∧ x.gen = r.pkt.at 66 2 ∧ x.kind =
    2 ∧ (x.state = .closed ∨ x.state = .failed) ∧ fld s rDsPoolCfg 4 0 ≠ 0 ∧ (relRing s).2 = false ∧ runsOther s cx 0x0305
    (fun _ => true) = false :=
  ⟨cmd (setFld tokClosed rDsPoolCfg 4 0 2) 0x0305 [0x10004], 0, run 0x0305 [0x10004], tokMan, by decide +kernel⟩

theorem witness_DispatchCommandsComplete_6 : ∃ (s : State) (cx : Nat) (r : Running) (x : Manifest), turnOf s cx 0x0305 =
    some r ∧ Clear r.pkt [(8, 13, 0), (8, 31, 16)] ∧ x = manOf s (r.pkt.at 64 2 % 16384) ∧ x.gen = r.pkt.at 66 2 ∧ x.kind =
    2 ∧ (x.state = .closed ∨ x.state = .failed) ∧ fld s rDsPoolCfg 4 0 ≠ 0 ∧ ((relRing s).2 = true ∨ runsOther s cx 0x0305
    (fun _ => true) = true) :=
  ⟨cmd ringFullOn 0x0305 [0x10004], 0, run 0x0305 [0x10004], tokMan, by decide +kernel⟩

theorem witness_DispatchCommandsComplete_7 : ∃ (s : State) (cx t0 base bytes records : Nat) (r : Running), cmdOf? s cx =
    some r ∧ r.phase = .waitRing t0 base bytes records ∧ r.pkt.opcode = 0x0305 ∧ (relRing s).2 = false ∧ releaseUnderWay s
    cx = false :=
  ⟨withRun (setFld tokClosed rDsPoolCfg 4 0 2) { run 0x0305 [0x10004] with phase := .waitRing 0 0 64 2 }, 0, 0, 0, 64, 2, { run 0x0305 [0x10004] with phase := .waitRing 0 0 64 2 }, by decide +kernel⟩

theorem witness_DispatchCommandsComplete_8 : ∃ (s : State) (cx t0 base bytes records : Nat) (r : Running), cmdOf? s cx =
    some r ∧ r.phase = .waitRing t0 base bytes records ∧ (relRing s).2 = true ∧ fld s rDsPoolCfg 63 48 ≠ 0 ∧ expired s t0
    (fld s rDsPoolCfg 63 48 * 1024) = true :=
  ⟨withRun (later (setFld ringFullOn rDsPoolCfg 63 48 1) 2000) { run 0x0305 [0x10004] with phase := .waitRing 0 0 64 2 }, 0, 0, 0, 64, 2, { run 0x0305 [0x10004] with phase := .waitRing 0 0 64 2 }, by decide +kernel⟩

theorem witness_SweepCommandsComplete_1 : ∃ (s : State) (cx : Nat) (r : Running), turnOf s cx 0x0401 = some r ∧ sweepCheck
    s cx r.pkt false = none :=
  ⟨cmd (onSet) 0x0401 [0, 0, 1, 0xE0001000000, 0], 0, run 0x0401 [0, 0, 1, 0xE0001000000, 0], by decide +kernel⟩

theorem witness_SweepCommandsComplete_2 : ∃ (s : State) (cx : Nat) (r : Running), turnOf s cx 0x0402 = some r ∧ sweepCheck
    s cx r.pkt true = none ∧ bit (r.pkt.at 67 1) 0 = true :=
  ⟨cmd (onDecided) 0x0402 [2 ^ 24, 0, 1, 0xE0001000000, 0], 0, run 0x0402 [2 ^ 24, 0, 1, 0xE0001000000, 0], by decide +kernel⟩

theorem witness_SweepCommandsComplete_3 : ∃ (s : State) (cx : Nat) (r : Running) (x : Pset), turnOf s cx 0x0402 = some r ∧
    sweepCheck s cx r.pkt true = none ∧ bit (r.pkt.at 67 1) 0 = false ∧ setOf? s (r.pkt.at 64 2) = some x ∧ (bit (r.pkt.at
    67 1) 1 = false ∨ x.sw.phase ≠ .normSent) :=
  ⟨cmd (onDecided) 0x0402 [0, 0, 1, 0xE0001000000, 0], 0, run 0x0402 [0, 0, 1, 0xE0001000000, 0], decided, by decide +kernel⟩

theorem witness_SweepCommandsComplete_4 : ∃ (s : State) (cx : Nat) (r : Running) (x : Pset), turnOf s cx 0x0402 = some r ∧
    sweepCheck s cx r.pkt true = none ∧ bit (r.pkt.at 67 1) 0 = false ∧ setOf? s (r.pkt.at 64 2) = some x ∧ bit (r.pkt.at 67
    1) 1 = true ∧ x.sw.phase = .normSent :=
  ⟨cmd (putSet on 0 normSent) 0x0402 [2 ^ 25, 0, 1, 0xE0001000000, 0], 0, run 0x0402 [2 ^ 25, 0, 1, 0xE0001000000, 0], normSent, by decide +kernel⟩

theorem witness_SweepCommandsComplete_5 : ∃ (s : State) (cx t0 : Nat) (r : Running) (x : Pset), cmdOf? s cx = some r ∧
    r.phase = .sweepLand t0 ∧ setOf? s (r.pkt.at 64 2) = some x ∧ r.pkt.at 68 4 ≠ 0 ∧ expired s t0 (r.pkt.at 68 4) = true ∧
    hmRuns s = true :=
  ⟨withRun (later onSet 2000) { run 0x0401 [5 * 2 ^ 32] with phase := .sweepLand 0 }, 0, 0, { run 0x0401 [5 * 2 ^ 32] with phase := .sweepLand 0 }, setReady, by decide +kernel⟩

theorem witness_SweepCommandsComplete_6 : ∃ (s : State) (cx t0 : Nat) (r : Running), cmdOf? s cx = some r ∧ r.phase =
    .sweepNorm t0 ∧ r.pkt.at 72 4 ≠ 0 ∧ expired s t0 (r.pkt.at 72 4) = true ∧ hmRuns s = true :=
  ⟨withRun (later onSet 2000) { run 0x0401 [0, 5] with phase := .sweepNorm 0 }, 0, 0, { run 0x0401 [0, 5] with phase := .sweepNorm 0 }, by decide +kernel⟩

theorem witness_SweepCommandsComplete_7 : ∃ (s : State) (cx : Nat) (r : Running) (x : Pset), turnOf s cx 0x0403 = some r ∧
    Clear r.pkt [(8, 23, 0)] ∧ setOf? s (r.pkt.at 64 2) = some x ∧ x.isDispatch = false ∧ x.pr.lmin ≤ r.pkt.at 66 1 ∧
    r.pkt.at 66 1 ≤ x.pr.lmax ∧ x.sw.phase = .idle :=
  ⟨cmd (onSet) 0x0403 [5 * 2 ^ 16], 0, run 0x0403 [5 * 2 ^ 16], setReady, by decide +kernel⟩

theorem witness_ExportCommandsComplete_1 : ∃ (s : State) (cx : Nat) (r : Running) (x : Pset), turnOf s cx 0x0503 = some r
    ∧ Clear r.pkt pushLayout ∧ AllPass (rangeParams s ((pushRange r.pkt)) ((r.pkt.at 88 8)) (rangeSpan s ((pushRange r.pkt))
    1) (8, 10, 11)) ∧ setOf? s ((pushRange r.pkt)).pset = some x ∧ globalDenied s r.pkt ((r.pkt.at 88 8)) (rangeSpan s
    ((pushRange r.pkt)) 1) = false ∧ ((pushRange r.pkt)).count ≠ 0 ∧ r.pkt.at 72 8 = x.ep.epoch.toNat :=
  ⟨cmd (onSet) 0x0503 [0, 0, 2 ^ 32, 0x1E0001000000], 0, run 0x0503 [0, 0, 2 ^ 32, 0x1E0001000000], setReady, by decide +kernel⟩

theorem witness_ExportCommandsComplete_2 : ∃ (s : State) (cx : Nat) (r : Running) (x : Pset), turnOf s cx 0x0503 = some r
    ∧ Clear r.pkt pushLayout ∧ AllPass (rangeParams s ((pushRange r.pkt)) ((r.pkt.at 88 8)) (rangeSpan s ((pushRange r.pkt))
    1) (8, 10, 11)) ∧ setOf? s ((pushRange r.pkt)).pset = some x ∧ globalDenied s r.pkt ((r.pkt.at 88 8)) (rangeSpan s
    ((pushRange r.pkt)) 1) = false ∧ ((pushRange r.pkt)).count ≠ 0 ∧ r.pkt.at 72 8 = (x.ep.epoch.toNat + 1) %
    18446744073709551616 :=
  ⟨cmd (onSet) 0x0503 [0, 1, 2 ^ 32, 0x1E0001000000], 0, run 0x0503 [0, 1, 2 ^ 32, 0x1E0001000000], setReady, by decide +kernel⟩

theorem witness_ExportCommandsComplete_3 : ∃ (s : State) (cx : Nat) (r : Running), turnOf s cx 0x0501 = some r ∧ Clear
    r.pkt subLayout ∧ AllPass (rangeParams s ((subRange r.pkt)) ((r.pkt.at 88 8)) ((rangeSpan s (subRange r.pkt) (if bit
    (r.pkt.at 67 1) 2 then 2 else 1))) (8, 9, 11)) ∧ r.pkt.at 73 1 % 128 < ports s.part ∧ (r.pkt.at 96 8) % 32 = 0 ∧
    expPlace s ((r.pkt.at 96 8)) ≠ .nowhere ∧ globalDenied s r.pkt ((r.pkt.at 88 8)) ((rangeSpan s (subRange r.pkt) (if bit
    (r.pkt.at 67 1) 2 then 2 else 1))) = false ∧ statusDenied s r.pkt = false ∧ ((subRange r.pkt)).count ≠ 0 ∧ tget?
    s.exp.subs (r.pkt.at 72 1) = none ∧ bit (r.pkt.at 67 1) 1 = false :=
  ⟨cmd (onSet) 0x0501 [2 ^ 24, 0, 1, 0x1E0001000000, 0x1E0001000000 + 65536], 0, run 0x0501 [2 ^ 24, 0, 1, 0x1E0001000000, 0x1E0001000000 + 65536], by decide +kernel⟩

theorem witness_ExportCommandsComplete_4 : ∃ (s : State) (cx : Nat) (r : Running), turnOf s cx 0x0501 = some r ∧ Clear
    r.pkt subLayout ∧ AllPass (rangeParams s ((subRange r.pkt)) ((r.pkt.at 88 8)) ((rangeSpan s (subRange r.pkt) (if bit
    (r.pkt.at 67 1) 2 then 2 else 1))) (8, 9, 11)) ∧ r.pkt.at 73 1 % 128 < ports s.part ∧ (r.pkt.at 96 8) % 32 = 0 ∧
    expPlace s ((r.pkt.at 96 8)) ≠ .nowhere ∧ globalDenied s r.pkt ((r.pkt.at 88 8)) ((rangeSpan s (subRange r.pkt) (if bit
    (r.pkt.at 67 1) 2 then 2 else 1))) = false ∧ statusDenied s r.pkt = false ∧ ((subRange r.pkt)).count ≠ 0 ∧ tget?
    s.exp.subs (r.pkt.at 72 1) = none ∧ bit (r.pkt.at 67 1) 1 = true :=
  ⟨cmd (onSet) 0x0501 [2 ^ 25, 0, 1, 0x1E0001000000, 0x1E0001000000 + 65536], 0, run 0x0501 [2 ^ 25, 0, 1, 0x1E0001000000, 0x1E0001000000 + 65536], by decide +kernel⟩

theorem witness_ExportCommandsComplete_5 : ∃ (s : State) (cx : Nat) (r : Running) (u : Sub), turnOf s cx 0x0502 = some r ∧
    Clear r.pkt [(8, 7, 0)] ∧ tget? s.exp.subs (r.pkt.at 64 1) = some u ∧ expBusy s (subSource (r.pkt.at 64 1)) = false ∧
    recallWaits s u = false :=
  ⟨cmd ({ onSet with exp := { onSet.exp with subs := [(3, subOfPkt (pkt 0x0501 [0]))] } }) 0x0502 [3], 0, run 0x0502 [3], subOfPkt (pkt 0x0501 [0]), by decide +kernel⟩

theorem witness_BerthCommandsComplete_1 : ∃ (s : State) (cx : Nat) (r : Running) (i t : State × List (Option Byte)),
    turnOf s cx 0x0601 = some r ∧ i = (if 8 < (r.pkt.at 69 1) then (s, []) else readTable s (r.pkt.at 72 8 % 2 ^ 44) (64 *
    (r.pkt.at 69 1))) ∧ t = (if 16384 < (r.pkt.at 64 4) then (i.1, []) else readTable i.1 (r.pkt.at 80 8 % 2 ^ 44) (8 *
    (r.pkt.at 64 4))) ∧ batchOpBad s ((r.pkt.at 69 1)) ((imageReads i.2)) ((batchImage r.pkt i.2)) = false ∧ Clear r.pkt
    batchLayout ∧ AllPass (batchParams s r.pkt ((imageReads i.2)) ((batchImage r.pkt i.2)) (((tableEntries t.2 8 ((r.pkt.at
    64 4))).filterMap id))) ∧ batchDenied s r.pkt ((imageReads i.2)) ((batchImage r.pkt i.2)) (((tableEntries t.2 8
    ((r.pkt.at 64 4))).filterMap id)) = false ∧ (r.pkt.at 64 4) ≠ 0 ∧ (r.pkt.at 69 1) ≠ 0 ∧ tableBad i.2 = false ∧ tableBad
    t.2 = false ∧ (((tableEntries t.2 8 ((r.pkt.at 64 4))).filterMap id)).all (fun v => placeFree s (entryBank v)) = true :=
  ⟨batchOn, 0, batchRun, readTable batchOn 0xE0001000000 128, readTable batchOn 0xE0001000400 8, by decide +kernel⟩

theorem witness_BerthCommandsComplete_2 : ∃ (s : State) (cx : Nat) (r : Running) (b : Nat × Running), turnOf s cx 0x0602 =
    some r ∧ Clear r.pkt [(8, 7, 0), (8, 31, 16)] ∧ findBatch s (r.pkt.at 64 1) (r.pkt.at 66 2) = some b :=
  ⟨batchRuns, 0, run 0x0602 [0], (1, batchStarted), by decide +kernel⟩

theorem witness_BerthCommandsComplete_3 : ∃ (s : State) (cx : Nat) (r : Running), batchCmd s cx = some r ∧ batchDone s cx
    = true ∧ batchMerges s cx r = true ∧ ((readPartials ((entryOp r.pkt (tget s.berth.images cx []) cx 0 0)) (tget
    s.berth.batches cx []) s)).2.1 ≠ [] ∧ ((readPartials ((entryOp r.pkt (tget s.berth.images cx []) cx 0 0)) (tget
    s.berth.batches cx []) s)).2.2 = false :=
  ⟨batchEnded, 1, batchStarted, by decide +kernel⟩

theorem witness_BerthCommandsComplete_4 : ∃ (s : State) (cx : Nat) (r : Running), batchCmd s cx = some r ∧ batchDone s cx
    = true ∧ batchMerges s cx r = true ∧ ((readPartials ((entryOp r.pkt (tget s.berth.images cx []) cx 0 0)) (tget
    s.berth.batches cx []) s)).2.1 ≠ [] ∧ ((readPartials ((entryOp r.pkt (tget s.berth.images cx []) cx 0 0)) (tget
    s.berth.batches cx []) s)).2.2 = true :=
  ⟨badPartial, 1, batchStarted, by decide +kernel⟩

theorem witness_GateCommandsComplete_1 : ∃ (s : State) (cx : Nat) (r : Running), turnOf s cx 0x0701 = some r ∧ Clear r.pkt
    (gateOpenLayout (r.pkt.at 66 2)) ∧ membersFit r.pkt = true ∧ AllPass (gateOpenParams s r.pkt) ∧ AllPass (gateOpenDescr
    r.pkt) ∧ (gateOf (expireGate s ((r.pkt.at 64 2 % 1024))) ((r.pkt.at 64 2 % 1024))).inProgress = false :=
  ⟨cmd (on) 0x0701 [5 + 2 * 2 ^ 16, 100, 0, 1, 1 + 3 * 2 ^ 4], 0, run 0x0701 [5 + 2 * 2 ^ 16, 100, 0, 1, 1 + 3 * 2 ^ 4], by decide +kernel⟩

theorem witness_GateCommandsComplete_2 : ∃ (s : State) (cx : Nat) (r : Running), turnOf s cx 0x0702 = some r ∧ Clear r.pkt
    [(8, 9, 0), (8, 24, 16), (8, 47, 32)] ∧ arrCase (gateOf (expireGate s ((r.pkt.at 64 2 % 1024))) ((r.pkt.at 64 2 %
    1024))) (r.pkt.at 68 2) = .counts :=
  ⟨cmd (gateOn) 0x0702 [5], 0, run 0x0702 [5], by decide +kernel⟩

theorem witness_GateCommandsComplete_3 : ∃ (s : State) (cx : Nat) (r : Running), turnOf s cx 0x0702 = some r ∧ Clear r.pkt
    [(8, 9, 0), (8, 24, 16), (8, 47, 32)] ∧ arrCase (gateOf (expireGate s ((r.pkt.at 64 2 % 1024))) ((r.pkt.at 64 2 %
    1024))) (r.pkt.at 68 2) = .early ∧ (keepEarly (expireGate s ((r.pkt.at 64 2 % 1024))) ((r.pkt.at 64 2 % 1024)) (r.pkt.at
    66 1) (r.pkt.at 68 2) false).2 = true ∧ bit (r.pkt.at 67 1) 0 = false :=
  ⟨cmd (gateOn) 0x0702 [5 + 2 ^ 32], 0, run 0x0702 [5 + 2 ^ 32], by decide +kernel⟩

theorem witness_GateCommandsComplete_4 : ∃ (s : State) (cx : Nat) (r : Running), turnOf s cx 0x0703 = some r ∧ Clear r.pkt
    [(8, 9, 0), (8, 31, 16)] :=
  ⟨cmd (gateOn) 0x0703 [5 + 9 * 2 ^ 16], 0, run 0x0703 [5 + 9 * 2 ^ 16], by decide +kernel⟩

theorem witness_GateCommandsComplete_6 : ∃ (s : State) (engine g slot : Nat), (gateOf (expireGate s g) g).inProgress =
    true ∧ (gateOf (expireGate s g) g).members.findIdx? (fun d => mKind d == 0 && mEngine d == engine) = some slot ∧ slot ∉
    (gateOf (expireGate s g) g).arrived :=
  ⟨setGate on 5 { Gate.zero with members := [0xC0], state := 1, deadline := 100 }, 0x30, 5, 0, by decide +kernel⟩

theorem witness_BeaconCommandsComplete_1 : ∃ (s : State) (cx : Nat) (r : Running), turnOf s cx 0x0704 = some r ∧ Clear
    r.pkt [(8, 24, 0), (8, 63, 32), (9, 63, 0)] ∧ r.pkt.at 66 1 ≤ 2 ∧ ((readGrain (tagBeacon s r.pkt.task ((r.pkt.at 64 2)))
    (beaconAddr ((r.pkt.at 64 2)) / 32 * 32))).2.bad = false ∧ condMet (r.pkt.at 66 1) ((fieldAt (grainBytes ((readGrain
    (tagBeacon s r.pkt.task ((r.pkt.at 64 2))) (beaconAddr ((r.pkt.at 64 2)) / 32 * 32))).2.word.data) (beaconAddr
    ((r.pkt.at 64 2)) % 32) 8)) (r.pkt.at 72 8) = true :=
  ⟨cmd (on) 0x0704 [7, 0], 0, run 0x0704 [7, 0], by decide +kernel⟩

theorem witness_BeaconCommandsComplete_2 : ∃ (s : State) (cx : Nat) (r : Running), turnOf s cx 0x0704 = some r ∧ Clear
    r.pkt [(8, 24, 0), (8, 63, 32), (9, 63, 0)] ∧ r.pkt.at 66 1 ≤ 2 ∧ ((readGrain (tagBeacon s r.pkt.task ((r.pkt.at 64 2)))
    (beaconAddr ((r.pkt.at 64 2)) / 32 * 32))).2.bad = false ∧ condMet (r.pkt.at 66 1) ((fieldAt (grainBytes ((readGrain
    (tagBeacon s r.pkt.task ((r.pkt.at 64 2))) (beaconAddr ((r.pkt.at 64 2)) / 32 * 32))).2.word.data) (beaconAddr
    ((r.pkt.at 64 2)) % 32) 8)) (r.pkt.at 72 8) = false ∧ (bit (r.pkt.at 67 1) 0 = true ∨ r.pkt.at 68 4 ≠ 0) :=
  ⟨cmd (on) 0x0704 [7 + 2 ^ 35, 1], 0, run 0x0704 [7 + 2 ^ 35, 1], by decide +kernel⟩

theorem witness_BeaconCommandsComplete_3 : ∃ (s : State) (cx k cond t t0 last : Nat) (v : Word) (r : Running), cmdOf? s cx
    = some r ∧ r.phase = .waitBeacon k cond v false t t0 last ∧ expired s t0 t = true :=
  ⟨withRun (later on 2000) { run 0x0704 [7] with phase := .waitBeacon 7 0 1 false 8 0 5 }, 0, 7, 0, 8, 0, 5, 1, { run 0x0704 [7] with phase := .waitBeacon 7 0 1 false 8 0 5 }, by decide +kernel⟩

theorem witness_BeaconCommandsComplete_4 : ∃ (s : State) (cx : Nat) (r : Running), turnOf s cx 0x0705 = some r ∧ Clear
    r.pkt [(8, 43, 0), (8, 63, 63)] ∧ r.pkt.task ≠ 0 ∧ bit (r.pkt.at 64 8) 63 = false :=
  ⟨withRun on taskRun, 0, taskRun, by decide +kernel⟩

theorem witness_BeaconCommandsComplete_5 : ∃ (s : State) (cx : Nat) (r : Running), turnOf s cx 0x0705 = some r ∧ Clear
    r.pkt [(8, 43, 0), (8, 63, 63)] ∧ r.pkt.task ≠ 0 ∧ bit (r.pkt.at 64 8) 63 = true ∧ (r.pkt.at 64 8 % 2 ^ 44) % 32 = 0 ∧
    inMemory s ((r.pkt.at 64 8 % 2 ^ 44)) 1064960 = true ∧ writeDenied s r.pkt ((r.pkt.at 64 8 % 2 ^ 44)) 1064960 = false :=
  ⟨withRun taskTagged taskListRun, 0, taskListRun, by decide +kernel⟩

theorem witness_BeaconCommandsComplete_6 : ∃ (s : State) (die line : Nat), clocksRun s = true ∧ fld s rHbSigCfg 0 0 = 1 ∧
    bit (fld s rHbSigCfg 7 4) die = true ∧ die < ports s.part / 32 ∧ line < 32 :=
  ⟨setRegW on rHbSigCfg 0x11, 0, 3, by decide +kernel⟩

theorem witness_IntegrityCommandsComplete_1 : ∃ (s : State) (cx : Nat) (r : Running), turnOf s cx 0x0801 = some r ∧ Clear
    r.pkt [(8, 15, 0)] ∧ r.pkt.at 64 1 ≤ 5 ∧ r.pkt.at 65 1 ≤ 5 :=
  ⟨cmd (on) 0x0801 [0x0503], 0, run 0x0801 [0x0503], by decide +kernel⟩

theorem witness_IntegrityCommandsComplete_2 : ∃ (s : State) (cx : Nat) (r : Running) (errors : List TestError), turnOf s
    cx 0x0802 = some r ∧ Clear r.pkt [(8, 63, 0), (9, 15, 0), (10, 43, 0)] ∧ (r.pkt.at 64 1) ≤ 1 ∧ ((r.pkt.at 65 1) = 0 ∨
    (tget? s.integ.packages ((r.pkt.at 65 1))).isSome = true) ∧ ((maskBits (r.pkt.at 66 2) 16)).all (fun q => decide (q <
    quays s.part)) = true ∧ (r.pkt.at 80 8 % 2 ^ 44) % 32 = 0 ∧ leavesRegion s ((r.pkt.at 80 8 % 2 ^ 44)) (32 * ((maskBits
    (r.pkt.at 66 2) 16)).length) = false ∧ writeDenied s r.pkt ((r.pkt.at 80 8 % 2 ^ 44)) (32 * ((maskBits (r.pkt.at 66 2)
    16)).length) = false ∧ r.pkt.at 68 4 ≠ 0 ∧ ((r.pkt.at 64 1) = 1 ∨ ((maskBits (r.pkt.at 66 2) 16)).any (craneWalks s) =
    false) ∧ ((r.pkt.at 64 1) = 0 ∨ ((maskBits (r.pkt.at 66 2) 16)).any (testWaits s) = false) :=
  ⟨cmd (on) 0x0802 [3 * 2 ^ 16 + 2 ^ 32, 0, 0xE0001000000], 0, run 0x0802 [3 * 2 ^ 16 + 2 ^ 32, 0, 0xE0001000000], [], by decide +kernel⟩

theorem witness_IntegrityCommandsComplete_3 : ∃ (s : State) (cx : Nat) (r : Running) (t : State × List (Option Byte)),
    turnOf s cx 0x0803 = some r ∧ Clear r.pkt [(8, 7, 0), (9, 43, 0), (10, 31, 0)] ∧ (r.pkt.at 64 1) ≠ 0 ∧ (r.pkt.at 64 1) ≤
    4 ∧ badSource s ((r.pkt.at 72 8 % 2 ^ 44)) ((r.pkt.at 80 4)) = false ∧ (r.pkt.at 80 4) ≤ 1048576 ∧ readDenied s r.pkt
    ((r.pkt.at 72 8 % 2 ^ 44)) ((r.pkt.at 80 4)) = false ∧ (r.pkt.at 80 4) ≠ 0 ∧ t = readTable s ((r.pkt.at 72 8 % 2 ^ 44))
    ((r.pkt.at 80 4)) ∧ tableBad t.2 = false :=
  ⟨cmd (on) 0x0803 [1, 0xE0001000000, 64], 0, run 0x0803 [1, 0xE0001000000, 64], readTable (cmd (on) 0x0803 [1, 0xE0001000000, 64]) 0xE0001000000 64, by decide +kernel⟩

theorem witness_IntegrityCommandsComplete_4 : ∃ (s : State) (cx : Nat) (r : Running), turnOf s cx 0x0804 = some r ∧ Clear
    r.pkt [(8, 13, 0), (8, 63, 32)] ∧ (r.pkt.at 64 2 % 16384) < banksOf s.part ∧ r.pkt.at 68 4 ≤ 49151 ∧ bankRuns s
    ((r.pkt.at 64 2 % 16384)) = false ∧ (tget s.integ.repaired ((r.pkt.at 64 2 % 16384)) []).length < 32 :=
  ⟨cmd (on) 0x0804 [6 + 2 ^ 32], 0, run 0x0804 [6 + 2 ^ 32], by decide +kernel⟩

theorem witness_IntegrityCommandsComplete_5 : ∃ (s : State) (cx : Nat) (r : Running), cmdOf? s cx = some r ∧ r.phase =
    .repair ∧ r.pkt.opcode = 0x0804 ∧ (r.fast = true ∨ hmRuns s = true) ∧ ((tget s.integ.repaired ((r.pkt.at 64 2 % 16384))
    [])).length < 32 :=
  ⟨withRun on { run 0x0804 [6 + 2 ^ 32] with phase := .repair }, 0, { run 0x0804 [6 + 2 ^ 32] with phase := .repair }, by decide +kernel⟩

theorem witness_IntegrityCommandsComplete_6 : ∃ (s : State) (cx : Nat) (r : Running), turnOf s cx 0x0804 = some r ∧ Clear
    r.pkt [(8, 13, 0), (8, 63, 32)] ∧ (r.pkt.at 64 2 % 16384) < banksOf s.part ∧ r.pkt.at 68 4 ≤ 49151 ∧ bankRuns s
    ((r.pkt.at 64 2 % 16384)) = false ∧ 32 ≤ (tget s.integ.repaired ((r.pkt.at 64 2 % 16384)) []).length :=
  ⟨cmd ({ on with integ := { on.integ with repaired := [(6, List.replicate 32 0)] } }) 0x0804 [6 + 2 ^ 32], 0, run 0x0804 [6 + 2 ^ 32], by decide +kernel⟩

theorem witness_IntegrityCommandsComplete_7 : ∃ (s : State) (cx : Nat) (r : Running), turnOf s cx 0x0805 = some r ∧ Clear
    r.pkt [(9, 43, 0), (10, 43, 0)] ∧ (r.pkt.at 72 8 % 2 ^ 44) % 32 = 0 ∧ scrubbable s ((r.pkt.at 72 8 % 2 ^ 44)) ((r.pkt.at
    80 8 % 2 ^ 44)) = true ∧ (r.pkt.at 80 8 % 2 ^ 44) % 32 = 0 ∧ readDenied s r.pkt ((r.pkt.at 72 8 % 2 ^ 44)) ((r.pkt.at 80
    8 % 2 ^ 44)) = false ∧ (r.pkt.at 80 8 % 2 ^ 44) ≠ 0 ∧ scrubBlocked s ((r.pkt.at 72 8 % 2 ^ 44)) ((r.pkt.at 80 8 % 2 ^
    44)) = false :=
  ⟨cmd (on) 0x0805 [0, 0, 64], 0, run 0x0805 [0, 0, 64], by decide +kernel⟩

theorem witness_ScrubRowVisitCompletes_1 : ∃ (s : State) (q b row : Nat), q < quays s.part ∧ fld s (rQyScrubCfg q) 15 0 ≠
    0 ∧ q ∉ s.pow.doze ∧ q ∉ s.pow.waking ∧ s.pow.harbour = .active ∧ scrubNext s q = .inOrder b row ∧ bankRuns s b = false
    :=
  ⟨setFld on (rQyScrubCfg 2) 15 0 100, 2, 2048, 0, by decide +kernel⟩

theorem witness_ScrubRowVisitCompletes_2 : ∃ (s : State) (q b row : Nat), q < quays s.part ∧ fld s (rQyScrubCfg q) 15 0 ≠
    0 ∧ q ∉ s.pow.doze ∧ q ∉ s.pow.waking ∧ s.pow.harbour = .active ∧ scrubNext s q = .inOrder b row ∧ bankRuns s b = true
    :=
  ⟨setBank (setFld on (rQyScrubCfg 2) 15 0 100) 2048 { Bank.zero with compute := true, run := some { BOp.fresh reduceImage 0 0 none none 0 with phase := .granted } }, 2, 2048, 0, by decide +kernel⟩

theorem witness_ScrubRowVisitCompletes_3 : ∃ (s : State) (q b row : Nat), q < quays s.part ∧ fld s (rQyScrubCfg q) 15 0 ≠
    0 ∧ q ∉ s.pow.doze ∧ q ∉ s.pow.waking ∧ s.pow.harbour = .active ∧ scrubNext s q = .due b row :=
  ⟨{ setFld on (rQyScrubCfg 2) 15 0 100 with integ := { on.integ with skipped := [2049] } }, 2, 2049, 49151, by decide +kernel⟩

theorem witness_ContinuityCommandsComplete_1 : ∃ (s : State) (cx : Nat) (r : Running) (x : Pset), turnOf s cx 0x0901 =
    some r ∧ Clear r.pkt checkpointLayout ∧ setOf? s ((r.pkt.at 64 2)) = some x ∧ (r.pkt.at 68 4) + (r.pkt.at 72 4) ≤
    x.total ∧ (r.pkt.at 80 8 % 2 ^ 44) % 32 = 0 ∧ inSoftware s ((r.pkt.at 80 8 % 2 ^ 44)) ((recordsSize x (bit (r.pkt.at 66
    1) 0) ((r.pkt.at 72 4)))) = true ∧ (recordsSize x (bit (r.pkt.at 66 1) 0) ((r.pkt.at 72 4))) ≤ r.pkt.at 88 8 ∧
    r.pkt.hasRight s rightWrite ((r.pkt.at 80 8 % 2 ^ 44)) ((recordsSize x (bit (r.pkt.at 66 1) 0) ((r.pkt.at 72 4)))) =
    true ∧ (r.pkt.at 72 4) ≠ 0 ∧ copyRuns s cx ((r.pkt.at 64 2)) = false ∧ ((recordsOf x ((r.pkt.at 64 2)) (bit (r.pkt.at 66
    1) 0) ((r.pkt.at 68 4)) ((r.pkt.at 72 4)) r.seed)).2 = 0 :=
  ⟨cmd (onSet) 0x0901 [2 ^ 32 * 0, 1, 0xE0001000000, 2 ^ 20], 0, run 0x0901 [2 ^ 32 * 0, 1, 0xE0001000000, 2 ^ 20], setReady, by decide +kernel⟩

theorem witness_ContinuityCommandsComplete_2 : ∃ (s : State) (cx : Nat) (r : Running) (x : Pset), turnOf s cx 0x0901 =
    some r ∧ Clear r.pkt checkpointLayout ∧ setOf? s ((r.pkt.at 64 2)) = some x ∧ (r.pkt.at 68 4) + (r.pkt.at 72 4) ≤
    x.total ∧ (r.pkt.at 80 8 % 2 ^ 44) % 32 = 0 ∧ inSoftware s ((r.pkt.at 80 8 % 2 ^ 44)) ((recordsSize x (bit (r.pkt.at 66
    1) 0) ((r.pkt.at 72 4)))) = true ∧ (recordsSize x (bit (r.pkt.at 66 1) 0) ((r.pkt.at 72 4))) ≤ r.pkt.at 88 8 ∧
    r.pkt.hasRight s rightWrite ((r.pkt.at 80 8 % 2 ^ 44)) ((recordsSize x (bit (r.pkt.at 66 1) 0) ((r.pkt.at 72 4)))) =
    true ∧ (r.pkt.at 72 4) ≠ 0 ∧ copyRuns s cx ((r.pkt.at 64 2)) = false ∧ ((recordsOf x ((r.pkt.at 64 2)) (bit (r.pkt.at 66
    1) 0) ((r.pkt.at 68 4)) ((r.pkt.at 72 4)) r.seed)).2 ≠ 0 :=
  ⟨cmd (putSet on 0 poisonSet) 0x0901 [2 ^ 32 * 0, 1, 0xE0001000000, 2 ^ 20], 0, run 0x0901 [2 ^ 32 * 0, 1, 0xE0001000000, 2 ^ 20], poisonSet, by decide +kernel⟩

theorem witness_ContinuityCommandsComplete_3 : ∃ (s : State) (cx : Nat) (r : Running) (x : Pset) (h a : Nat), turnOf s cx
    0x0906 = some r ∧ Clear r.pkt shardLayout ∧ setOf? s ((r.pkt.at 64 2)) = some x ∧ (r.pkt.at 80 8) % 32 = 0 ∧ expPlace s
    ((r.pkt.at 80 8)) = .away h a ∧ regionOfRange s.part a ((recordsSize x true x.total)) = some .dram ∧ (recordsSize x true
    x.total) ≤ r.pkt.at 88 8 ∧ globalDenied s r.pkt ((r.pkt.at 80 8)) ((recordsSize x true x.total)) = false ∧ copyRuns s cx
    ((r.pkt.at 64 2)) = false :=
  ⟨cmd (twoHarbours) 0x0906 [0, 0, 2 ^ 46, 2 ^ 20], 0, run 0x0906 [0, 0, 2 ^ 46, 2 ^ 20], setReady, 1, 0, by decide +kernel⟩

theorem witness_ContinuityCommandsComplete_4 : ∃ (s : State) (cx : Nat) (r : Running) (x : Pset), turnOf s cx 0x0904 =
    some r ∧ Clear r.pkt [(8, 15, 0)] ∧ setOf? s (r.pkt.at 64 2) = some x ∧ x.isDispatch = false :=
  ⟨cmd (onSet) 0x0904 [0], 0, run 0x0904 [0], setReady, by decide +kernel⟩

theorem witness_ContinuityCommandsComplete_5 : ∃ (s : State) (cx : Nat) (r : Running) (flips : List Flip) (x : Pset),
    turnOf s cx 0x0903 = some r ∧ Clear r.pkt [(8, 23, 0), (8, 63, 32), (9, 31, 0), (10, 43, 0)] ∧ setOf? s ((r.pkt.at 64
    2)) = some x ∧ r.pkt.at 66 1 < quays s.part ∧ (r.pkt.at 68 4) + (r.pkt.at 72 4) ≤ x.total ∧ (r.pkt.at 80 8 % 2 ^ 44) %
    32 = 0 ∧ inSoftware s ((r.pkt.at 80 8 % 2 ^ 44)) ((r.pkt.at 72 4) * replaySize x) = true ∧ r.pkt.hasRight s rightWrite
    ((r.pkt.at 80 8 % 2 ^ 44)) ((r.pkt.at 72 4) * replaySize x) = true ∧ (r.pkt.at 72 4) ≠ 0 ∧ replayFault x ((r.pkt.at 68
    4)) ((r.pkt.at 72 4)) = none :=
  ⟨cmd (putSet on 0 committed) 0x0903 [0, 1, 0xE0001000000], 0, run 0x0903 [0, 1, 0xE0001000000], [], committed, by decide +kernel⟩

theorem witness_ContinuityCommandsComplete_6 : ∃ (s : State) (cx : Nat) (r : Running), turnOf s cx 0x0905 = some r ∧ Clear
    r.pkt [(8, 7, 0), (9, 63, 0)] ∧ r.pkt.at 64 1 ≤ 1 ∧ (maskBits ((r.pkt.at 72 8)) 64).all (fun e => engineListed e &&
    !engineAbsent s e) = true ∧ (r.pkt.at 72 8) ≠ 0 :=
  ⟨cmd (on) 0x0905 [1, 2 ^ 48], 0, run 0x0905 [1, 2 ^ 48], by decide +kernel⟩

theorem witness_ContinuityCommandsComplete_7 : ∃ (s : State), s.pow.harbour ≠ .off ∧ fld s rPlSnapCtl 0 0 = 1 :=
  ⟨setFld on rPlSnapCtl 0 0 1, by decide +kernel⟩

theorem witness_RestoresComplete : ∃ (s : State) (cx : Nat) (r : Running) (x : Pset) (t : State × List (Option Byte)) (a :
    RecAcc), turnOf s cx 0x0902 = some r ∧ Clear r.pkt restoreLayout ∧ setOf? s ((r.pkt.at 64 2)) = some x ∧ r.pkt.at 66 1 ≤
    1 ∧ (r.pkt.at 72 8 % 2 ^ 44) % 32 = 0 ∧ inSoftware s ((r.pkt.at 72 8 % 2 ^ 44)) ((r.pkt.at 80 8)) = true ∧ readDenied s
    r.pkt ((r.pkt.at 72 8 % 2 ^ 44)) ((r.pkt.at 80 8)) = false ∧ (r.pkt.at 80 8) ≠ 0 ∧ t = readTable s ((r.pkt.at 72 8 % 2 ^
    44)) ((r.pkt.at 80 8)) ∧ readRecords x ((r.pkt.at 66 1 == 0)) ((r.pkt.at 80 8) / 32 + 1) t.2 RecAcc.none0 = .done a ∧
    (if (r.pkt.at 66 1 == 0) then fullBusy s cx ((r.pkt.at 64 2)) x else patchBusy s cx ((r.pkt.at 64 2)) x a) = false ∧
    a.poison = none ∧ (if bit (r.pkt.at 67 1) 0 then verifyFault x r.seed ((r.pkt.at 66 1 == 0)) a else none) = none :=
  ⟨restoreOn, 0, restoreRun, emptySet, readTable restoreOn 0xE0001000000 restoreLen, restoreAcc, by decide +kernel⟩

theorem witness_FirmwareCommandsComplete_1 : ∃ (s : State) (cx : Nat) (r : Running), turnOf s cx 0x0A01 = some r ∧ Clear
    r.pkt [(8, 15, 0), (8, 23, 16)] ∧ r.pkt.at 66 1 ≤ 1 ∧ r.pkt.at 64 2 < 2 ^ quays s.part ∧ r.pkt.at 64 2 ≠ 0 :=
  ⟨cmd (on) 0x0A01 [3 + 2 ^ 16], 0, run 0x0A01 [3 + 2 ^ 16], by decide +kernel⟩

theorem witness_FirmwareCommandsComplete_2 : ∃ (s : State) (cx : Nat) (r : Running), turnOf s cx 0x0A02 = some r ∧ Clear
    r.pkt [(8, 0, 0), (9, 47, 0)] ∧ moorBusy s cx = false ∧ (winOf ((complete
    { s with pow := { s.pow with wakeAfter := r.pkt.at 72 6 } } cx stDONE 0)) r.pkt.win).held.length ≤ (winOf s
    r.pkt.win).held.length :=
  ⟨cmd (on) 0x0A02 [1], 0, run 0x0A02 [1], by decide +kernel⟩

theorem witness_FirmwareCommandsComplete_3 : ∃ (s : State) (cx : Nat) (r : Running), turnOf s cx 0x0A02 = some r ∧ Clear
    r.pkt [(8, 0, 0), (9, 47, 0)] ∧ moorBusy s cx = false ∧ (winOf s r.pkt.win).held.length < (winOf ((complete
    { s with pow := { s.pow with wakeAfter := r.pkt.at 72 6 } } cx stDONE 0)) r.pkt.win).held.length :=
  ⟨withRun (setWin on 0 { Window.zero with enable := true, base := 0xE0001000000, size := 1, prod := 2 }) moorRun, 0, moorRun, by decide +kernel⟩

theorem witness_FirmwareCommandsComplete_4 : ∃ (s : State) (cx : Nat) (r : Running), turnOf s cx 0x0B01 = some r ∧ Clear
    r.pkt [] ∧ saveBefore s cx = false :=
  ⟨cmd (on) 0x0B01 [], 0, run 0x0B01 [], by decide +kernel⟩

theorem witness_FirmwareCommandsComplete_5 : ∃ (s : State) (cx : Nat) (r : Running) (q : CfgSave), cmdOf? s cx = some r ∧
    r.phase = .save q ∧ hmRuns s = true :=
  ⟨withRun on { run 0x0B01 [] with phase := .save { regs := [], arenas := [] } }, 0, { run 0x0B01 [] with phase := .save { regs := [], arenas := [] } }, { regs := [], arenas := [] }, by decide +kernel⟩

theorem witness_FirmwareCommandsComplete_6 : ∃ (s : State) (cx : Nat) (r : Running), turnOf s cx 0x0B02 = some r ∧ Clear
    r.pkt [(8, 7, 0), (8, 63, 32), (9, 31, 0), (10, 43, 0)] ∧ (r.pkt.at 64 1) ≤ 5 ∧ r.pkt.at 68 4 + (r.pkt.at 72 4) ≤
    areaSize ((r.pkt.at 64 1)) ∧ (r.pkt.at 80 8 % 2 ^ 44) % 32 = 0 ∧ inSoftware s ((r.pkt.at 80 8 % 2 ^ 44)) ((r.pkt.at 72
    4)) = true ∧ r.pkt.hasRight s rightWrite ((r.pkt.at 80 8 % 2 ^ 44)) ((r.pkt.at 72 4)) = true ∧ (r.pkt.at 72 4) ≠ 0 :=
  ⟨cmd (on) 0x0B02 [0, 8, 0xE0001000000], 0, run 0x0B02 [0, 8, 0xE0001000000], by decide +kernel⟩

theorem witness_BulkPacketsComplete_1 : ∃ (s s1 : State) (src : LandSrc) (hdr : BitVec 256) (payload : List Codeword) (p :
    Packet) (t0 t : State), arrived s src hdr payload (ofType tyWRITE) = some (s1, p) ∧ holdRoom s src = true ∧ landTry
    (landTicks s1) p = (t0, .done t) :=
  ⟨on, on, .port 1, ({ newHdr on tyWRITE 0 with len := 1, target := bankAddr .z16 0 0x2000 }).toBits, [codewordOf 5], { hdr := { newHdr on tyWRITE 0 with len := 1, target := bankAddr .z16 0 0x2000 }, payload := [codewordOf 5] }, on, landed on { newHdr on tyWRITE 0 with len := 1, target := bankAddr .z16 0 0x2000 }, by decide +kernel⟩

theorem witness_BulkPacketsComplete_2 : ∃ (s s1 : State) (src : LandSrc) (hdr : BitVec 256) (payload : List Codeword) (p :
    Packet) (t0 t : State), arrived s src hdr payload (ofType tyTOKEN) = some (s1, p) ∧ holdRoom s src = true ∧ landTry
    (landTicks s1) p = (t0, .done t) :=
  ⟨on, on, .port 1, ({ newHdr on tyTOKEN 0 with len := 1 }).toBits, [codewordOf 5], { hdr := { newHdr on tyTOKEN 0 with len := 1 }, payload := [codewordOf 5] }, on, landed on { newHdr on tyTOKEN 0 with len := 1 }, by decide +kernel⟩

theorem witness_BulkPacketsComplete_3 : ∃ (s s1 : State) (src : LandSrc) (hdr : BitVec 256) (payload : List Codeword) (p :
    Packet) (t0 t : State), arrived s src hdr payload (ofType tyCONTRIB) = some (s1, p) ∧ holdRoom s src = true ∧ landTry
    (landTicks s1) p = (t0, .done t) :=
  ⟨on, on, .port 1, ({ newHdr on tyCONTRIB 0 with len := 1 }).toBits, [codewordOf 5], { hdr := { newHdr on tyCONTRIB 0 with len := 1 }, payload := [codewordOf 5] }, on, landed on { newHdr on tyCONTRIB 0 with len := 1 }, by decide +kernel⟩

theorem witness_BulkPacketsComplete_4 : ∃ (s s1 t : State) (n : Nat) (hdr : BitVec 256) (payload : List Codeword) (p :
    Packet) (b : Bool), arrived s (.port n) hdr payload (ofType tyWRITE) = some (s1, p) ∧ (holdOf s n).length < 32 ∧ landTry
    (landTicks s1) p = (t, .stall b) :=
  ⟨onDeclared, onDeclared, onDeclared, 1, ({ newHdr on tyWRITE 0 with len := 1, target := bankAddr .z16 0 0x2000 }).toBits, [codewordOf 5], { hdr := { newHdr on tyWRITE 0 with len := 1, target := bankAddr .z16 0 0x2000 }, payload := [codewordOf 5] }, false, by decide +kernel⟩

theorem witness_BulkPacketsComplete_5 : ∃ (s s1 t : State) (n : Nat) (hdr : BitVec 256) (payload : List Codeword) (p :
    Packet) (b : Bool), arrived s (.port n) hdr payload (ofType tyTOKEN) = some (s1, p) ∧ (holdOf s n).length < 32 ∧ landTry
    (landTicks s1) p = (t, .stall b) :=
  ⟨onFull, onFull, landTicks onFull, 1, ({ newHdr on tyTOKEN 0 with len := 1, manValid := true, manifest := 3, gen := 9 }).toBits, [codewordOf 5], { hdr := { newHdr on tyTOKEN 0 with len := 1, manValid := true, manifest := 3, gen := 9 }, payload := [codewordOf 5] }, true, by decide +kernel⟩

theorem witness_BulkPacketsComplete_6 : ∃ (s s1 t : State) (n : Nat) (hdr : BitVec 256) (payload : List Codeword) (p :
    Packet) (b : Bool), arrived s (.port n) hdr payload (ofType tyCONTRIB) = some (s1, p) ∧ (holdOf s n).length < 32 ∧
    landTry (landTicks s1) p = (t, .stall b) :=
  ⟨onFull, onFull, landTicks onFull, 1, ({ newHdr on tyCONTRIB 0 with len := 16, arg := 8, manValid := true, manifest := 3, gen := 9 }).toBits, List.replicate 16 (codewordOf 5), { hdr := { newHdr on tyCONTRIB 0 with len := 16, arg := 8, manValid := true, manifest := 3, gen := 9 }, payload := List.replicate 16 (codewordOf 5) }, true, by decide +kernel⟩

theorem witness_BulkPacketsComplete_7 : ∃ (s s1 t : State) (i : Nat) (hdr : BitVec 256) (payload : List Codeword) (p :
    Packet) (b : Bool), arrived s (.loop i) hdr payload (ofType tyWRITE) = some (s1, p) ∧ landTry (landTicks s1) p = (t,
    .stall b) :=
  ⟨({ onDeclared with land := { onDeclared.land with loop := [{ hdr := { newHdr on tyWRITE 0 with len := 1, target := bankAddr .z16 0 0x2000 }, payload := [codewordOf 5] }] } } : State), onDeclared, onDeclared, 0, 0, [], { hdr := { newHdr on tyWRITE 0 with len := 1, target := bankAddr .z16 0 0x2000 }, payload := [codewordOf 5] }, false, by decide +kernel⟩

theorem witness_BulkPacketsComplete_8 : ∃ (s s1 t : State) (i : Nat) (hdr : BitVec 256) (payload : List Codeword) (p :
    Packet) (b : Bool), arrived s (.loop i) hdr payload (ofType tyTOKEN) = some (s1, p) ∧ landTry (landTicks s1) p = (t,
    .stall b) :=
  ⟨({ onFull with land := { onFull.land with loop := [{ hdr := { newHdr on tyTOKEN 0 with len := 1, manValid := true, manifest := 3, gen := 9 }, payload := [codewordOf 5] }] } } : State), onFull, onFull, 0, 0, [], { hdr := { newHdr on tyTOKEN 0 with len := 1, manValid := true, manifest := 3, gen := 9 }, payload := [codewordOf 5] }, true, by decide +kernel⟩

theorem witness_BulkPacketsComplete_9 : ∃ (s s1 t : State) (i : Nat) (hdr : BitVec 256) (payload : List Codeword) (p :
    Packet) (b : Bool), arrived s (.loop i) hdr payload (ofType tyCONTRIB) = some (s1, p) ∧ landTry (landTicks s1) p = (t,
    .stall b) :=
  ⟨({ onFull with land := { onFull.land with loop := [{ hdr := { newHdr on tyCONTRIB 0 with len := 16, arg := 8, manValid := true, manifest := 3, gen := 9 }, payload := List.replicate 16 (codewordOf 5) }] } } : State), onFull, onFull, 0, 0, [], { hdr := { newHdr on tyCONTRIB 0 with len := 16, arg := 8, manValid := true, manifest := 3, gen := 9 }, payload := List.replicate 16 (codewordOf 5) }, true, by decide +kernel⟩

theorem witness_BulkPacketsComplete_10 : ∃ (s : State) (n : Nat) (hdr : BitVec 256) (payload : List Codeword), 32 ≤
    (holdOf s n).length :=
  ⟨fullHold, 1, 0, [], by decide +kernel⟩

theorem witness_BulkPacketsComplete_11 : ∃ (s : State) (n : Nat) (hdr : BitVec 256) (payload : List Codeword), 32 ≤
    (holdOf s n).length :=
  ⟨fullHold, 1, 0, [], by decide +kernel⟩

theorem witness_BulkPacketsComplete_12 : ∃ (s : State) (n : Nat) (hdr : BitVec 256) (payload : List Codeword), 32 ≤
    (holdOf s n).length :=
  ⟨fullHold, 1, 0, [], by decide +kernel⟩

theorem witness_MessagePacketsComplete_1 : ∃ (s s1 : State) (src : LandSrc) (hdr : BitVec 256) (payload : List Codeword)
    (p : Packet), arrived s src hdr payload (ofType tyACK) = some (s1, p) :=
  ⟨on, on, .port 1, (newHdr on tyACK 0).toBits, [], { hdr := newHdr on tyACK 0, payload := [] }, by decide +kernel⟩

theorem witness_MessagePacketsComplete_2 : ∃ (s s1 : State) (src : LandSrc) (hdr : BitVec 256) (payload : List Codeword)
    (p : Packet), arrived s src hdr payload (ofType tyREFUSE) = some (s1, p) :=
  ⟨onV3, onV3, .port 1, (newHdr onV3 tyREFUSE 0).toBits, [], { hdr := newHdr onV3 tyREFUSE 0, payload := [] }, by decide +kernel⟩

theorem witness_MessagePacketsComplete_3 : ∃ (s s1 : State) (src : LandSrc) (hdr : BitVec 256) (payload : List Codeword)
    (p : Packet) (m : GateMsg), arrived s src hdr payload (fun q => ofType tyGATE q && (gateMsgOf q).any (fun x => x.msg ==
    0)) = some (s1, p) ∧ gateMsgOf p = some m :=
  ⟨on, on, .port 1, ({ newHdr on tyGATE 0 with len := 1 }).toBits, [codewordOf (BitVec.ofNat 256 (0 + 5 * 2 ^ 16))], { hdr := { newHdr on tyGATE 0 with len := 1 }, payload := [codewordOf (BitVec.ofNat 256 (0 + 5 * 2 ^ 16))] }, GateMsg.ofGrain (5 * 2 ^ 16), by decide +kernel⟩

theorem witness_MessagePacketsComplete_4 : ∃ (s s1 : State) (src : LandSrc) (hdr : BitVec 256) (payload : List Codeword)
    (p : Packet) (m : GateMsg), arrived s src hdr payload (fun q => ofType tyGATE q && (gateMsgOf q).any (fun x => x.msg ==
    1)) = some (s1, p) ∧ gateMsgOf p = some m :=
  ⟨on, on, .port 1, ({ newHdr on tyGATE 0 with len := 1 }).toBits, [codewordOf (BitVec.ofNat 256 (1 + 5 * 2 ^ 16))], { hdr := { newHdr on tyGATE 0 with len := 1 }, payload := [codewordOf (BitVec.ofNat 256 (1 + 5 * 2 ^ 16))] }, GateMsg.ofGrain (1 + 5 * 2 ^ 16), by decide +kernel⟩

theorem witness_MessagePacketsComplete_5 : ∃ (s s1 : State) (src : LandSrc) (hdr : BitVec 256) (payload : List Codeword)
    (p : Packet) (m : GateMsg), arrived s src hdr payload (fun q => ofType tyGATE q && (gateMsgOf q).any (fun x => x.msg ==
    2)) = some (s1, p) ∧ gateMsgOf p = some m :=
  ⟨on, on, .port 1, ({ newHdr on tyGATE 0 with len := 1 }).toBits, [codewordOf (BitVec.ofNat 256 (2 + 5 * 2 ^ 16))], { hdr := { newHdr on tyGATE 0 with len := 1 }, payload := [codewordOf (BitVec.ofNat 256 (2 + 5 * 2 ^ 16))] }, GateMsg.ofGrain (2 + 5 * 2 ^ 16), by decide +kernel⟩

theorem witness_MessagePacketsComplete_6 : ∃ (s s1 : State) (src : LandSrc) (hdr : BitVec 256) (payload : List Codeword)
    (p : Packet) (g : Grain), arrived s src hdr payload (ofType tyPILOT) = some (s1, p) ∧ payloadGrain p 0 = some g ∧ bits
    (g.setWidth 128).toNat 7 0 = 2 :=
  ⟨on, on, .port 1, ({ newHdr on tyPILOT 0 with len := 1 }).toBits, [codewordOf 2], { hdr := { newHdr on tyPILOT 0 with len := 1 }, payload := [codewordOf 2] }, 2, by decide +kernel⟩

theorem witness_MessagePacketsComplete_7 : ∃ (s s1 : State) (src : LandSrc) (hdr : BitVec 256) (payload : List Codeword)
    (p : Packet) (g : Grain), arrived s src hdr payload (ofType tyPILOT) = some (s1, p) ∧ payloadGrain p 0 = some g ∧ bits
    (g.setWidth 128).toNat 7 0 = 3 :=
  ⟨on, on, .port 1, ({ newHdr on tyPILOT 0 with len := 1 }).toBits, [codewordOf 3], { hdr := { newHdr on tyPILOT 0 with len := 1 }, payload := [codewordOf 3] }, 3, by decide +kernel⟩

theorem witness_MessagePacketsComplete_8 : ∃ (s s1 : State) (src : LandSrc) (hdr : BitVec 256) (payload : List Codeword)
    (p : Packet) (gs : List Grain) (x : Pset), arrived s src hdr payload (ofType tyNORM) = some (s1, p) ∧ normGrains p =
    some gs ∧ setOf? s1 (bits (((gs.getD 64 0).toNat)) 79 64) = some x ∧ x.sw.phase = .normSent ∧ bits (((gs.getD 64
    0).toNat)) 127 80 = x.ep.step + 1 :=
  ⟨putSet on 0 normSent, putSet on 0 normSent, .port 1, ({ newHdr on tyNORM 0 with len := 65 }).toBits, normWords, { hdr := { newHdr on tyNORM 0 with len := 65 }, payload := normWords }, normWords.map (·.data), normSent, by decide +kernel⟩

theorem witness_MessagePacketsComplete_9 : ∃ (s s1 : State) (src : LandSrc) (hdr : BitVec 256) (payload : List Codeword)
    (p : Packet) (gs : List Grain), arrived s src hdr payload (ofType tyNORM) = some (s1, p) ∧ normGrains p = some gs ∧
    (setOf? s1 (bits (((gs.getD 64 0).toNat)) 79 64)).all (fun x => x.sw.phase != .normSent || bits (((gs.getD 64 0).toNat))
    127 80 != x.ep.step + 1) = true :=
  ⟨on, on, .port 1, ({ newHdr on tyNORM 0 with len := 65 }).toBits, normWords, { hdr := { newHdr on tyNORM 0 with len := 65 }, payload := normWords }, normWords.map (·.data), by decide +kernel⟩

theorem witness_MessagePacketsComplete_10 : ∃ (s s1 : State) (src : LandSrc) (hdr : BitVec 256) (payload : List Codeword)
    (p : Packet), arrived s src hdr payload (ofType tyNORM) = some (s1, p) ∧ normGrains p = none :=
  ⟨on, on, .port 1, ({ newHdr on tyNORM 0 with len := 65 }).toBits, badWords, { hdr := { newHdr on tyNORM 0 with len := 65 }, payload := badWords }, by decide +kernel⟩

theorem witness_LandingEventsComplete_1 : ∃ (s : State) (m gen : Nat) (x : Manifest), s.pow.harbour = .active ∧
    finalisingOf s m gen = some x ∧ x.tallied = false ∧ (setOf? s x.pset = none ∨ (setOf? s x.pset).any (fun y => y.held) =
    false) :=
  ⟨setMan on 3 { manOne with state := .finalising }, 3, 1, { manOne with state := .finalising }, by decide +kernel⟩

theorem witness_LandingEventsComplete_2 : ∃ (s : State) (m gen : Nat) (x : Manifest), s.pow.harbour = .active ∧
    finalisingOf s m gen = some x ∧ x.tallied = true ∧ (setOf? s x.pset = none ∨ (setOf? s x.pset).any (fun y => y.held) =
    false) :=
  ⟨setMan on 3 { manOne with state := .finalising, tallied := true }, 3, 1, { manOne with state := .finalising, tallied := true }, by decide +kernel⟩

theorem witness_LandingEventsComplete_3 : ∃ (s : State) (m : Nat), manDue s m = true :=
  ⟨later manOn 2000, 3, by decide +kernel⟩

theorem witness_LandingEventsComplete_4 : ∃ (s : State) (e : AnchEntry) (p : Packet), s.land.entries.find? (fun f => f.id
    == e.id) = some e ∧ parkDue s e = true ∧ e.pkt = some p :=
  ⟨parkedOn, parkedEntry, { hdr := newHdr on tyWRITE 0, payload := [] }, by decide +kernel⟩

theorem witness_LandingEventsComplete_5 : ∃ (s : State) (source : Nat), (sourceOf s (srcKey source)).plain ≠ 0 ∧ fld s
    rLdCfg 31 8 ≠ 0 ∧ expired s (sourceOf s (srcKey source)).tPlain (fld s rLdCfg 31 8) = true :=
  ⟨ackedOn, 7, by decide +kernel⟩

theorem witness_LandingEventsComplete_6 : ∃ (s : State) (source : Nat), (sourceOf s (srcKey source)).final ≠ 0 ∧ fld s
    rLdCfg 31 8 ≠ 0 ∧ expired s (sourceOf s (srcKey source)).tFinal (fld s rLdCfg 31 8) = true :=
  ⟨ackedOn, 7, by decide +kernel⟩

theorem witness_LandingEventsComplete_7 : ∃ (s : State) (port : Nat), landUp s = true :=
  ⟨on, 8, by decide +kernel⟩

theorem witness_WalkEventsComplete_1 : ∃ (s : State) (cx : Nat) (t : List Nat) (r : Running), hmRuns s = true ∧ s.walk.set
    = none ∧ s.walk.wait = cx :: t ∧ cmdOf? s cx = some r :=
  ⟨{ withRun onDecided { run 0x0401 [0] with phase := .sweepCrane } with walk := { on.walk with wait := [0] } }, 0, [], { run 0x0401 [0] with phase := .sweepCrane }, by decide +kernel⟩

theorem witness_WalkEventsComplete_2 : ∃ (s : State) (n k : Nat) (residue : Option Nat) (flips : List Flip) (x : Pset),
    s.walk.set = some n ∧ setOf? s n = some x ∧ x.sw.phase = .walking ∧ k < x.total ∧ (x.con k).visited = false ∧ (x.con
    k).residue = false ∧ inWindow s x k = true ∧ (hmRuns s = true ∨ servedAhead s n k = false) ∧ homeQuay s k ∉
    s.walk.powerHeld ∧ x.unreadable k x.ep.active = false ∧ (x.con k).progress = false :=
  ⟨walkOn walking, 0, 0, none, [], walking, by decide +kernel⟩

theorem witness_WalkEventsComplete_3 : ∃ (s : State) (n k : Nat) (residue : Option Nat) (flips : List Flip) (x : Pset),
    s.walk.set = some n ∧ setOf? s n = some x ∧ x.sw.phase = .walking ∧ k < x.total ∧ (x.con k).visited = false ∧ (x.con
    k).residue = false ∧ inWindow s x k = true ∧ (hmRuns s = true ∨ servedAhead s n k = false) ∧ homeQuay s k ∉
    s.walk.powerHeld ∧ x.unreadable k x.ep.active = false ∧ (x.con k).progress = true :=
  ⟨walkOn progressSet, 0, 0, none, [], progressSet, by decide +kernel⟩

theorem witness_WalkEventsComplete_4 : ∃ (s : State) (n k : Nat) (residue : Option Nat) (flips : List Flip) (x : Pset),
    s.walk.set = some n ∧ setOf? s n = some x ∧ x.sw.phase = .walking ∧ k < x.total ∧ (x.con k).visited = false ∧ (x.con
    k).residue = false ∧ inWindow s x k = true ∧ (hmRuns s = true ∨ servedAhead s n k = false) ∧ homeQuay s k ∉
    s.walk.powerHeld ∧ x.unreadable k x.ep.active = true :=
  ⟨walkOn poisonSet, 0, 0, none, [], poisonSet, by decide +kernel⟩

theorem witness_WalkEventsComplete_5 : ∃ (s : State) (n k : Nat) (residue : Option Nat) (flips : List Flip) (x : Pset),
    s.walk.set = some n ∧ setOf? s n = some x ∧ x.sw.phase = .walking ∧ k < x.total ∧ (x.con k).visited = false ∧ (x.con
    k).residue = false ∧ inWindow s x k = true ∧ (hmRuns s = true ∨ servedAhead s n k = false) ∧ homeQuay s k ∈
    s.walk.powerHeld :=
  ⟨{ walkOn walking with walk := { (walkOn walking).walk with powerHeld := [0] } }, 0, 0, none, [], walking, by decide +kernel⟩

theorem witness_WalkEventsComplete_6 : ∃ (s : State) (n : Nat) (x : Pset), s.walk.set = some n ∧ setOf? s n = some x ∧
    x.sw.phase = .walking ∧ hmRuns s = true ∧ x.sw.poisoned = 0 ∧ (List.range x.total).all (fun k => (x.con k).visited &&
    (x.con k).progress && (x.con k).cleared) = true :=
  ⟨walkOn sweptSet, 0, sweptSet, by decide +kernel⟩

theorem witness_DuplicateCheckCompletes_1 : ∃ (s : State) (n k : Nat) (partner third : List Flip) (x : Pset) (o : ConOut),
    hmRuns s = true ∧ s.walk.set = some n ∧ setOf? s n = some x ∧ x.sw.phase = .walking ∧ k < x.total ∧ x.walkCon k = some o
    ∧ (x.con k).residue = true :=
  ⟨walkOn residueSet, 0, 0, [], [], residueSet, (residueSet.walkCon 0).get (by decide +kernel), by decide +kernel, by decide +kernel, by decide +kernel, by decide +kernel, by decide +kernel, (Option.some_get _).symm, by decide +kernel⟩

theorem witness_DuplicateCheckCompletes_2 : ∃ (s : State) (n k : Nat) (partner third : List Flip) (x : Pset) (o : ConOut),
    hmRuns s = true ∧ s.walk.set = some n ∧ setOf? s n = some x ∧ x.sw.phase = .walking ∧ k < x.total ∧ x.walkCon k = some o
    ∧ (x.con k).residue = false ∧ (x.con k).visited = true ∧ (x.con k).progress = true ∧ (x.con k).selected = true ∧ (x.con
    k).checked = false :=
  ⟨walkOn dupSet, 0, 0, [], [], dupSet, (dupSet.walkCon 0).get (by decide +kernel), by decide +kernel, by decide +kernel, by decide +kernel, by decide +kernel, by decide +kernel, (Option.some_get _).symm, by decide +kernel⟩

theorem witness_RoundEventsComplete_1 : ∃ (s : State) (n : Nat) (x : Pset), setOf? s n = some x ∧ (!x.isDispatch &&
    x.sw.phase == .idle && x.allFinal && !x.ep.expelled && !x.ep.disputed && hmRuns s) = true ∧ (x.pr.localOnly = true ∨
    countNum s = 1) :=
  ⟨putSet on 0 doneSet, 0, doneSet, by decide +kernel⟩

theorem witness_RoundEventsComplete_2 : ∃ (s : State) (n : Nat) (x : Pset), setOf? s n = some x ∧ (!x.isDispatch &&
    x.sw.phase == .idle && x.allFinal && !x.ep.expelled && !x.ep.disputed && hmRuns s) = true ∧ x.pr.localOnly = false ∧
    countNum s ≠ 1 :=
  ⟨putSet twoHarbours 0 rootSet, 0, rootSet, by decide +kernel⟩

theorem witness_RoundEventsComplete_3 : ∃ (s : State) (n : Nat) (x : Pset), clocksRun s = true ∧ setOf? s n = some x ∧
    x.pr.pending = true ∧ x.pr.digTimeout ≠ 0 ∧ expired s x.pr.pendTick (x.pr.digTimeout * 1024) = true :=
  ⟨later (putSet on 0 { setReady with pr := { setReady.pr with pending := true } }) 500000, 0, { setReady with pr := { setReady.pr with pending := true } }, by decide +kernel⟩

theorem witness_RoundEventsComplete_4 : ∃ (s : State) (n : Nat) (x : Pset), clocksRun s = true ∧ setOf? s n = some x ∧
    x.held = true ∧ fld s rInCheckCfg 63 40 ≠ 0 ∧ expired s x.heldTick (fld s rInCheckCfg 63 40 * 1024) = true :=
  ⟨later (setFld (putSet on 0 { setReady with held := true }) rInCheckCfg 63 40 1) 5000, 0, { setReady with held := true }, by decide +kernel⟩

theorem witness_BankEventsComplete_1 : ∃ (s : State) (b : Nat) (m : Bool), (bankOf s b).changing = some m :=
  ⟨setBank on 5 { Bank.zero with changing := some true }, 5, true, by decide +kernel⟩

theorem witness_BankEventsComplete_2 : ∃ (s : State) (q b : Nat) (t : List Nat), (permitsOf s q).waiting = b :: t ∧
    (permitsOf s q).holders.length < (permitsOf s q).pool ∧ q ∉ asleep s ∧ b < 65536 :=
  ⟨setPermits on 0 { permitsOf on 0 with pool := 1, waiting := [5] }, 0, 5, [], by decide +kernel⟩

theorem witness_BankEventsComplete_3 : ∃ (s : State) (q b : Nat) (t : List Nat), (permitsOf s q).waiting = b :: t ∧
    (permitsOf s q).holders.length < (permitsOf s q).pool ∧ q ∉ asleep s ∧ 65536 ≤ b :=
  ⟨setPermits on 0 { permitsOf on 0 with pool := 1, waiting := [65541] }, 0, 65541, [], by decide +kernel⟩

theorem witness_BankEventsComplete_4 : ∃ (s : State) (b : Nat) (first second : List Flip) (o : BOp), (bankOf s b).run =
    some o ∧ o.phase = .computed ∧ o.dup = none ∧ unitRetired s (b ^^^ 1) = false ∧ b + 65536 ∈ (permitsOf s (b /
    1024)).holders ∧ partnerFree s b = true ∧ (permitsOf s (b / 1024)).pool ≠ 0 ∧ bankAwake s b = true :=
  ⟨duplicating none [65541], 5, [], [], { reduceOp with phase := .computed }, by decide +kernel⟩

theorem witness_BankEventsComplete_5 : ∃ (s : State) (b : Nat) (first second : List Flip) (o : BOp), (bankOf s b).run =
    some o ∧ o.phase = .computed ∧ o.dup = none ∧ unitRetired s (b ^^^ 1) = true ∧ b + 65536 ∈ (permitsOf s (b /
    1024)).holders ∧ partnerFree s b = true ∧ (permitsOf s (b / 1024)).pool ≠ 0 ∧ bankAwake s b = true :=
  ⟨retirePartner (duplicating none [65541]), 5, [], [], { reduceOp with phase := .computed }, by decide +kernel⟩

theorem witness_BankEventsComplete_6 : ∃ (s : State) (b : Nat) (first second f : List Flip) (o : BOp), (bankOf s b).run =
    some o ∧ o.phase = .computed ∧ o.dup = some f ∧ b + 131072 ∈ (permitsOf s (b / 1024)).holders ∧ partnerFree s b = true ∧
    (permitsOf s (b / 1024)).pool ≠ 0 ∧ bankAwake s b = true :=
  ⟨retirePartner (duplicating (some []) [131077]), 5, [], [], [], { reduceOp with phase := .computed, dup := some [] }, by decide +kernel⟩

theorem witness_BankEventsComplete_7 : ∃ (s : State) (b n : Nat) (older : List Nat), bankRuns s b = true ∧ bankAwake s b =
    true :=
  ⟨reducing, 5, 0, [], by decide +kernel⟩

theorem witness_PowerEventsComplete_1 : ∃ (s : State) (meas : List QuayMeas), isActive s = true :=
  ⟨on, [], by decide +kernel⟩

theorem witness_PowerEventsComplete_2 : ∃ (s : State) (q tempC : Nat), isActive s = true ∧ q < quays s.part ∧ q ∉ asleep s
    ∧ expired s (permitsOf s q).sizedTick 800 = true :=
  ⟨later on 801, 15, 200, by decide +kernel⟩

theorem witness_PowerEventsComplete_3 : ∃ (s : State) (mw tempC : Nat) (quayC : List Nat), isActive s = true :=
  ⟨on, 0, 0, [0], by decide +kernel⟩

theorem witness_PowerEventsComplete_4 : ∃ (s s1 : State) (reading : Nat), isActive s = true ∧ fld s rPwCap 63 56 ≤ reading
    ∧ s1 = zeroPools (setFld (setFld (raiseAlert s 2) rPwHbStat 21 21 1) rPwHbStat 20 18 7) :=
  ⟨on, zeroPools (setFld (setFld (raiseAlert on 2) rPwHbStat 21 21 1) rPwHbStat 20 18 7), 255, by decide +kernel⟩

theorem witness_PowerEventsComplete_5 : ∃ (s : State) (q : Nat) (failed : List Nat), isActive s = true ∧ q ∈ s.pow.waking
    :=
  ⟨{ on with pow := { on.pow with doze := [3], waking := [3] } }, 3, [], by decide +kernel⟩

theorem witness_HarbourPowerComplete_1 : ∃ (s : State) (retain : Bool), s.pow.harbour = .mooring retain :=
  ⟨{ on with pow := { on.pow with harbour := .mooring true } }, true, by decide +kernel⟩

theorem witness_HarbourPowerComplete_2 : ∃ (s : State) (die : Nat), die < ports s.part / 32 :=
  ⟨mooredOn, 3, by decide +kernel⟩

theorem witness_HarbourPowerComplete_3 : ∃ (s : State) (port : Nat), port < 8 :=
  ⟨mooredOn, 7, by decide +kernel⟩

theorem witness_HarbourPowerComplete_4 : ∃ (s : State), s.pow.wakeAfter ≠ 0 ∧ expired s s.pow.mooredTick s.pow.wakeAfter =
    true :=
  ⟨let s := later mooredOn 50; { s with pow := { s.pow with wakeAfter := 5 } }, by decide +kernel⟩

theorem witness_HarbourPowerComplete_5 : ∃ (s : State) (retain : Bool), s.pow.harbour = .moored retain ∧
    s.pow.harbourWaking = true ∧ s.pow.warmAfter = none :=
  ⟨{ mooredOn with pow := { mooredOn.pow with harbourWaking := true } }, true, by decide +kernel⟩

theorem witness_HarbourPowerComplete_6 : ∃ (s : State) (retain keep ref : Bool), s.pow.harbour = .moored retain ∧
    s.pow.harbourWaking = true ∧ s.pow.warmAfter = some (keep, ref) :=
  ⟨{ mooredOn with pow := { mooredOn.pow with harbourWaking := true, warmAfter := some (false, true) } }, true, false, true, by decide +kernel⟩

theorem witness_ClockEventsComplete_1 : ∃ (s : State), now s + 1 = 2 ^ 48 :=
  ⟨later on (2 ^ 48 - 1), by decide +kernel⟩

theorem witness_ClockEventsComplete_2 : ∃ (s : State), isOn s = true ∧ fld s rHbClk 0 0 = 1 :=
  ⟨setFld on rHbClk 0 0 1, by decide +kernel⟩

theorem witness_ClockEventsComplete_3 : ∃ (s : State), isOn s = true ∧ fld s rHbClk 0 0 = 0 :=
  ⟨setFld on rHbClk 0 0 0, by decide +kernel⟩

theorem witness_ClockEventsComplete_4 : ∃ (s : State) (offset : BitVec 16), isOn s = true ∧ fld s rHbClk 0 0 = 1 :=
  ⟨setFld on rHbClk 0 0 1, 7, by decide +kernel⟩

theorem witness_ClockEventsComplete_5 : ∃ (s : State) (e : Nat), isActive s = true ∧ engineListed e = true ∧ engineAbsent
    s e = false ∧ engineQuiet s e = true :=
  ⟨on, 0x31, by decide +kernel⟩

theorem witness_ClockEventsComplete_6 : ∃ (s : State) (b : Nat), isActive s = true ∧ b < banksOf s.part ∧ bankBusy (bankOf
    s b) = false :=
  ⟨on, 16383, by decide +kernel⟩

theorem witness_ResetsComplete_1 : ∃ (s : State) (ref : Bool), (isOn s = false ∨ fld s rHbBootStat 2 0 = 0) :=
  ⟨{ on with pow := { on.pow with harbour := .off, supply := false } }, true, by decide +kernel⟩

theorem witness_ResetsComplete_2 : ∃ (s : State) (ref : Bool), isOn s = true :=
  ⟨on, false, by decide +kernel⟩

theorem witness_ResetsComplete_3 : ∃ (s : State) (ref : Bool), s.pow.harbour = .active :=
  ⟨on, true, by decide +kernel⟩

theorem witness_ResetsComplete_4 : ∃ (s : State) (e : Nat), isActive s = true :=
  ⟨on, 0x30, by decide +kernel⟩

theorem witness_ResetsComplete_5 : ∃ (s : State) (p : Nat), isActive s = true :=
  ⟨on, 127, by decide +kernel⟩

theorem witness_ResetsComplete_6 : ∃ (s : State) (q : Nat), isActive s = true :=
  ⟨on, 15, by decide +kernel⟩

theorem witness_ResetsComplete_7 : ∃ (s : State) (n : Nat), ((∃ retain, s.pow.harbour = .moored retain ∨ s.pow.harbour =
    .mooring retain)) :=
  ⟨mooredOn, 7, true, by decide +kernel⟩

theorem witness_ResetsComplete_9 : ∃ (s : State), isActive s = true ∧ fld s rHbHmStat 0 0 = 1 :=
  ⟨on, by decide +kernel⟩

theorem witness_SidebandComplete_1 : ∃ (s : State) (off : Nat), s.pow.harbour ≠ .off ∧ sidebandFault s off = none :=
  ⟨on, 0, by decide +kernel⟩

theorem witness_SidebandComplete_2 : ∃ (s : State) (off : Nat) (v : Word), s.pow.harbour ≠ .off ∧ sidebandFault s off =
    none ∧ pwResetOf off v.toNat = none :=
  ⟨on, 8, 1, by decide +kernel⟩

theorem witness_SidebandComplete_3 : ∃ (s : State) (off k t : Nat) (v : Word), s.pow.harbour ≠ .off ∧ sidebandFault s off
    = none ∧ pwResetOf off v.toNat = some (k, t) :=
  ⟨on, rPwReset, 2, 1, 0x102, by decide +kernel⟩

theorem witness_SidebandComplete_4 : ∃ (s : State), s.pow.harbour ≠ .off :=
  ⟨mooredOn, by decide +kernel⟩

theorem witness_SidebandComplete_5 : ∃ (s : State) (off : Nat) (st : Nat), s.pow.harbour ≠ .off ∧ sidebandFault s off =
    some st :=
  ⟨on, 3, sbBAD, by decide +kernel⟩

theorem witness_SidebandComplete_6 : ∃ (s : State), s.pow.harbour = .off :=
  ⟨{ on with pow := { on.pow with harbour := .off } }, by decide +kernel⟩

theorem witness_SidebandComplete_7 : ∃ (s : State), s.pow.harbour ≠ .off :=
  ⟨on, by decide +kernel⟩

theorem witness_SidebandComplete_8 : ∃ (s : State) (op : DebugOp), s.pow.harbour = .active ∧ debugOpen s = true :=
  ⟨on, .halt, by decide +kernel⟩

/-! ### WellFormed refuses an ill-formed term of each check -/

theorem test_wf_port : (Instr.rd 128 0).wf = false ∧ (Instr.rd 127 0).wf = true := by decide
theorem test_wf_payload : (Instr.wr 0 0 [codewordOf 0]).wf = false ∧ (Instr.wr 0 0 []).wf = true := by decide
theorem test_wf_operands : (Instr.atm 0 0 []).wf = false ∧ (Instr.atm 0 0 [1]).wf = true := by decide
theorem test_wf_link : (Instr.linkReplay (.quay 16) true).wf = false := by decide
theorem test_wf_window : (Instr.commandStart 256).wf = false := by decide
theorem test_wf_gate : (Instr.gateExpiry 1024).wf = false := by decide
theorem test_wf_engine : (Instr.engineGateArrival 52 0).wf = false := by decide
theorem test_wf_die_line : (Instr.attnLineEdge 4 0).wf = false ∧ (Instr.attnLineEdge 3 32).wf = false := by decide
theorem test_wf_source : (Instr.landingWrite (.port 8) 0 []).wf = false := by decide
theorem test_wf_manifest : (Instr.manifestExpiry 16384).wf = false := by decide
theorem test_wf_set : (Instr.commit 64).wf = false := by decide
theorem test_wf_bank : (Instr.modeChange 16384).wf = false := by decide
theorem test_wf_quay : (Instr.quayReset 16).wf = false := by decide
theorem test_wf_idle_unit : (Instr.idleEntry (.engine 52)).wf = false := by decide
theorem test_wf_register : (Instr.regRead 4).wf = false ∧ (Instr.regRead 0x1000000).wf = false := by decide
theorem test_wf_region : (Instr.hbProtRgnWrite 0 0 32 0).wf = false := by decide
theorem test_wf_debug : (Instr.debugAccess (.keyHash 0x60)).wf = false ∧ (Instr.debugAccess (.keyHash 4)).wf = false := by decide

/-! ### Addresses and registers: R24, R33, R66, R380, R412, R418, Table 19-6 -/

/-- The address of the example of R33, on both parts. -/
theorem test_address_fields : gaHarbour 0x1348012_3456789A = 1234 ∧ gaSpace 0x1348012_3456789A = 0 ∧
    gaLocal 0x1348012_3456789A = 0x123456789A := by decide
theorem test_interleave_z16 : bankPlace .z16 0x123456789A = (4431, 0x48D09A) ∧
    toAperture .z16 0x123456789A = 0x467DA48D09A ∧ fromAperture .z16 0x467DA48D09A = 0x123456789A := by decide
theorem test_interleave_z8 : bankPlace .z8 0x123456789A = (8007, 0x91A29A) := by decide

/-- Slot 62 of window 5. -/
theorem test_slot_address : slotAddr 5 62 = 0xE0000017E00 := by decide

/-- The example of R380: a manifest opened 4096 ticks before the wrap. -/
theorem test_timeout_over_wrap : ticksSince 0xFFFFFFFFF000 0x8C40 = 40000 := by decide

/-- The example registers of chapter 20: word 5 of the export engine's snapshot record, and replica 2 of set 5. -/
theorem test_register_offsets : regBase + rPlSnapRec (0x32 * 8 + 5) = 0xF0000701CA8 ∧
    regBase + rHbReplPeer (5 * 8 + 2) = 0xF0000006150 := by decide

theorem test_idcode : idcodeOf State.reset.fuses = 0x12A015CB := by decide

/-- The example of R412: region 5 gives ports 32 to 63 windows 32 to 63; port 40 may command window 40 and not window 5. -/
def bootMap : State :=
  setRegW (setRegW (setRegW on rHbProtLock 1) (rHbProtRgn 5) 0x1E00000FF8000020) (rHbProtPort 80) 0x700000
theorem test_protection_example : hasRight bootMap 40 rightCommand (slotAddr 40 0) 256 = true ∧
    hasRight bootMap 40 rightCommand (slotAddr 63 63) 256 = true ∧ hasRight bootMap 40 rightCommand (slotAddr 5 0) 256 = false ∧
    hasRight bootMap 40 rightBerth (slotAddr 40 0) 256 = false := by decide +kernel

/-! ### Codewords: the examples of R321 and R323, and Table 16-2 -/

theorem test_check_symbols : encode (1#256 <<< 248) = 0x4078360F#32 ∧ encode 0 = 0#32 := by decide +kernel
theorem test_poison_symbols : (poisonOf (1#256 <<< 248)).check = 0x83220AAA#32 := by decide +kernel
theorem test_one_symbol_corrected :
    classify false (deltaOf { data := (1#256 <<< 248) ^^^ 0x5A00#256, check := 0x4078360F#32 }) = .corrected 0x5A00#256 := by
  decide +kernel
theorem test_two_symbols_by_mode :
    classify false (deltaOf { data := 0x5A0011#256, check := 0#32 }) = .uncorrectable ∧
    classify true (deltaOf { data := 0x5A0011#256, check := 0#32 }) = .corrected 0x5A0011#256 := by decide +kernel

/-! ### Conversions: the examples of R142, R145 and chapter 7 -/

/-- 3.1415927 to B16, to nearest and stochastically. -/
theorem test_b16_conversions :
    ((convert false fB16 false none 0 (ofF32 0x40490FDB)).run 0).1.code = 0x4049 ∧
    ((convert false fB16 false (some 0x0A51) 0 (ofF32 0x40490FDB)).run 0).1.code = 0x404A ∧
    ((convert false fB16 false (some 0x9C3E) 0 (ofF32 0x40490FDB)).run 0).1.code = 0x4049 := by decide +kernel

/-- The parcel of the K4 example: 0.74 is 0x3F3D70A4, -0.21 is 0xBE570A3D, 0.032 is 0x3D03126F, 0.3125 is 0x3EA00000. -/
theorem test_k4_fit : scaleByteOf (fitK fK4 0 (ofF32 0x3F3D70A4)) = 0x7C := by decide +kernel
theorem test_k4_codes :
    [0x3F3D70A4, 0xBE570A3D, 0x3CFDF3B6, 0x3D03126F, 0x3EA00000].map (fun x =>
      ((convert false fK4 false none 3 (ofF32 (BitVec.ofNat 32 x))).run 0).1.code) = [7, 11, 0, 1, 4] := by decide +kernel

/-- The descriptor of the E4M3 example: largest history entry 37.5, margin 1. -/
theorem test_e4m3_window :
    scaleByteOf (fitK fE4M3 1 (ofF32 0x42160000)) = 0x7D ∧
    ((convert false fE4M3 false none 2 (decodeCode fB16 0x4225)).run 0).1 = ⟨0x72, false⟩ ∧
    ((convert false fE4M3 true none 2 (decodeCode fB16 0xC302)).run 0).1.sat = true ∧
    scaleByteOf (fitK fE4M3 1 (ofF32 0x43020000)) = 0x7F := by decide +kernel
theorem test_e4m3_overflow : ((convert false fE4M3 false none 2 (decodeCode fB16 0xC302)).run 0).1 = ⟨0xFE, true⟩ := by
  decide +kernel

/-- The counter of the Kewen example of chapter 8. -/
theorem test_kewen_counter : kwCounter 0x0123 0x1388 70000 0x02 0 = 0x01230000000013880000000111700200#128 := by decide

/-! ### Landing, the round and the walk: the examples of R191, R206, R215, R216 and chapter 12 -/

/-- 1.5, a negative sign element of scale byte 0x7C and the top-k entry 2^-24 sum to 0x1600001, which is 1.375. -/
theorem test_tally_words : h16Word 0x3E00 = .val 25165824 ∧ signWord true 0x7C = .val (-2097152) ∧ h16Word 1 = .val 1 := by
  decide +kernel
theorem test_tally_final :
    addTally (some (addTally (some (addTally none (.val 1))) (.val 25165824))) (.val (-2097152)) = 0x1600001#64 ∧
    (finalCode false 0x1600001#64).1 = 0x3D80 ∧ bucketOf fH16 0x3D80 = some (123, 1982464) := by decide +kernel

/-- 9 × 2^30 in bucket 138 with LS 10 is a gradient norm of 3072, and the clip is 0x39AAAAAB. -/
theorem test_gradient_norm : toF32 (gradNorm (normUnits [(138, 9 * 2 ^ 30)]) 10) = 0x45400000#32 ∧
    toF32 (divVal .one (gradNorm (normUnits [(138, 9 * 2 ^ 30)]) 10)) = 0x39AAAAAB#32 := by decide +kernel
theorem test_loss_scale :
    lsCommit { PsetRegs.created with g := 2000 } { Epoch.created with ls := 10, clean := 1999 } = (11, 0) ∧
    lsSkip PsetRegs.created { Epoch.created with ls := 10, clean := 1999 } = (9, 0) := by decide

/-- The group factors and element 0 of the ADW example. -/
def adwIn : RuleIn :=
  { rule := rADW, z := false, nesterov := false, beta1 := ofF32 0x3F600000, beta2 := ofF32 0x3F7E0000, eps := ofF32 0x30800000,
    lam := ofF32 0x3D800000, delta := .zero, pivot := .zero, eta := ofF32 0x3B800000, c := .one, ls := 10,
    ob1 := ofF32 0x3E000000, ob2 := ofF32 0x3C000000, a1 := ofF32 0x41000000, a2 := ofF32 0x43000000, d1 := .one, d2 := .one,
    dw := .one }
theorem test_bias_factor : toF32 ((biasFactor false (ofF32 0x3F600000) 1).run 0).1 = 0x41000000#32 ∧
    toF32 ((biasFactor false (ofF32 0x3F7E0000) 1).run 0).1 = 0x43000000#32 := by decide +kernel
theorem test_adw_element :
    let o := ((adw adwIn (decodeCode fB16 0x3F80) .zero .zero (ofF32 0x3F000000)).run 0).1
    toF32 o.mn = 0x3D800000#32 ∧ toF32 o.vn = 0x3B000000#32 ∧ toF32 o.wn = 0x3F7EF000#32 ∧
    ((weightCode false 0x3C21 o.wn).run 0).1.code = 0x3F7F := by decide +kernel
theorem test_moment_fit : scaleByteOf (fitK fI8 0 (ofF32 0x3E000000)) = 0x76 ∧ scaleByteOf (fitK fL8 0 (ofF32 0x3C000000)) = 0x69 ∧
    ((momentCode false fL8 none 22 (ofF32 0x3B000000)).run 0).1.code = 0xE8 := by decide +kernel

/-! ### Permit pools and throttling: the example of R311, and R383 -/

theorem test_permit_pool : poolOf 64000 3000 76 256 95 105 56000 88 = 65 ∧ poolOf 64000 3000 76 1000 95 105 9500 99 = 256 ∧
    poolOf 64000 3000 76 256 95 105 9500 105 = 0 := by decide
theorem test_throttle : nextThrottle 100000 100001 6 = 7 ∧ nextThrottle 100000 94999 3 = 2 ∧ nextThrottle 100000 95000 3 = 3 := by
  decide

/-! ### One command each -/

/-- A write of two grains is read back by a read of the same bytes, which is answered with them. -/
theorem test_write_then_read :
    let s := match exec (.wr 0 (req 2 0xE0001000000 8) [codewordOf 5, codewordOf 6]) onPort with | .next t => t | _ => onPort
    storedWord s 0xE0001000000 = codewordOf 5 ∧ storedWord s 0xE0001000020 = codewordOf 6 ∧ s.host.reqs = [] := by decide +kernel

/-- An add of 7 to beacon 2 leaves 7 there. -/
theorem test_atomic_add :
    let s := match exec (.atm 0 (req 5 0xE0000400010 1) [7]) onPort with | .next t => t | _ => onPort
    (read64 s 0xE0000400010).2 = 7 ∧ (read64 s 0xE0000400008).2 = 0 := by decide +kernel

/-- A locked SELF keeps its value, while COUNT beside it is written (R412). -/
theorem test_locked_roadstead :
    let s := setRegW onPort rHbProtLock 1
    let t := (writeReg s rHbRoadstead (5 + 2 * 2 ^ 32)).1
    fld t rHbRoadstead 17 0 = 0 ∧ fld t rHbRoadstead 49 32 = 2 ∧ (writeReg s rHbRoadstead (5 + 2 * 2 ^ 32)).2 = true := by
  decide +kernel

/-- The last tick wraps to 0 and is counted (R379). -/
theorem test_watch_wrap :
    let s := match exec .watchWrap (later on (2 ^ 48 - 1)) with | .next t => t | _ => on
    now s = 0 ∧ s.boot.wraps = on.boot.wraps + 1 := by decide +kernel

/-- The step at an empty queue is one tick, and a command in front is run and taken off. -/
theorem test_step :
    (match step on with | .next t => now t == 1 | _ => false) = true ∧
    (match step { on with pending := [.watchWrap, .bypass] } with | .next t => t.pending == [.bypass] && now t == 0 | _ => false) =
      true := by decide +kernel

end Sys2Proof.Tests
end

section
/-!
SUPPORT. How a host request arrives: what a port notes of it, what becomes of one that is taken and can go at once, and of one
that its form alone answers (R11, R46, R52-R54, R390).
-/
namespace Sys2Proof.Machine

open Sys2Proof

/-! ### What a port notes -/

/-- The revision of a request is noted in a register and nowhere else (Table 3-11). -/
theorem noteRev_eq (s : State) (p : Nat) (rev2 : Bool) : noteRev s p rev2 = { s with regs := (noteRev s p rev2).regs } := by
  cases rev2 <;> rfl

@[simp] theorem noteRev_host (s : State) (p : Nat) (rev2 : Bool) : (noteRev s p rev2).host = s.host := by rw [noteRev_eq]
@[simp] theorem noteRev_pow (s : State) (p : Nat) (rev2 : Bool) : (noteRev s p rev2).pow = s.pow := by rw [noteRev_eq]
@[simp] theorem noteRev_part (s : State) (p : Nat) (rev2 : Bool) : (noteRev s p rev2).part = s.part := by
  rw [noteRev_eq]
  rfl

@[simp] theorem taken_reqs (s : State) (p : Nat) (hdr : BitVec 128) : (taken s p hdr).host.reqs = s.host.reqs := by
  simp [taken]

@[simp] theorem taken_pow (s : State) (p : Nat) (hdr : BitVec 128) : (taken s p hdr).pow = s.pow := by simp [taken]

@[simp] theorem taken_part (s : State) (p : Nat) (hdr : BitVec 128) : (taken s p hdr).part = s.part :=
  noteRev_part s p _

/-- Nothing else waits where a port takes a request. -/
theorem taken_reqs_of_accepts {s : State} {p : Nat} {hdr : BitVec 128} (hacc : Accepts s p hdr) :
    (taken s p hdr).host.reqs = [] := by
  obtain ⟨-, -, -, hreqs, -⟩ := hacc
  rw [taken_reqs, hreqs]

/-! ### Kinds and forms -/

/-- The opcode of a kind (Table 3-1). -/
def ReqKind.opc : ReqKind → Nat
  | .rd => 1
  | .wr => 2
  | .wrr => 3
  | .rda => 4
  | .atm => 5
  | .fnl => 6
  | .plt => 7

/-- OPC names a kind exactly where it is the kind's opcode. -/
theorem kindOf_eq_some {opc : Nat} {k : ReqKind} : kindOf opc = some k ↔ opc = k.opc := by
  constructor
  · intro h
    unfold kindOf at h
    split at h <;> cases h <;> rfl
  · rintro rfl
    cases k <;> rfl

/-- A well-formed request other than a pilot message is not answered by its form. -/
theorem formAnswer_none {h : ReqHdr} {msg : BitVec 128} (hform : badForm (kindOf h.opc) h = false)
    (hplt : kindOf h.opc ≠ some .plt) : formAnswer h msg = none := by
  unfold formAnswer
  rw [if_neg (by simp [hform])]
  split
  · contradiction
  · rfl

/-- A reserved opcode is answered by its form (R11). -/
theorem formAnswer_reserved {h : ReqHdr} (hk : kindOf h.opc = none) (msg : BitVec 128) :
    formAnswer h msg = some .unmapped := by
  simp [formAnswer, hk, badForm]

/-! ### Arrival -/

/-- A row whose opcodes hold that of its request lets it arrive. -/
theorem arriveOpc_of_mem {s : State} {p : Nat} {hdr : BitVec 128} {data : List Codeword} {opcs : List Nat} {final : Bool}
    (hopc : (ReqHdr.ofBits hdr).opc ∈ opcs)
    (hfinal : (ReqHdr.ofBits hdr).opc = 2 ∨ (ReqHdr.ofBits hdr).opc = 3 → (ReqHdr.ofBits hdr).final = final) :
    arriveOpc s p hdr data opcs final = arrive s p hdr data 0 0 :=
  if_pos ⟨hopc, hfinal⟩

/-- A request that a port takes waits alone, and its verdict is carried out at once. -/
theorem arrive_of_accepts {s : State} {p : Nat} {hdr : BitVec 128} {k : ReqKind} (hacc : Accepts s p hdr)
    (hk : kindOf (ReqHdr.ofBits hdr).opc = some k) (hplt : k ≠ .plt) (data : List Codeword) (msg : BitVec 128) (lat : Nat) :
    arrive s p hdr data msg lat =
      settle (carryOut (waiting (taken s p hdr) (requestOf p k hdr data)) (heldReq (requestOf p k hdr data))
        (verdict (waiting (taken s p hdr) (requestOf p k hdr data)) (heldReq (requestOf p k hdr data)) false)) := by
  obtain ⟨hup, hcredit, htag, hreqs, hform⟩ := hacc
  have hanswer : formAnswer (ReqHdr.ofBits hdr) msg = none := formAnswer_none hform (by simpa [hk] using hplt)
  have hwait : waiting (taken s p hdr) (requestOf p k hdr data) =
      { taken s p hdr with host := { (taken s p hdr).host with
          reqs := (taken s p hdr).host.reqs ++ [heldReq (requestOf p k hdr data)] } } := by
    rw [waiting, taken_reqs, hreqs, List.nil_append]
  rw [hk] at hcredit
  rw [hwait]
  unfold arrive
  simp only [hup, Bool.not_true, Bool.false_eq_true, if_false, hk, Nat.not_lt.2 hcredit, htag, hanswer]
  cases k with
  | plt => exact absurd rfl hplt
  | _ => rfl

/-- A request of the reserved opcode that comes with its credit, to a free tag of an Active harbour, is answered UNMAPPED
(R11). -/
theorem arrive_reserved {s : State} {p : Nat} {hdr : BitVec 128} (hup : portUp s p = true) (hactive : s.pow.harbour = .active)
    (hk : kindOf (ReqHdr.ofBits hdr).opc = none) (hcredit : 1 ≤ creditsFree s p (channelOf s none (ReqHdr.ofBits hdr).addr))
    (htag : (p, (ReqHdr.ofBits hdr).tag) ∉ s.host.tags) (data : List Codeword) (msg : BitVec 128) (lat : Nat) :
    arrive s p hdr data msg lat =
      respond (taken s p hdr) p (channelOf s none (ReqHdr.ofBits hdr).addr) (ReqHdr.ofBits hdr).tag .unmapped [] := by
  have hcost : ¬ creditsFree s p (channelOf s none (ReqHdr.ofBits hdr).addr) < reqCredits none (ReqHdr.ofBits hdr).len :=
    Nat.not_lt.2 hcredit
  have hnow : (taken s p hdr).pow.harbour = .active := by rw [taken_pow, hactive]
  unfold arrive
  simp only [hup, Bool.not_true, Bool.false_eq_true, if_false, hk, hcost, htag, formAnswer_reserved hk]
  exact if_pos hnow

/-! ### Effects at once -/

/-- An action that was carried out has left what it does. -/
theorem attempt_of_done {s : State} {f : State → State} (h : (attempt s f).2 = true) : (attempt s f).1 = f s := by
  unfold attempt at h ⊢
  dsimp only at h ⊢
  split
  · rfl
  · rename_i hheld
    simp [hheld] at h

/-- The only request that waits leaves none behind. -/
theorem removeReq_waiting {s : State} (hreqs : s.host.reqs = []) (r : Request) : removeReq (waiting s r) r = s := by
  have hnone : (waiting s r).host.reqs.filter (fun h => !(h.req.port == r.port && h.req.hdr.tag == r.hdr.tag)) =
      s.host.reqs := by
    simp [waiting, heldReq, hreqs]
  rw [removeReq, hnone]
  rfl

/-- A request that a port takes and that can go takes effect at once. -/
theorem arrive_of_goes {s : State} {p : Nat} {hdr : BitVec 128} {k : ReqKind} {data : List Codeword} (hacc : Accepts s p hdr)
    (hk : kindOf (ReqHdr.ofBits hdr).opc = some k) (hplt : k ≠ .plt) (hgo : Goes (taken s p hdr) (requestOf p k hdr data))
    (msg : BitVec 128) (lat : Nat) :
    arrive s p hdr data msg lat =
      settle (takeEffect (waiting (taken s p hdr) (requestOf p k hdr data)) (heldReq (requestOf p k hdr data))) := by
  obtain ⟨hverdict, hdone⟩ := hgo
  rw [arrive_of_accepts hacc hk hplt, hverdict]
  simp only [carryOut, hdone, if_true, attempt_of_done hdone]

end Sys2Proof.Machine
end

section
/-!
PROOFS. Reads and acquire reads of this harbour (R45, R47, R57, R98), and the reserved opcode (R11, R44).
-/
namespace Sys2Proof.Machine

open Sys2Proof

/-! ### Reads stay at this harbour -/

/-- Only a write leaves for another harbour (R45). -/
theorem sentAway_of_not_isWr {s : State} {r : Request} (h : r.isWr = false) : sentAway s r = false := by
  have hcases : deliveryOf s r = .here ∨ deliveryOf s r = .nowhere := by
    unfold deliveryOf
    dsimp only
    split
    · split <;> simp [h]
    · simp
    · simp [h]
    · simp
  unfold sentAway
  rcases hcases with hd | hd <;> rw [hd]

/-- The kind of a read is that of no other request. -/
theorem isRd_excludes {r : Request} (h : r.isRd = true) : r.isWr = false ∧ r.isFinal = false ∧ r.kind ≠ .fnl ∧ r.kind ≠ .plt := by
  have hkind : r.kind = .rd ∨ r.kind = .rda := by simpa [Request.isRd] using h
  rcases hkind with hr | hr <;> simp [Request.isWr, Request.isFinal, hr]

/-- The only request that waits, where it is a read, is served from its region as it takes effect (R47, R98). -/
theorem takeEffect_read {s : State} {r : Request} {g : Region} (hreqs : s.host.reqs = []) (hrd : r.isRd = true)
    (hreg : regionOf s.part r.a = some g) : takeEffect (waiting s r) (heldReq r) = serveRead s r g := by
  obtain ⟨hwr, hfinal, hfnl, -⟩ := isRd_excludes hrd
  have hreq : (heldReq r).req = r := rfl
  unfold takeEffect
  simp only [hreq, removeReq_waiting hreqs, hfnl, sentAway_of_not_isWr hwr, hfinal, hreg, hrd, if_true, if_false,
    Bool.false_eq_true]

/-- A read that a port takes and that can go is served from its region at once. -/
theorem arrive_read {s : State} {p : Nat} {hdr : BitVec 128} {k : ReqKind} {data : List Codeword} {g : Region}
    (hacc : Accepts s p hdr) (hk : kindOf (ReqHdr.ofBits hdr).opc = some k) (hrd : (requestOf p k hdr data).isRd = true)
    (hgo : Goes (taken s p hdr) (requestOf p k hdr data)) (hreg : regionOf s.part (requestOf p k hdr data).a = some g)
    (msg : BitVec 128) (lat : Nat) :
    arrive s p hdr data msg lat = settle (serveRead (taken s p hdr) (requestOf p k hdr data) g) := by
  obtain ⟨-, -, -, hplt⟩ := isRd_excludes hrd
  rw [arrive_of_goes hacc hk hplt hgo, takeEffect_read (taken_reqs_of_accepts hacc) hrd (by rw [taken_part, hreg])]

/-! ### The rows -/

/-- The row RD takes opcode 1, and the reserved opcode 0. -/
theorem exec_rd {s : State} {p : Nat} {hdr : BitVec 128} (hopc : (ReqHdr.ofBits hdr).opc = 0 ∨ (ReqHdr.ofBits hdr).opc = 1) :
    exec (.rd p hdr) s = .next (arrive s p hdr [] 0 0) := by
  have hrow : exec (.rd p hdr) s = .next (arriveOpc s p hdr [] [0, 1] false) := rfl
  rw [hrow, arriveOpc_of_mem (by simpa using hopc) (by omega)]

/-- The row RDA takes opcode 4. -/
theorem exec_rda {s : State} {p : Nat} {hdr : BitVec 128} (hopc : (ReqHdr.ofBits hdr).opc = 4) :
    exec (.rda p hdr) s = .next (arrive s p hdr [] 0 0) := by
  have hrow : exec (.rda p hdr) s = .next (arriveOpc s p hdr [] [4] false) := rfl
  rw [hrow, arriveOpc_of_mem (by simpa using hopc) (by omega)]

/-- Settles O6: a read that goes is `arrive_read` in its row, and the reserved opcode is answered by its form alone. -/
theorem readsComplete : Obligations.ReadsComplete := by
  unfold Obligations.ReadsComplete
  constructor
  · intro s p hdr k g hacc hk hgo hreg
    have hopc : (ReqHdr.ofBits hdr).opc = k.opc := kindOf_eq_some.1 hk
    constructor
    · rintro rfl
      rw [exec_rd (.inr hopc), arrive_read hacc hk rfl hgo hreg]
    · rintro rfl
      rw [exec_rda hopc, arrive_read hacc hk rfl hgo hreg]
  · intro s p hdr hup hactive hopc hcredit htag
    have hk : kindOf (ReqHdr.ofBits hdr).opc = none := by rw [hopc]; rfl
    rw [exec_rd (.inl hopc), arrive_reserved hup hactive hk hcredit htag]

end Sys2Proof.Machine
end

section
/-!
PROOFS. The events of the walk: the crane's switch to a waiting command, a consignment's visit, and the commit (R20, R21,
R221-R225, R228, R229, R388).
-/
namespace Sys2Proof.Machine

open Sys2Proof

/-- A row that holds its action whole answers by what the action does in the state at hand. -/
theorem next_whole_congr {s : State} {f g : State → State} (h : f s = g s) :
    (.next (whole s f) : Answer) = .next (whole s g) := by rw [whole_congr h]

/-! ### The crane is taken (R21) -/

/-- Where no set is walked, the command that has waited longest takes the crane for its set. -/
theorem exec_craneSwitch_of_waiting {s : State} {cx : Nat} {t : List Nat} {r : Running} (hruns : hmRuns s = true)
    (hfree : s.walk.set = none) (hwait : s.walk.wait = cx :: t) (hcmd : cmdOf? s cx = some r) :
    exec .craneSwitch s =
      .next (whole s fun _ => startWalk { s with walk := { s.walk with wait := t } } cx (r.pkt.at 64 2)) := by
  have hrow : exec .craneSwitch s = execCraneSwitch s := rfl
  rw [hrow, execCraneSwitch]
  refine next_whole_congr ?_
  simp only [hruns, hfree, hwait, hcmd, Bool.not_true, Bool.false_eq_true, if_false]

/-! ### A consignment's visit (R221-R225) -/

/-- Consignment k of set n, which reads x, is the crane's to examine: its set is being walked, it lies in the set and in the
crane's window, it has been neither visited nor detected, and halted cores keep only a served one from it (R221, R333, R415). -/
structure CraneDue (s : State) (n k : Nat) (x : Pset) : Prop where
  walked : s.walk.set = some n
  found : setOf? s n = some x
  walking : x.sw.phase = .walking
  inSet : k < x.total
  unvisited : (x.con k).visited = false
  undetected : (x.con k).residue = false
  window : inWindow s x k = true
  notKept : hmRuns s = true ∨ servedAhead s n k = false

/-- What a crane that works does with the consignment it examines: it leaves one that it cannot read (R225), keeps one that
is written and whose seal holds (R223), and sweeps any other (R222). -/
def craneVisit (s : State) (n k : Nat) (residue : Option Nat) (flips : List Flip) (x : Pset) : State :=
  let c := x.con k
  if x.unreadable k x.ep.active then
    walkEnd (putSet (bump s (rInEccStat (homeQuay s k)) 47 32 (x.badReads k x.ep.active)) n
      ((x.setCon k { c with visited := true, progress := false, cleared := false }).countSw
        fun r => { r with poisoned := r.poisoned + 1 })) n
  else if c.progress then
    if sealOf n k (x.ep.step + 1) (x.slipBytes (!x.ep.active) k) (stageBytes x.sfmt c.stage) = c.sealWord then
      walkEnd (putSet s n (((x.setCon k { c with visited := true, cleared := !c.selected || c.checked }).fold k true).countSw
        fun r => { r with cKept := r.cKept + 1 })) n
    else sweepOne s n k residue flips (x.setCon k { c with progress := false, cleared := false })
  else sweepOne s n k residue flips x

@[simp] theorem useCrane_part (s : State) (q : Nat) : (useCrane s q).part = s.part := by
  rw [useCrane, rouse_eq, wakeQuay_eq]
  rfl

@[simp] theorem homeQuay_useCrane (s : State) (q k : Nat) : homeQuay (useCrane s q) k = homeQuay s k := by
  rw [homeQuay, useCrane_part, homeQuay]

/-- A consignment that is due is visited by the crane of its home quay; where power holds that crane, its quay is woken and
the consignment waits (R20, R388). -/
theorem exec_consignmentSweep_of_due {s : State} {n k : Nat} {x : Pset} (hdue : CraneDue s n k x) (residue : Option Nat)
    (flips : List Flip) :
    exec (.consignmentSweep n k residue flips) s = .next (whole s fun _ =>
      if homeQuay s k ∈ s.walk.powerHeld then wakeQuay s (homeQuay s k)
      else craneVisit (useCrane s (homeQuay s k)) n k residue flips x) := by
  obtain ⟨hwalked, hfound, hwalking, hin, hvis, hres, hwin, hkept⟩ := hdue
  have hhalted : (!hmRuns s && servedAhead s n k) = false := by rcases hkept with h | h <;> simp [h]
  have hrow : exec (.consignmentSweep n k residue flips) s = execConsignmentSweep n k residue flips s := rfl
  rw [hrow, execConsignmentSweep]
  refine next_whole_congr ?_
  simp [hwalked, hfound, hwalking, Nat.not_le.2 hin, hvis, hres, hwin, hhalted, craneVisit]

/-- The crane of a due consignment visits it unless power holds that crane. -/
theorem exec_consignmentSweep_of_free {s : State} {n k : Nat} {x : Pset} (hdue : CraneDue s n k x)
    (hfree : homeQuay s k ∉ s.walk.powerHeld) (residue : Option Nat) (flips : List Flip) :
    exec (.consignmentSweep n k residue flips) s =
      .next (whole s fun _ => craneVisit (useCrane s (homeQuay s k)) n k residue flips x) := by
  rw [exec_consignmentSweep_of_due hdue, if_neg hfree]

/-! ### The commit (R228, R229) -/

/-- A walk that has left nothing for poison commits once every consignment is visited, written and cleared. -/
theorem exec_commit_of_swept {s : State} {n : Nat} {x : Pset} (hwalked : s.walk.set = some n) (hfound : setOf? s n = some x)
    (hwalking : x.sw.phase = .walking) (hruns : hmRuns s = true) (hclean : x.sw.poisoned = 0)
    (hswept : (List.range x.total).all (fun k => (x.con k).visited && (x.con k).progress && (x.con k).cleared) = true) :
    exec (.commit n) s = .next (whole s fun _ => commitWalk s n x) := by
  have hrow : exec (.commit n) s = execCommit n s := rfl
  rw [hrow, execCommit]
  refine next_whole_congr ?_
  simp only [hwalked, hfound, hwalking, hruns, hclean, hswept, ne_eq, not_true_eq_false, decide_false, bne_self_eq_false,
    Bool.not_true, Bool.or_self, Bool.false_eq_true, if_false]

/-- Settles O34: the switch and the commit are their rows' equations, and the clauses on a consignment are the branches of the
crane's visit. -/
theorem walkEventsComplete : Obligations.WalkEventsComplete := by
  unfold Obligations.WalkEventsComplete
  refine ⟨?switch, ?fresh, ?written, ?poisoned, ?held, ?commit⟩
  case switch =>
    intro s cx t r hruns hfree hwait hcmd
    exact exec_craneSwitch_of_waiting hruns hfree hwait hcmd
  case fresh =>
    intro s n k residue flips x hwalked hfound hwalking hin hvis hres hwin hkept hfree hread hprogress
    rw [exec_consignmentSweep_of_free ⟨hwalked, hfound, hwalking, hin, hvis, hres, hwin, hkept⟩ hfree]
    simp only [craneVisit, hread, hprogress, Bool.false_eq_true, if_false]
  case written =>
    intro s n k residue flips x hwalked hfound hwalking hin hvis hres hwin hkept hfree hread hprogress
    rw [exec_consignmentSweep_of_free ⟨hwalked, hfound, hwalking, hin, hvis, hres, hwin, hkept⟩ hfree]
    simp only [craneVisit, hread, hprogress, Bool.false_eq_true, if_false, if_true]
  case poisoned =>
    intro s n k residue flips x hwalked hfound hwalking hin hvis hres hwin hkept hfree hunread
    rw [exec_consignmentSweep_of_free ⟨hwalked, hfound, hwalking, hin, hvis, hres, hwin, hkept⟩ hfree]
    simp only [craneVisit, hunread, if_true, homeQuay_useCrane]
  case held =>
    intro s n k residue flips x hwalked hfound hwalking hin hvis hres hwin hkept hheld
    rw [exec_consignmentSweep_of_due ⟨hwalked, hfound, hwalking, hin, hvis, hres, hwin, hkept⟩, if_pos hheld]
  case commit =>
    intro s n x hwalked hfound hwalking hruns hclean hswept
    exact exec_commit_of_swept hwalked hfound hwalking hruns hclean hswept

end Sys2Proof.Machine
end

section
/-!
PROOFS. The interleaved and the linear view of DRAM (R30, R32, R33): bank codes and linear bank numbers name the same banks,
the hash undoes itself, and so each view's address of a byte leads back to the other's.
-/
namespace Sys2Proof.Machine

open Sys2Proof

/-! ### Bank codes and bank numbers (Table 2-5) -/

theorem codeOfBank_lt {part : Part} {bb : Nat} (h : bb < banksOf part) : codeOfBank part bb < 2 ^ wBits part := by
  cases part <;> simp only [codeOfBank, banksOf, quays, wBits] at h ⊢ <;> omega

theorem bankOfCode_lt {part : Part} {g : Nat} (h : g < 2 ^ wBits part) : bankOfCode part g < banksOf part := by
  cases part <;> simp only [bankOfCode, codeQuay, codeChannel, codeBank, banksOf, quays, wBits] at h ⊢ <;> omega

/-- The code of a bank by its quay, channel and bank within the channel. -/
theorem codeOfBank_digits (part : Part) (q : Nat) {c b : Nat} (hc : c < 16) (hb : b < 64) :
    codeOfBank part (q * 1024 + c * 64 + b) = q + quays part * (c + 16 * b) := by
  cases part <;> simp only [codeOfBank, quays] <;> omega

/-- The bank of a code by its quay, channel and bank within the channel. -/
theorem bankOfCode_digits {part : Part} {q c : Nat} (b : Nat) (hq : q < quays part) (hc : c < 16) :
    bankOfCode part (q + quays part * (c + 16 * b)) = q * 1024 + c * 64 + b := by
  cases part <;> simp only [bankOfCode, codeQuay, codeChannel, codeBank, quays] at hq ⊢ <;> omega

theorem codeOfBank_bankOfCode {part : Part} {g : Nat} (h : g < 2 ^ wBits part) : codeOfBank part (bankOfCode part g) = g := by
  have hc : codeChannel part g < 16 := by cases part <;> exact Nat.mod_lt _ (by decide)
  have hb : codeBank part g < 64 := by cases part <;> simp only [codeBank, wBits] at h ⊢ <;> omega
  rw [bankOfCode, codeOfBank_digits part _ hc hb]
  cases part <;> simp only [codeQuay, codeChannel, codeBank, quays] <;> omega

theorem bankOfCode_codeOfBank {part : Part} {bb : Nat} (h : bb < banksOf part) :
    bankOfCode part (codeOfBank part bb) = bb := by
  have hq : bb / 1024 < quays part := by
    simp only [banksOf] at h
    omega
  have hc : bb / 64 % 16 < 16 := Nat.mod_lt _ (by decide)
  have hdigits : bb / 1024 * 1024 + bb / 64 % 16 * 64 + bb % 64 = bb := by omega
  calc bankOfCode part (codeOfBank part bb)
      = bankOfCode part (bb / 1024 + quays part * (bb / 64 % 16 + 16 * (bb % 64))) := by
        rw [← codeOfBank_digits part _ hc (Nat.mod_lt _ (by decide)), hdigits]
    _ = bb := by rw [bankOfCode_digits _ hq hc, hdigits]

/-! ### The hash (R32) -/

/-- The number of a chunk within its bank fits in 2W bits. -/
theorem chunks_le (part : Part) : 196608 ≤ 2 ^ wBits part * 2 ^ wBits part := by cases part <;> decide

/-- The hash of two numbers of W bits has W bits. -/
theorem hashCode_lt {part : Part} {u p : Nat} (hu : u ≤ 196607) (hp : p < 2 ^ wBits part) :
    hashCode part u p < 2 ^ wBits part := by
  have hpos : 0 < 2 ^ wBits part := Nat.two_pow_pos _
  have hchunks := chunks_le part
  have hhigh : u >>> wBits part < 2 ^ wBits part := by
    rw [Nat.shiftRight_eq_div_pow, Nat.div_lt_iff_lt_mul hpos]
    omega
  exact Nat.xor_lt_two_pow (Nat.xor_lt_two_pow hp (Nat.mod_lt _ hpos)) hhigh

/-- Within the chunks of one number, the hash undoes itself. -/
theorem hashCode_hashCode (part : Part) (u p : Nat) : hashCode part u (hashCode part u p) = p := by
  rw [hashCode, hashCode, Nat.xor_assoc p, Nat.xor_assoc (p ^^^ _), Nat.xor_xor_cancel_right]

/-! ### A chunk and its place -/

/-- Bytes of DRAM are 196,608 runs of 2^W chunks (Table 0-2). -/
theorem capacity_eq (part : Part) : capacity part = 196608 * (2 ^ wBits part * 512) := by cases part <;> rfl

/-- Each byte of DRAM lies in one of those runs. -/
theorem chunkRun_le {part : Part} {a : Nat} (ha : a < capacity part) : a / 512 / 2 ^ wBits part ≤ 196607 := by
  rw [Nat.div_div_eq_div_mul, Nat.mul_comm 512]
  have := Nat.div_lt_of_lt_mul (Nat.mul_comm _ _ ▸ capacity_eq part ▸ ha)
  omega

theorem bankPlace_lt {part : Part} {a : Nat} (ha : a < capacity part) :
    (bankPlace part a).1 < banksOf part ∧ (bankPlace part a).2 < bankBytes := by
  have hu := chunkRun_le ha
  refine ⟨bankOfCode_lt (hashCode_lt hu (Nat.mod_lt _ (Nat.two_pow_pos _))), ?_⟩
  simp only [bankPlace, bankBytes]
  omega

/-- Each byte of DRAM is the byte of the bank at its place. -/
theorem bankAddr_bankPlace {part : Part} {a : Nat} (ha : a < capacity part) :
    bankAddr part (bankPlace part a).1 (bankPlace part a).2 = a := by
  have hcode := codeOfBank_bankOfCode (hashCode_lt (chunkRun_le ha) (Nat.mod_lt (a / 512) (Nat.two_pow_pos (wBits part))))
  have hrun : (a / 512 / 2 ^ wBits part * 512 + a % 512) / 512 = a / 512 / 2 ^ wBits part := by omega
  have hbyte : (a / 512 / 2 ^ wBits part * 512 + a % 512) % 512 = a % 512 := by omega
  simp only [bankPlace, bankAddr, hrun, hbyte, hcode, hashCode_hashCode]
  rw [Nat.mul_comm (a / 512 / _), Nat.div_add_mod]
  omega

theorem bankAddr_lt {part : Part} {bb x : Nat} (hb : bb < banksOf part) (hx : x < bankBytes) :
    bankAddr part bb x < capacity part := by
  have hu : x / 512 ≤ 196607 := by
    simp only [bankBytes] at hx
    omega
  have hp := hashCode_lt hu (codeOfBank_lt hb)
  simp only [bankAddr, capacity_eq]
  have := Nat.mul_le_mul_right (2 ^ wBits part) hu
  omega

/-- Each place of a bank is the place of its byte of DRAM. -/
theorem bankPlace_bankAddr {part : Part} {bb x : Nat} (hb : bb < banksOf part) (hx : x < bankBytes) :
    bankPlace part (bankAddr part bb x) = (bb, x) := by
  have hu : x / 512 ≤ 196607 := by
    simp only [bankBytes] at hx
    omega
  have hp := hashCode_lt hu (codeOfBank_lt hb)
  have hchunk : bankAddr part bb x / 512 = hashCode part (x / 512) (codeOfBank part bb) + 2 ^ wBits part * (x / 512) := by
    simp only [bankAddr, Nat.mul_comm (x / 512)]
    omega
  have hbyte : bankAddr part bb x % 512 = x % 512 := by
    simp only [bankAddr]
    omega
  simp only [bankPlace, hchunk, hbyte, Nat.add_mul_div_left _ _ (Nat.two_pow_pos _), Nat.div_eq_of_lt hp,
    Nat.add_mul_mod_self_left, Nat.mod_eq_of_lt hp, Nat.zero_add, hashCode_hashCode, bankOfCode_codeOfBank hb]
  rw [Nat.mul_comm, Nat.div_add_mod]

/-! ### The aperture (R30, R33) -/

theorem fromAperture_toAperture {part : Part} {a : Nat} (ha : a < capacity part) :
    fromAperture part (toAperture part a) = a := by
  obtain ⟨-, hx⟩ := bankPlace_lt ha
  have hoff : toAperture part a - apertureBase = (bankPlace part a).2 + (bankPlace part a).1 * bankBytes := by
    simp only [toAperture]
    omega
  have hpos : 0 < bankBytes := by decide
  rw [fromAperture, hoff, Nat.add_mul_div_right _ _ hpos, Nat.add_mul_mod_self_right, Nat.div_eq_of_lt hx,
    Nat.mod_eq_of_lt hx, Nat.zero_add, bankAddr_bankPlace ha]

/-- The aperture address of a byte of DRAM lies in the aperture, and its interleaved address below it. -/
theorem inRegion_aperture {part : Part} {a : Nat} (ha : a < capacity part) :
    inRegion part (toAperture part a) .aperture = true ∧ inRegion part a .aperture = false := by
  obtain ⟨hb, hx⟩ := bankPlace_lt ha
  have hcap : capacity part = banksOf part * bankBytes ∧ capacity part ≤ apertureBase := by cases part <;> decide
  have hplace := Nat.mul_le_mul_right bankBytes (Nat.succ_le_of_lt hb)
  rw [Nat.succ_mul] at hplace
  have hlast : (bankPlace part a).1 * bankBytes + (bankPlace part a).2 < capacity part := by omega
  have hbase : regionBase .aperture = apertureBase := rfl
  have hsize : regionSize part .aperture = capacity part := rfl
  rw [inRegion, inRegion, decide_eq_true_iff, decide_eq_false_iff_not, hbase, hsize, toAperture]
  omega

/-- Settles O44: the place of a byte is R32's and R33's formula, and the two views are inverse to each other
(`bankAddr_bankPlace`, `bankPlace_bankAddr`, `fromAperture_toAperture`). -/
theorem twoViewsOneStore : Obligations.TwoViewsOneStore := by
  unfold Obligations.TwoViewsOneStore
  intro part
  refine ⟨fun a ha => ?_, fun b hb x hx => ⟨bankAddr_lt hb hx, bankPlace_bankAddr hb hx⟩⟩
  obtain ⟨hinside, houtside⟩ := inRegion_aperture ha
  have hback := fromAperture_toAperture ha
  have hcode := hashCode_lt (chunkRun_le ha) (Nat.mod_lt (a / 512) (Nat.two_pow_pos (wBits part)))
  have hbank := bankOfCode_lt hcode
  have hplace : bankPlace part a = (bankOfCode part (hashCode part (a / 512 / 2 ^ wBits part) (a / 512 % 2 ^ wBits part)),
      a / 512 / 2 ^ wBits part * 512 + a % 512) := rfl
  have haperture := congrArg (fun bx => apertureBase + bx.1 * bankBytes + bx.2) hplace
  have hhome : homeAddr part (toAperture part a) = a := by rw [homeAddr, hinside, if_pos rfl, hback]
  have hhome' : homeAddr part a = a := by rw [homeAddr, houtside, if_neg Bool.false_ne_true]
  rw [hashCode, Nat.shiftRight_eq_div_pow] at hcode hbank hplace haperture
  cases part <;> exact ⟨chunkRun_le ha, hcode, hplace, hbank, haperture, hback, hhome, hhome'⟩

end Sys2Proof.Machine
end

section
/-!
PROOFS. Rows that write one register (R39, R46, R394, R412): the write that each of them makes, its header and payload as the
port reads them, and its effect at once where it can go.
-/
namespace Sys2Proof.Machine

open Sys2Proof

/-! ### Bit fields and bytes -/

/-- Little-endian bytes spell the number that they hold (R10). -/
theorem leNat_leBytes (n v : Nat) : leNat (leBytes n v) = v % 256 ^ n := by
  induction n generalizing v with
  | zero => simp [leBytes, leNat, Nat.mod_one]
  | succ n ih =>
    have hmod : v % 256 ^ (n + 1) = v % 256 + 256 * (v / 256 % 256 ^ n) := by rw [Nat.pow_succ', Nat.mod_mul]
    rw [leBytes, leNat, ih, BitVec.toNat_ofNat, hmod]

@[simp] theorem length_leBytes (n v : Nat) : (leBytes n v).length = n := by
  induction n generalizing v with
  | zero => rfl
  | succ n ih => rw [leBytes, List.length_cons, ih]

/-- The first bytes of a number are the bytes of a shorter one. -/
theorem take_leBytes (n m v : Nat) : (leBytes (n + m) v).take n = leBytes n v := by
  induction n generalizing v with
  | zero => simp [leBytes]
  | succ n ih => rw [Nat.add_right_comm, leBytes, leBytes, List.take_succ_cons, ih]

/-- An eight-byte value at the start of a grain is read back from it. -/
theorem fieldAt_bytesGrain_leBytes {v : Nat} (h : v < 2 ^ 64) : fieldAt (grainBytes (bytesGrain (leBytes 8 v))) 0 8 = v := by
  have hall : (leBytes 8 v).take 32 = leBytes 8 v := List.take_of_length_le (by simp)
  have hgrain : (bytesGrain (leBytes 8 v)).toNat = v := by
    rw [bytesGrain, hall, leNat_leBytes, BitVec.toNat_ofNat]
    omega
  rw [fieldAt, List.drop_zero, grainBytes, hgrain, take_leBytes 8 24, leNat_leBytes]
  exact Nat.mod_eq_of_lt h

/-! ### The header of a write to this harbour -/

/-- The opcode of a write made after a header: WRR where the header says so, else WR. -/
def writeOpc (hdr : BitVec 128) : Nat := if bits hdr.toNat 66 64 = 3 then 3 else 2

theorem writeOpc_cases (hdr : BitVec 128) : writeOpc hdr = 2 ∨ writeOpc hdr = 3 := by
  unfold writeOpc
  split <;> simp

theorem writeHdr_toNat {hdr : BitVec 128} {a len : Nat} (ha : a < 2 ^ 44) (hlen : len < 1024) :
    (writeHdr hdr a len).toNat =
      2 ^ 44 + a + writeOpc hdr * 2 ^ 64 + bits hdr.toNat 91 67 * 2 ^ 67 + len * 2 ^ 92 := by
  have hmid : bits hdr.toNat 91 67 < 2 ^ 25 := Nat.mod_lt _ (by decide)
  have hopc := writeOpc_cases hdr
  have heq : writeHdr hdr a len =
      BitVec.ofNat 128 (2 ^ 44 + a + writeOpc hdr * 2 ^ 64 + bits hdr.toNat 91 67 * 2 ^ 67 + len * 2 ^ 92) := rfl
  rw [heq, BitVec.toNat_ofNat]
  omega

/-- What a port reads from such a header: its opcode and address, its length, and no FINAL. -/
theorem ofBits_writeHdr {hdr : BitVec 128} {a len : Nat} (ha : a < 2 ^ 44) (hlen : len < 1024) :
    (ReqHdr.ofBits (writeHdr hdr a len)).opc = writeOpc hdr ∧ (ReqHdr.ofBits (writeHdr hdr a len)).addr.toNat = 2 ^ 44 + a ∧
    (ReqHdr.ofBits (writeHdr hdr a len)).len = len ∧ (ReqHdr.ofBits (writeHdr hdr a len)).final = false := by
  have hmid : bits hdr.toNat 91 67 < 2 ^ 25 := Nat.mod_lt _ (by decide)
  have hopc := writeOpc_cases hdr
  have hbits := writeHdr_toNat (hdr := hdr) ha hlen
  refine ⟨?opc, ?addr, ?len, ?final⟩
  case opc =>
    change bits (writeHdr hdr a len).toNat 66 64 = _
    rw [hbits, bits, Nat.shiftRight_eq_div_pow]
    omega
  case addr =>
    change (BitVec.ofNat 64 (bits (writeHdr hdr a len).toNat 63 0)).toNat = _
    rw [hbits, bits, Nat.shiftRight_eq_div_pow, BitVec.toNat_ofNat]
    omega
  case len =>
    change bits (writeHdr hdr a len).toNat 101 92 = _
    rw [hbits, bits, Nat.shiftRight_eq_div_pow]
    omega
  case final =>
    change (bit (writeHdr hdr a len).toNat 67 && bit (writeHdr hdr a len).toNat 105) = false
    rw [Bool.and_eq_false_iff]
    right
    rw [hbits, bit, Nat.shiftRight_eq_div_pow, decide_eq_false_iff_not]
    omega

/-! ### Writes of registers -/

/-- The kind of the write that a header makes. -/
def writeKind (w : BitVec 128) : ReqKind := if (ReqHdr.ofBits w).opc = 3 then .wrr else .wr

/-- The request that a write of one register makes at a port. -/
def regWriteReq (p : Nat) (hdr : BitVec 128) (off : Nat) (v : Word) : Request :=
  requestOf p (writeKind (writeHdr hdr (regBase + off) 1)) (writeHdr hdr (regBase + off) 1)
    [codewordOf (bytesGrain (leBytes 8 v.toNat))]

theorem writeKind_cases (w : BitVec 128) : writeKind w = .wr ∨ writeKind w = .wrr := by
  unfold writeKind
  split <;> simp

/-- The register region ends below the end of the local addresses (Table 2-3). -/
theorem regBase_add_lt {off : Nat} (hoff : off < 0x1000000) : regBase + off < 2 ^ 44 := by
  simp only [regBase]
  omega

theorem ofBits_regWrite (hdr : BitVec 128) {off : Nat} (hoff : off < 0x1000000) :
    (ReqHdr.ofBits (writeHdr hdr (regBase + off) 1)).opc = writeOpc hdr ∧
    (ReqHdr.ofBits (writeHdr hdr (regBase + off) 1)).addr.toNat = 2 ^ 44 + (regBase + off) ∧
    (ReqHdr.ofBits (writeHdr hdr (regBase + off) 1)).len = 1 ∧
    (ReqHdr.ofBits (writeHdr hdr (regBase + off) 1)).final = false :=
  ofBits_writeHdr (regBase_add_lt hoff) (by decide)

/-- OPC of a register write names its kind. -/
theorem kindOf_regWrite {hdr : BitVec 128} {off : Nat} (hoff : off < 0x1000000) :
    kindOf (ReqHdr.ofBits (writeHdr hdr (regBase + off) 1)).opc = some (writeKind (writeHdr hdr (regBase + off) 1)) := by
  obtain ⟨hopc, -⟩ := ofBits_regWrite hdr hoff
  rw [writeKind, hopc]
  rcases writeOpc_cases hdr with h | h <;> rw [h] <;> rfl

/-- A register write addresses its register at this harbour. -/
theorem regWriteReq_a {p : Nat} {hdr : BitVec 128} {off : Nat} {v : Word} (hoff : off < 0x1000000) :
    (regWriteReq p hdr off v).a = regBase + off := by
  obtain ⟨-, haddr, -⟩ := ofBits_regWrite hdr hoff
  have hlocal := regBase_add_lt hoff
  rw [Request.a, regWriteReq, requestOf, haddr, gaLocal, bits, Nat.shiftRight_eq_div_pow]
  omega

/-- A register write carries the value that it writes. -/
theorem regWriteReq_values {p : Nat} {hdr : BitVec 128} {off : Nat} {v : Word} (hoff : off < 0x1000000) :
    (regWriteReq p hdr off v).values = [v.toNat] := by
  obtain ⟨-, -, hlen, -⟩ := ofBits_regWrite hdr hoff
  have hlen' : (regWriteReq p hdr off v).hdr.len = 1 := hlen
  have hwords : (regWriteReq p hdr off v).words = [codewordOf (bytesGrain (leBytes 8 v.toNat))] := by
    rw [Request.words, hlen']
    simp [regWriteReq, requestOf, ceilDiv]
  rw [Request.values, hwords, hlen']
  simp [codewordOf, fieldAt_bytesGrain_leBytes v.isLt]

/-- SPACE of a local address that names this harbour (Table 2-2). -/
theorem gaSpace_here {a : Nat} (ha : a < 2 ^ 44) : gaSpace (2 ^ 44 + a) = 1 := by
  rw [gaSpace, bits, Nat.shiftRight_eq_div_pow]
  omega

/-- A register write stays at this harbour. -/
theorem sentAway_regWrite (s : State) {p : Nat} {hdr : BitVec 128} {off : Nat} {v : Word} (hoff : off < 0x1000000) :
    sentAway s (regWriteReq p hdr off v) = false := by
  obtain ⟨-, haddr, -⟩ := ofBits_regWrite hdr hoff
  have hspace : gaSpace (regWriteReq p hdr off v).hdr.addr.toNat = 1 := by
    rw [regWriteReq, requestOf, haddr, gaSpace_here (regBase_add_lt hoff)]
  have hdelivery : deliveryOf s (regWriteReq p hdr off v) = .here := by
    simp only [deliveryOf, hspace]
  rw [sentAway, hdelivery]

/-- An offset of the register region lies in no other region (Table 2-3). -/
theorem inRegion_regs {part : Part} {off : Nat} (hoff : off < 0x1000000) (g : Region) :
    inRegion part (regBase + off) g = decide (g = .regs) := by
  have hquays : quays part ≤ 16 := by cases part <;> decide
  rw [inRegion, decide_eq_decide]
  cases g <;>
    simp only [regionBase, regionSize, capacity, banksOf, apertureBase, modeBase, berthBase, qsramBase, hsramBase, regBase,
      reduceCtorEq, iff_false, iff_true] <;>
    omega

/-- The region of a register's address is that of the registers. -/
theorem regionOf_regs (part : Part) {off : Nat} (hoff : off < 0x1000000) : regionOf part (regBase + off) = some .regs := by
  simp [regionOf, allRegions, inRegion_regs hoff]

/-- A register write that waits alone takes effect as the write of its register (R39). -/
theorem takeEffect_regWrite {s : State} {p : Nat} {hdr : BitVec 128} {off : Nat} {v : Word} (hreqs : s.host.reqs = [])
    (hoff : off < 0x1000000) :
    takeEffect (waiting s (regWriteReq p hdr off v)) (heldReq (regWriteReq p hdr off v)) =
      serveRegWrite s (regWriteReq p hdr off v) := by
  obtain ⟨-, -, -, hfin⟩ := ofBits_regWrite hdr hoff
  have hreq : (heldReq (regWriteReq p hdr off v)).req = regWriteReq p hdr off v := rfl
  have hkind : (regWriteReq p hdr off v).kind = writeKind (writeHdr hdr (regBase + off) 1) := rfl
  have hfinal : (regWriteReq p hdr off v).isFinal = false := by
    rw [Request.isFinal, Bool.and_eq_false_iff]
    exact .inr hfin
  have hkinds : (regWriteReq p hdr off v).kind ≠ .fnl ∧ (regWriteReq p hdr off v).kind ≠ .atm ∧
      (regWriteReq p hdr off v).isRd = false := by
    rw [Request.isRd, hkind]
    rcases writeKind_cases (writeHdr hdr (regBase + off) 1) with h | h <;> rw [h] <;> decide
  obtain ⟨hfnl, hatm, hrd⟩ := hkinds
  unfold takeEffect
  simp only [hreq, removeReq_waiting hreqs, hfnl, hatm, hrd, hfinal, sentAway_regWrite s hoff, regWriteReq_a hoff,
    regionOf_regs _ hoff, if_false, Bool.false_eq_true]
  rfl

/-! ### The rows -/

/-- A write of a register at an aligned offset of its region arrives as a request. -/
theorem hostRegWrite_eq_arrive (s : State) (p : Nat) (hdr : BitVec 128) {off : Nat} (v : Word) (halign : off % 8 = 0)
    (hoff : off < 0x1000000) :
    hostRegWrite s p hdr off v =
      arrive s p (writeHdr hdr (regBase + off) 1) [codewordOf (bytesGrain (leBytes 8 v.toNat))] 0 0 :=
  if_pos ⟨halign, hoff⟩

/-- Every row that writes one register is the write of its value at its offset. -/
theorem exec_of_registerRow {s : State} {i : Instr} {p : Nat} {hdr : BitVec 128} {off : Nat} {v : Word}
    (h : registerRow i = some (p, hdr, off, v)) : exec i s = .next (hostRegWrite s p hdr off v) := by
  cases i with
  | bootGo | lock | hbRoadsteadWrite | hbArenaWrite | hbSigCfgWrite | hbTdTurnWrite | hbKwSeed0Write | hbKwSeed1Write
  | inKwCseed0Write | inKwCseed1Write | ldAnchWrite | dsPoolWrite | inRecallCtlWrite | inRetireCfgWrite | pwCapWrite
  | registerWrite =>
    cases h
    rfl
  | hbProtRgnWrite | hbCmdwWrite | hbCmdrWrite | hbCmdcWrite | hbEtaValWrite | hbEtaStepWrite | hbPsetLsWrite
  | hbPsetReplWrite | btPermitCfgWrite =>
    obtain ⟨hbound, hrow⟩ := Option.ite_none_right_eq_some.1 h
    cases hrow
    exact congrArg Host.Outcome.next (if_pos hbound)
  | _ => nomatch h

/-- Settles O13: the row is its register's write (`exec_of_registerRow`), which is taken, goes at once (`arrive_of_goes`) and
takes effect in its region (`takeEffect_regWrite`). -/
theorem registerRowsComplete : Obligations.RegisterRowsComplete := by
  unfold Obligations.RegisterRowsComplete
  intro s i p hdr off v hrow halign hoff w r hacc hgo
  have hkind : kindOf (ReqHdr.ofBits w).opc = some (writeKind w) := kindOf_regWrite hoff
  have hplt : writeKind w ≠ .plt := by rcases writeKind_cases w with h | h <;> rw [h] <;> decide
  refine ⟨?_, regWriteReq_a hoff, regWriteReq_values hoff⟩
  rw [exec_of_registerRow hrow, hostRegWrite_eq_arrive s p hdr v halign hoff, arrive_of_goes hacc hkind hplt hgo]
  exact congrArg (fun t => Host.Outcome.next (settle t))
    (takeEffect_regWrite (p := p) (hdr := hdr) (v := v) (taken_reqs_of_accepts hacc) hoff)

end Sys2Proof.Machine
end

section
/-!
PROOFS. A register write that lets a replayed restore go on (R27, R228, R273, R388): the counterexample to the frame of register
writes where nothing waits.
-/
namespace Sys2Proof.Machine

open Sys2Proof

/-- A subscription of set 0 whose status grain lies at byte 512 of the DRAM of harbour 0, on quay 1 (R32), and holds epoch 7. -/
def statusOnQuay1 : Sub :=
  { pset := 0, kind := 0, runahead := false, double := false, xfmt := 0, xmargin := 0, tensor := 0, port := 0, engine := 0,
    first := 0, count := 0, dst := 0, status := 512, clearedEpoch := 7, recalls := 0, sentEpoch := 0, pushed := 0, ahead := [],
    sentAhead := [] }

/-- A set without tensors, as it stands at its creation. -/
def bareSet : Pset :=
  Pset.created { rule := 2, nesterov := false, noBias := false, mstoch := false, beta1 := 0, beta2 := 0, eps := 0, lambda := 0,
                 maxnorm := 0, delta := 0, pivot := 0 } fE4M3 0 false [] 0 0 0

/-- An Active harbour, number 0, whose harbourmaster runs and whose port 0 is up. The journal holds the epoch word of a RESTORE
of set 0 that is still to be replayed; what follows that word writes the status grain of the set's subscription on quay 1, and
that quay is waking. -/
def replayWaits : State :=
  let s := putSet (setFld (setFld State.reset rHbHmStat 0 0 1) (rHbPortStat 0) 0 0 1) 0 bareSet
  { s with
    exp := { s.exp with subs := [(0, statusOnQuay1)] },
    pow := { s.pow with waking := [1] },
    boot := { s.boot with journal := [{ pset := 0, act := .restore, word := { bareSet.ep with seq := bareSet.ep.seq + 1 } }] } }

/-- The replay is held for quay 1, so nothing that waits can go on. -/
theorem replayWaits_atRest : replayWaits.atRest := by decide +kernel

/-- A write of HB_ROADSTEAD that makes this harbour number 1 of two. -/
def renumbered : State := hostRegWrite replayWaits 0 0 rHbRoadstead 0x200000001

/-- The status grain now lies in another harbour: the replay reaches no sleeping quay, and clears epoch 0. -/
theorem renumbered_clears_epoch : (tget? renumbered.exp.subs 0).map (·.clearedEpoch) = some 0 := by decide +kernel

/-- Refutes O59: where nothing waits that could go on, a write of HB_ROADSTEAD can still let a replayed RESTORE go on, which a
sleeping quay held. The write moves the subscriber's status grain to another harbour, and the replay clears an epoch of the
subscription. -/
theorem not_registerRowsFrame : ¬ Obligations.RegisterRowsFrame := by
  unfold Obligations.RegisterRowsFrame
  intro hframe
  obtain ⟨-, -, hrest, -⟩ := hframe replayWaits renumbered (.hbRoadsteadWrite 0 0 0x200000001) 0 0 rHbRoadstead 0x200000001 rfl
    (by decide) (by decide) rfl
  obtain ⟨-, -, -, -, -, -, -, hexp, -⟩ := hrest (by decide) replayWaits_atRest rfl
  have hcleared := renumbered_clears_epoch
  rw [hexp] at hcleared
  exact absurd hcleared (by decide)

end Sys2Proof.Machine
end

section
/-!
SUPPORT. Sparse tables and register fields: what is read after a write of the same entry or field, and of another (R10).
-/
namespace Sys2Proof.Machine

open Sys2Proof

/-! ### Sparse tables -/

theorem tget?_tset {α : Type} (t : Table α) (k j : Nat) (v : α) :
    tget? (tset t k v) j = if k = j then some v else tget? t j := by
  induction t with
  | nil => rfl
  | cons e t ih =>
    obtain ⟨k', v'⟩ := e
    unfold tset
    split
    · rfl
    · split
      · next heq =>
        subst heq
        by_cases hj : k = j <;> simp [tget?, hj]
      · next hne =>
        simp only [tget?, ih]
        by_cases hj : k' = j
        · have hkj : k ≠ j := by omega
          simp [hj, hkj]
        · simp [hj]

theorem tget?_terase {α : Type} (t : Table α) (k j : Nat) :
    tget? (terase t k) j = if k = j then none else tget? t j := by
  induction t with
  | nil => simp [terase, tget?]
  | cons e t ih =>
    obtain ⟨k', v'⟩ := e
    by_cases hk : k' = k
    · subst hk
      have hdrop : terase ((k', v') :: t) k' = terase t k' := by simp [terase]
      rw [hdrop, ih]
      by_cases hj : k' = j <;> simp [tget?, hj]
    · have hkeep : terase ((k', v') :: t) k = (k', v') :: terase t k := by simp [terase, hk]
      rw [hkeep, tget?, tget?, ih]
      by_cases hj : k' = j
      · simp [← hj, Ne.symm hk]
      · simp [hj]

/-- A table that drops its default values still reads as they were set. -/
theorem tget_tput {α : Type} [DecidableEq α] (t : Table α) (k j : Nat) (v d : α) :
    tget (tput t k v d) j d = if k = j then v else tget t j d := by
  unfold tget tput
  by_cases hv : v = d
  · rw [if_pos hv, tget?_terase]
    split <;> simp [hv]
  · rw [if_neg hv, tget?_tset]
    split <;> rfl

/-! ### Register fields -/

theorem bits_eq (v hi lo : Nat) : bits v hi lo = v / 2 ^ lo % 2 ^ (hi + 1 - lo) := by rw [bits, Nat.shiftRight_eq_div_pow]

/-- A field put into a number is read back from it. -/
theorem bits_putBits (v hi lo x : Nat) : bits (putBits v hi lo x) hi lo = x % 2 ^ (hi + 1 - lo) := by
  have hput : putBits v hi lo x =
      v - 2 ^ lo * (v / 2 ^ lo % 2 ^ (hi + 1 - lo)) + x % 2 ^ (hi + 1 - lo) * 2 ^ lo := by
    rw [← bits_eq, Nat.mul_comm]
    rfl
  obtain ⟨q, hq⟩ := Nat.dvd_sub_mod (n := 2 ^ (hi + 1 - lo)) (v / 2 ^ lo)
  rw [bits_eq, hput, Nat.add_mul_div_right _ _ (Nat.two_pow_pos lo), Nat.sub_mul_div, hq, Nat.mul_add_mod, Nat.mod_mod]

/-- Only the low 64 bits of a number reach a field of a register. -/
theorem bits_mod_two_pow_64 (v : Nat) {hi lo : Nat} (hhi : hi < 64) : bits (v % 2 ^ 64) hi lo = bits v hi lo := by
  refine Nat.eq_of_testBit_eq fun i => ?_
  simp only [bits, Nat.testBit_mod_two_pow, Nat.testBit_shiftRight]
  by_cases hi' : i < hi + 1 - lo
  · simp [hi', show lo + i < 64 by omega]
  · simp [hi']

theorem regW_setRegW (s : State) (off v : Nat) : regW (setRegW s off v) off = v % 2 ^ 64 := by
  simp [regW, setRegW, tget_tput]

/-- A field of a register holds what was last written to it. -/
theorem fld_setFld (s : State) (off v : Nat) {hi lo : Nat} (hhi : hi < 64) :
    fld (setFld s off hi lo v) off hi lo = v % 2 ^ (hi + 1 - lo) := by
  rw [fld, setFld, regW_setRegW, bits_mod_two_pow_64 _ hhi, bits_putBits]

end Sys2Proof.Machine
end

section
/-!
PROOFS. A stored codeword reads back, and every other grain keeps its own (R10, R47, R321).
-/
namespace Sys2Proof.Machine

open Sys2Proof

/-! ### The bytes of a grain -/

theorem getElem_leBytes {n v i : Nat} (h : i < (leBytes n v).length) : (leBytes n v)[i] = BitVec.ofNat 8 (v / 256 ^ i) := by
  induction n generalizing v i with
  | zero => simp at h
  | succ n ih =>
    cases i with
    | zero => simp [leBytes]
    | succ i =>
      have hi : i < (leBytes n (v / 256)).length := by simpa using h
      simp only [leBytes, List.getElem_cons_succ, ih hi]
      rw [Nat.div_div_eq_div_mul, Nat.pow_succ']

@[simp] theorem length_grainBytes (g : Grain) : (grainBytes g).length = 32 := length_leBytes 32 _

/-- Byte `i` of a grain lies in its bits [8i + 7 : 8i] (R10). -/
theorem getElem_grainBytes (g : Grain) {i : Nat} (h : i < (grainBytes g).length) :
    (grainBytes g)[i] = g.extractLsb' (8 * i) 8 := by
  refine BitVec.eq_of_toNat_eq ?_
  simp only [grainBytes, getElem_leBytes, BitVec.toNat_ofNat, BitVec.extractLsb'_toNat, Nat.shiftRight_eq_div_pow]
  rw [Nat.pow_mul]

@[simp] theorem bytesGrain_grainBytes (g : Grain) : bytesGrain (grainBytes g) = g := by
  refine BitVec.eq_of_toNat_eq ?_
  have htake : (grainBytes g).take 32 = grainBytes g := List.take_of_length_le (by simp)
  rw [bytesGrain, htake, grainBytes, leNat_leBytes, BitVec.toNat_ofNat]
  omega

/-! ### Reads after writes -/

theorem length_memRead (m : Mem) (a n : Nat) : (memRead m a n).length = n := by simp [memRead, upFrom]

theorem getElem_memRead {m : Mem} {a n i : Nat} (h : i < (memRead m a n).length) : (memRead m a n)[i] = memByte m (a + i) := by
  simp [memRead, upFrom]

theorem memRead_congr {m m' : Mem} {a n : Nat} (h : ∀ i < n, memByte m (a + i) = memByte m' (a + i)) :
    memRead m a n = memRead m' a n := by
  refine List.ext_getElem (by simp only [length_memRead]) fun i hi _ => ?_
  rw [getElem_memRead, getElem_memRead]
  exact h i (by rwa [length_memRead] at hi)

/-- Bytes written are read back. -/
theorem memRead_memWrite {m : Mem} (a : Nat) (bs : List Byte) (h : memWf m = true) :
    memRead (memWrite m a bs) a bs.length = bs := by
  refine List.ext_getElem (length_memRead _ _ _) fun i _ hi => ?_
  rw [getElem_memRead, memByte_memWrite_in h hi]

/-! ### Storing a codeword -/

theorem storeRaw_mem (s : State) (a : Nat) (w : Codeword) : (storeRaw s a w).mem = memWrite s.mem a (grainBytes w.data) := by
  simp only [storeRaw]

/-- A store keeps the memory's form. -/
theorem storeRaw_memOk {s : State} (a : Nat) (w : Codeword) (h : s.memOk) : (storeRaw s a w).memOk := by
  rw [State.memOk, storeRaw_mem]
  exact memWf_memWrite a _ h

theorem memByte_storeRaw_in {s : State} (a : Nat) (w : Codeword) (h : s.memOk) {i : Nat} (hi : i < 32) :
    memByte (storeRaw s a w).mem (a + i) = w.data.extractLsb' (8 * i) 8 := by
  rw [storeRaw_mem, memByte_memWrite_in h (by simpa using hi), getElem_grainBytes]

theorem memByte_storeRaw_out {s : State} {a b : Nat} (w : Codeword) (h : s.memOk) (hb : b < a ∨ a + 32 ≤ b) :
    memByte (storeRaw s a w).mem b = memByte s.mem b := by
  rw [storeRaw_mem, memByte_memWrite_out h (by simpa using hb)]

theorem rawGrain_storeRaw_same {s : State} (a : Nat) (w : Codeword) (h : s.memOk) : rawGrain (storeRaw s a w) a = w.data := by
  have hread : memRead (memWrite s.mem a (grainBytes w.data)) a 32 = grainBytes w.data := by
    simpa using memRead_memWrite a (grainBytes w.data) h
  rw [rawGrain, storeRaw_mem, hread, bytesGrain_grainBytes]

theorem rawGrain_storeRaw_other {s : State} {a b : Nat} (w : Codeword) (h : s.memOk) (hb : b + 32 ≤ a ∨ a + 32 ≤ b) :
    rawGrain (storeRaw s a w) b = rawGrain s b :=
  congrArg bytesGrain (memRead_congr fun i hi => memByte_storeRaw_out w h (by omega))

/-- What a stored codeword's check symbols differ by is kept at its grain's address; no other grain's entry changes. -/
theorem chk_storeRaw (s : State) (a b : Nat) (w : Codeword) :
    tget (storeRaw s a w).chk b 0 = if a = b then deltaOf w else tget s.chk b 0 := by
  simp only [storeRaw, tget_tput]

theorem storedWord_storeRaw_same {s : State} (a : Nat) (w : Codeword) (h : s.memOk) : storedWord (storeRaw s a w) a = w := by
  have hcheck : encode w.data ^^^ deltaOf w = w.check := by
    rw [deltaOf, BitVec.xor_comm w.check, ← BitVec.xor_assoc, BitVec.xor_self, BitVec.zero_xor]
  simp only [storedWord, rawGrain_storeRaw_same a w h, chk_storeRaw, if_true, hcheck]

theorem storedWord_storeRaw_other {s : State} {a b : Nat} (w : Codeword) (h : s.memOk) (hb : b + 32 ≤ a ∨ a + 32 ≤ b) :
    storedWord (storeRaw s a w) b = storedWord s b := by
  have hne : a ≠ b := by omega
  simp only [storedWord, rawGrain_storeRaw_other w h hb, chk_storeRaw, hne, if_false]

/-- Settles O47: two grains at multiples of 32 bytes are the same one or share no byte, and an address of another grain lies
before the one stored or behind it. -/
theorem storedGrainReadsBack : Obligations.StoredGrainReadsBack := by
  unfold Obligations.StoredGrainReadsBack
  intro s a w hok halign
  refine ⟨storedWord_storeRaw_same a w hok, storeRaw_memOk a w hok, fun i hi => memByte_storeRaw_in a w hok hi, ?_, ?_⟩
  · intro b hb hne
    exact storedWord_storeRaw_other w hok (by omega)
  · intro b hb
    exact memByte_storeRaw_out w hok (by omega)

end Sys2Proof.Machine
end

section
/-!
SUPPORT. The rows of host requests other than reads, what a request of each kind does as it takes effect (R45, R47, R48, R51), and
what becomes of one that comes without its credits or with a TAG in use (R53, R54, R60).
-/
namespace Sys2Proof.Machine

open Sys2Proof

/-! ### The rows -/

/-- The row WR takes opcode 2 without FINAL. -/
theorem exec_wr {s : State} {p : Nat} {hdr : BitVec 128} (data : List Codeword) (hopc : (ReqHdr.ofBits hdr).opc = 2)
    (hfinal : (ReqHdr.ofBits hdr).final = false) : exec (.wr p hdr data) s = .next (arrive s p hdr data 0 0) := by
  have hrow : exec (.wr p hdr data) s = .next (arriveOpc s p hdr data [2] false) := rfl
  rw [hrow, arriveOpc_of_mem (by simpa using hopc) fun _ => hfinal]

/-- The row WRR takes opcode 3 without FINAL. -/
theorem exec_wrr {s : State} {p : Nat} {hdr : BitVec 128} (data : List Codeword) (hopc : (ReqHdr.ofBits hdr).opc = 3)
    (hfinal : (ReqHdr.ofBits hdr).final = false) : exec (.wrr p hdr data) s = .next (arrive s p hdr data 0 0) := by
  have hrow : exec (.wrr p hdr data) s = .next (arriveOpc s p hdr data [3] false) := rfl
  rw [hrow, arriveOpc_of_mem (by simpa using hopc) fun _ => hfinal]

/-- The row of FINAL writes takes opcodes 2 and 3 with FINAL. -/
theorem exec_finalWrite {s : State} {p : Nat} {hdr : BitVec 128} (data : List Codeword)
    (hopc : (ReqHdr.ofBits hdr).opc = 2 ∨ (ReqHdr.ofBits hdr).opc = 3) (hfinal : (ReqHdr.ofBits hdr).final = true) :
    exec (.finalWrite p hdr data) s = .next (arrive s p hdr data 0 0) := by
  have hrow : exec (.finalWrite p hdr data) s = .next (arriveOpc s p hdr data [2, 3] true) := rfl
  rw [hrow, arriveOpc_of_mem (by simpa using hopc) fun _ => hfinal]

/-- The payload of an atomic: its operands in the low bytes of one grain (R48). -/
def atomicPayload (ops : List Word) : List Codeword := [codewordOf (bytesGrain (ops.flatMap fun w => leBytes 8 w.toNat))]

/-- The row ATM takes opcode 5. -/
theorem exec_atm {s : State} {p : Nat} {hdr : BitVec 128} (ops : List Word) (hopc : (ReqHdr.ofBits hdr).opc = 5) :
    exec (.atm p hdr ops) s = .next (arrive s p hdr (atomicPayload ops) 0 0) := by
  have hrow : exec (.atm p hdr ops) s = .next (arriveOpc s p hdr (atomicPayload ops) [5] false) := rfl
  rw [hrow, arriveOpc_of_mem (by simpa using hopc) (by omega)]

/-- The row FNL takes opcode 6. -/
theorem exec_fnl {s : State} {p : Nat} {hdr : BitVec 128} (hopc : (ReqHdr.ofBits hdr).opc = 6) :
    exec (.fnl p hdr) s = .next (arrive s p hdr [] 0 0) := by
  have hrow : exec (.fnl p hdr) s = .next (arriveOpc s p hdr [] [6] false) := rfl
  rw [hrow, arriveOpc_of_mem (by simpa using hopc) (by omega)]

/-- The row PLT takes opcode 7. -/
theorem exec_plt {s : State} {p : Nat} {hdr : BitVec 128} (msg : BitVec 128) (lat : Nat)
    (hopc : (ReqHdr.ofBits hdr).opc = 7) : exec (.plt p hdr msg lat) s = .next (arrive s p hdr [] msg lat) :=
  congrArg Host.Outcome.next (if_pos hopc)

/-! ### What a request that waits alone does -/

/-- A request that leaves for another harbour is a write (R45). -/
theorem isWr_of_sentAway {s : State} {r : Request} (h : sentAway s r = true) : r.isWr = true := by
  by_contra hwr
  rw [sentAway_of_not_isWr (by simpa using hwr)] at h
  cases h

/-- The kind of a write is that of no other request. -/
theorem isWr_excludes {r : Request} (h : r.isWr = true) : r.isRd = false ∧ r.kind ≠ .fnl ∧ r.kind ≠ .atm ∧ r.kind ≠ .plt := by
  have hkind : r.kind = .wr ∨ r.kind = .wrr := by simpa [Request.isWr] using h
  rcases hkind with hw | hw <;> simp [Request.isRd, hw]

/-- A write for other harbours leaves as a packet (R45, R100). -/
theorem takeEffect_away {s : State} {r : Request} (hreqs : s.host.reqs = []) (haway : sentAway s r = true) :
    takeEffect (waiting s r) (heldReq r) = sendAway s r := by
  obtain ⟨-, hfnl, -, -⟩ := isWr_excludes (isWr_of_sentAway haway)
  have hreq : (heldReq r).req = r := rfl
  unfold takeEffect
  simp only [hreq, removeReq_waiting hreqs, hfnl, haway, if_true, if_false]

/-- A write of this harbour without FINAL is performed in its region (R47). -/
theorem takeEffect_write {s : State} {r : Request} {g : Region} (hreqs : s.host.reqs = []) (hwr : r.isWr = true)
    (hfinal : r.hdr.final = false) (hhere : sentAway s r = false) (hreg : regionOf s.part r.a = some g) :
    takeEffect (waiting s r) (heldReq r) = serveWrite s r g := by
  obtain ⟨hrd, hfnl, hatm, -⟩ := isWr_excludes hwr
  have hreq : (heldReq r).req = r := rfl
  have hplain : r.isFinal = false := by rw [Request.isFinal, hfinal, Bool.and_false]
  unfold takeEffect
  simp only [hreq, removeReq_waiting hreqs, hfnl, hhere, hplain, hreg, hrd, hatm, if_false, Bool.false_eq_true]

/-- An atomic operates on its eight bytes (R48). -/
theorem takeEffect_atomic {s : State} {r : Request} {g : Region} (hreqs : s.host.reqs = []) (hatm : r.kind = .atm)
    (hreg : regionOf s.part r.a = some g) : takeEffect (waiting s r) (heldReq r) = serveAtomic s r := by
  have hreq : (heldReq r).req = r := rfl
  have hwr : r.isWr = false := by rw [Request.isWr, hatm]; rfl
  have hrd : r.isRd = false := by rw [Request.isRd, hatm]; rfl
  have hplain : r.isFinal = false := by rw [Request.isFinal, hwr, Bool.false_and]
  unfold takeEffect
  simp only [hreq, removeReq_waiting hreqs, hatm, sentAway_of_not_isWr hwr, hplain, hreg, hrd, if_true, if_false,
    reduceCtorEq, Bool.false_eq_true]

/-- An FNL ends (R51). -/
theorem takeEffect_fnl {s : State} {r : Request} (hreqs : s.host.reqs = []) (hfnl : r.kind = .fnl) :
    takeEffect (waiting s r) (heldReq r) = endFnl s r := by
  have hreq : (heldReq r).req = r := rfl
  unfold takeEffect
  simp only [hreq, removeReq_waiting hreqs, hfnl, if_true]

/-! ### Requests that never wait -/

/-- A request that comes without its credits is refused by the link layer (R54). -/
theorem arrive_without_credit {s : State} {p : Nat} {hdr : BitVec 128} (hup : portUp s p = true)
    (hcredit : creditsFree s p (channelOf s (kindOf (ReqHdr.ofBits hdr).opc) (ReqHdr.ofBits hdr).addr) <
      reqCredits (kindOf (ReqHdr.ofBits hdr).opc) (ReqHdr.ofBits hdr).len)
    (data : List Codeword) (msg : BitVec 128) (lat : Nat) : arrive s p hdr data msg lat = refuseFlit s p := by
  unfold arrive
  simp only [hup, Bool.not_true, Bool.false_eq_true, if_false, hcredit, if_true]

/-- The state once a request has come with a TAG that is in use (R53). -/
def tagReused (s : State) (p : Nat) (hdr : BitVec 128) : State :=
  let h := ReqHdr.ofBits hdr
  let s1 := setFld (noteRev s p h.rev2) (rHbPortStat p) 3 3 1
  { s1 with host := { s1.host with reused := s1.host.reused ++ [(p, h.tag, channelOf s (kindOf h.opc) h.addr)] } }

/-- A request that comes with a TAG in use only queues its DENIED (R53). -/
theorem arrive_tagReused {s : State} {p : Nat} {hdr : BitVec 128} (hup : portUp s p = true)
    (hcredit : reqCredits (kindOf (ReqHdr.ofBits hdr).opc) (ReqHdr.ofBits hdr).len ≤
      creditsFree s p (channelOf s (kindOf (ReqHdr.ofBits hdr).opc) (ReqHdr.ofBits hdr).addr))
    (htag : (p, (ReqHdr.ofBits hdr).tag) ∈ s.host.tags) (data : List Codeword) (msg : BitVec 128) (lat : Nat) :
    arrive s p hdr data msg lat = tagReused s p hdr := by
  unfold arrive
  simp only [hup, Bool.not_true, Bool.false_eq_true, if_false, Nat.not_lt.2 hcredit, htag, if_true]
  rfl

/-- A pilot message that is delivered is acted on (R59, R60). -/
theorem arrive_plt {s : State} {p : Nat} {hdr : BitVec 128} {msg : BitVec 128} (hup : portUp s p = true)
    (hk : kindOf (ReqHdr.ofBits hdr).opc = some .plt) (hcredit : 1 ≤ creditsFree s p .pilot)
    (htag : (p, (ReqHdr.ofBits hdr).tag) ∉ s.host.tags) (hdelivered : pltRefusal (ReqHdr.ofBits hdr) msg = none)
    (data : List Codeword) (lat : Nat) :
    arrive s p hdr data msg lat = servePlt (taken s p hdr) p (ReqHdr.ofBits hdr) msg lat := by
  have hcost : ¬ creditsFree s p .pilot < reqCredits (some .plt) (ReqHdr.ofBits hdr).len := Nat.not_lt.2 hcredit
  have hchannel : channelOf s (some .plt) (ReqHdr.ofBits hdr).addr = .pilot := rfl
  have hanswer : formAnswer (ReqHdr.ofBits hdr) msg = none := by simp [formAnswer, hk, badForm, hdelivered]
  unfold arrive
  simp only [hup, Bool.not_true, Bool.false_eq_true, if_false, hk, hchannel, hcost, htag, hanswer]
  rfl

end Sys2Proof.Machine
end

section
/-!
PROOFS. Writes without FINAL, atomics, FNL and pilot messages (R45, R47, R48, R51, R59-R63, R97), and requests that reuse a TAG
(R53).
-/
namespace Sys2Proof.Machine

open Sys2Proof

/-- A write of this harbour that a port takes and that can go is performed in its region at once. -/
theorem arrive_write {s : State} {p : Nat} {hdr : BitVec 128} {k : ReqKind} {data : List Codeword} {g : Region}
    (hacc : Accepts s p hdr) (hk : kindOf (ReqHdr.ofBits hdr).opc = some k) (hwr : (requestOf p k hdr data).isWr = true)
    (hfinal : (ReqHdr.ofBits hdr).final = false) (hgo : Goes (taken s p hdr) (requestOf p k hdr data))
    (hhere : sentAway (taken s p hdr) (requestOf p k hdr data) = false)
    (hreg : regionOf s.part (requestOf p k hdr data).a = some g) (msg : BitVec 128) (lat : Nat) :
    arrive s p hdr data msg lat = settle (serveWrite (taken s p hdr) (requestOf p k hdr data) g) := by
  obtain ⟨-, -, -, hplt⟩ := isWr_excludes hwr
  rw [arrive_of_goes hacc hk hplt hgo,
    takeEffect_write (taken_reqs_of_accepts hacc) hwr hfinal hhere (by rw [taken_part, hreg])]

/-- A write for other harbours that a port takes and that can go leaves at once. -/
theorem arrive_away {s : State} {p : Nat} {hdr : BitVec 128} {k : ReqKind} {data : List Codeword} (hacc : Accepts s p hdr)
    (hk : kindOf (ReqHdr.ofBits hdr).opc = some k) (hgo : Goes (taken s p hdr) (requestOf p k hdr data))
    (haway : sentAway (taken s p hdr) (requestOf p k hdr data) = true) (msg : BitVec 128) (lat : Nat) :
    arrive s p hdr data msg lat = settle (sendAway (taken s p hdr) (requestOf p k hdr data)) := by
  obtain ⟨-, -, -, hplt⟩ := isWr_excludes (isWr_of_sentAway haway)
  rw [arrive_of_goes hacc hk hplt hgo, takeEffect_away (taken_reqs_of_accepts hacc) haway]

/-- Settles O7: in the row of either kind of write, one of this harbour is `arrive_write` and one for other harbours
`arrive_away`. -/
theorem writesComplete : Obligations.WritesComplete := by
  unfold Obligations.WritesComplete
  intro s p hdr data k hacc hk hfinal hgo
  have hopc : (ReqHdr.ofBits hdr).opc = k.opc := kindOf_eq_some.1 hk
  refine ⟨?wr, ?wrr, ?wrAway, ?wrrAway⟩
  case wr =>
    rintro rfl hhere g hreg
    rw [exec_wr data hopc hfinal, arrive_write hacc hk rfl hfinal hgo hhere hreg]
  case wrr =>
    rintro rfl hhere g hreg
    rw [exec_wrr data hopc hfinal, arrive_write hacc hk rfl hfinal hgo hhere hreg]
  case wrAway =>
    rintro rfl haway
    rw [exec_wr data hopc hfinal, arrive_away hacc hk hgo haway]
  case wrrAway =>
    rintro rfl haway
    rw [exec_wrr data hopc hfinal, arrive_away hacc hk hgo haway]

/-- An atomic that a port takes and that can go operates at once. -/
theorem arrive_atomic {s : State} {p : Nat} {hdr : BitVec 128} {data : List Codeword} {g : Region} (hacc : Accepts s p hdr)
    (hk : kindOf (ReqHdr.ofBits hdr).opc = some .atm) (hgo : Goes (taken s p hdr) (requestOf p .atm hdr data))
    (hreg : regionOf s.part (requestOf p .atm hdr data).a = some g) (msg : BitVec 128) (lat : Nat) :
    arrive s p hdr data msg lat = settle (serveAtomic (taken s p hdr) (requestOf p .atm hdr data)) := by
  rw [arrive_of_goes hacc hk (by decide) hgo,
    takeEffect_atomic (taken_reqs_of_accepts hacc) rfl (by rw [taken_part, hreg])]

/-- An FNL that a port takes and whose acknowledgements have come is answered at once. -/
theorem arrive_fnl {s : State} {p : Nat} {hdr : BitVec 128} {data : List Codeword} (hacc : Accepts s p hdr)
    (hk : kindOf (ReqHdr.ofBits hdr).opc = some .fnl) (hgo : Goes (taken s p hdr) (requestOf p .fnl hdr data))
    (msg : BitVec 128) (lat : Nat) :
    arrive s p hdr data msg lat = settle (endFnl (taken s p hdr) (requestOf p .fnl hdr data)) := by
  rw [arrive_of_goes hacc hk (by decide) hgo, takeEffect_fnl (taken_reqs_of_accepts hacc) rfl]

/-- Settles O9: the row of an atomic is `arrive_atomic` and that of an FNL `arrive_fnl`. -/
theorem atomicsAndFnlComplete : Obligations.AtomicsAndFnlComplete := by
  unfold Obligations.AtomicsAndFnlComplete
  intro s p hdr hacc
  constructor
  · intro ops g hk r hgo hreg
    rw [exec_atm ops (kindOf_eq_some.1 hk)]
    exact congrArg Host.Outcome.next (arrive_atomic hacc hk hgo hreg 0 0)
  · intro hk hgo
    rw [exec_fnl (kindOf_eq_some.1 hk), arrive_fnl hacc hk hgo]

/-- A pilot message of KIND ABORT or SNAP is delivered (R60, Table 3-8). -/
theorem pltRefusal_none {h : ReqHdr} {msg : BitVec 128} (hlen : h.len = 2)
    (hkind : bits msg.toNat 7 0 = 1 ∨ bits msg.toNat 7 0 = 3) : pltRefusal h msg = none := by
  rcases hkind with hkind | hkind <;> simp [pltRefusal, hlen, hkind]

/-- Settles O10: the message is delivered (`pltRefusal_none`), so its row acts on it (`arrive_plt`). -/
theorem pilotRequestsComplete : Obligations.PilotRequestsComplete := by
  unfold Obligations.PilotRequestsComplete
  intro s p hdr msg lat hup hcredit htag hk hlen hkind
  have hopc : (ReqHdr.ofBits hdr).opc = 7 := kindOf_eq_some.1 hk
  rw [exec_plt msg lat hopc, arrive_plt hup hk hcredit htag (pltRefusal_none hlen hkind)]

/-- A reused TAG leaves what waits, the tags in use, what waits to leave and the memory as they were, and shows at its port. -/
theorem tagReused_frame (s : State) (p : Nat) (hdr : BitVec 128) :
    (tagReused s p hdr).host.reqs = s.host.reqs ∧ (tagReused s p hdr).host.tags = s.host.tags ∧
    (tagReused s p hdr).host.egress = s.host.egress ∧ (tagReused s p hdr).mem = s.mem ∧
    fld (tagReused s p hdr) (rHbPortStat p) 3 3 = 1 := by
  have hmem : (noteRev s p (ReqHdr.ofBits hdr).rev2).mem = s.mem := by rw [noteRev_eq]
  have hshown := fld_setFld (noteRev s p (ReqHdr.ofBits hdr).rev2) (rHbPortStat p) 1 (hi := 3) (lo := 3) (by decide)
  refine ⟨?_, ?_, ?_, ?_, hshown⟩ <;> simp [tagReused, hmem]

/-- Settles O51: the request of each row arrives with a TAG in use (`arrive_tagReused`), which leaves the rest alone
(`tagReused_frame`). -/
theorem tagReuseIsDenied : Obligations.TagReuseIsDenied := by
  unfold Obligations.TagReuseIsDenied
  intro s p hdr hup htag h hcredit s2 t
  have hdenied (data : List Codeword) (msg : BitVec 128) (lat : Nat) :
      Host.Outcome.next (arrive s p hdr data msg lat) = (.next t : Answer) :=
    congrArg Host.Outcome.next (arrive_tagReused hup hcredit htag data msg lat)
  refine ⟨?rd, ?rda, ?wr, ?wrr, ?finalWrite, ?atm, ?fnl, ?plt, tagReused_frame s p hdr⟩
  case rd => exact fun hopc => (exec_rd hopc).trans (hdenied _ _ _)
  case rda => exact fun hopc => (exec_rda hopc).trans (hdenied _ _ _)
  case wr => exact fun d hopc hfinal => (exec_wr d hopc hfinal).trans (hdenied _ _ _)
  case wrr => exact fun d hopc hfinal => (exec_wrr d hopc hfinal).trans (hdenied _ _ _)
  case finalWrite => exact fun d hopc hfinal => (exec_finalWrite d hopc hfinal).trans (hdenied _ _ _)
  case atm => exact fun d hopc => (exec_atm d hopc).trans (hdenied _ _ _)
  case fnl => exact fun hopc => (exec_fnl hopc).trans (hdenied _ _ _)
  case plt => exact fun m lat hopc => (exec_plt m lat hopc).trans (hdenied _ _ _)

end Sys2Proof.Machine
end

section
/-!
PROOFS. What a host port shows of its link (R54-R56, R62, R394; log entry 101), and held reads whose cause has cleared (R57, R388;
log entry 14).
-/
namespace Sys2Proof.Machine

open Sys2Proof

/-! ### Link events -/

/-- A flit without a credit is refused where the port carries requests (R54). -/
theorem exec_flitWithoutCredit {s : State} {p : Nat} (hup : portUp s p = true) :
    exec (.flitWithoutCredit p) s = .next (refuseFlit s p) :=
  congrArg Host.Outcome.next (if_pos hup)

/-- The state once a response credit has let the waiting messages of its port go (R55). -/
def creditTaken (s : State) (p : Nat) (ch : Channel) : State :=
  pumpPort { s with host := { s.host with
    credits := tset s.host.credits p ((creditsOf s p).set ch ((creditsOf s p).get ch + 1)) } } p

/-- What a response credit lets go is followed by the resets that waited for it (R55, R394). -/
theorem exec_responseCredit {s : State} {p : Nat} (hup : portUp s p = true) (ch : Channel) :
    exec (.responseCredit p ch) s =
      .next (if (creditTaken s p ch).host.orders = [] then creditTaken s p ch else settle (creditTaken s p ch)) := by
  have hrow : exec (.responseCredit p ch) s =
      .next (if portUp s p then
        if (creditTaken s p ch).host.orders.isEmpty then creditTaken s p ch else settle (creditTaken s p ch)
      else s) := rfl
  rw [hrow, if_pos hup]
  simp only [List.isEmpty_iff]

/-- A replay of a pilot message counts in PL_STAT besides (R62). -/
def countReplay (s : State) (pilot : Bool) : State := if pilot then bumpMirror s rPlStat 31 16 1 else s

@[simp] theorem countReplay_true (s : State) : countReplay s true = bumpMirror s rPlStat 31 16 1 := if_pos rfl

@[simp] theorem countReplay_false (s : State) : countReplay s false = s := if_neg Bool.false_ne_true

/-- A replay on a host port that carries requests counts there (R62). -/
theorem exec_linkReplay_hostPort {s : State} {p : Nat} (hup : portUp s p = true) (pilot : Bool) :
    exec (.linkReplay (.hostPort p) pilot) s = .next (countReplay (bumpMirror s (rHbPortStat p) 31 16 1) pilot) :=
  congrArg Host.Outcome.next (if_pos hup)

/-- A replay on a quay link counts only where a pilot message was replayed (R62). -/
theorem exec_linkReplay_quay {s : State} {q : Nat} (hq : q < quays s.part) (hactive : s.pow.harbour = .active) (pilot : Bool) :
    exec (.linkReplay (.quay q) pilot) s = .next (countReplay s pilot) :=
  congrArg Host.Outcome.next (if_pos ⟨hq, hactive⟩)

/-- A read that comes where its channel has no credit left is refused (R54). -/
theorem exec_rd_without_credit {s : State} {p : Nat} {hdr : BitVec 128} (hup : portUp s p = true)
    (hopc : (ReqHdr.ofBits hdr).opc = 1)
    (hcredit : creditsFree s p (channelOf s (some .rd) (ReqHdr.ofBits hdr).addr) = 0) :
    exec (.rd p hdr) s = .next (refuseFlit s p) := by
  have hk : kindOf (ReqHdr.ofBits hdr).opc = some .rd := by rw [hopc]; rfl
  have hcost : creditsFree s p (channelOf s (some .rd) (ReqHdr.ofBits hdr).addr) <
      reqCredits (some .rd) (ReqHdr.ofBits hdr).len := by
    rw [hcredit]
    exact Nat.zero_lt_one
  rw [exec_rd (.inr hopc), arrive_without_credit hup (by rwa [hk])]

/-- Settles O11: each event is its row where the port carries requests, or where the harbour has the quay and is Active. -/
theorem linkEventsComplete : Obligations.LinkEventsComplete := by
  unfold Obligations.LinkEventsComplete
  constructor
  · intro s p hup
    refine ⟨exec_flitWithoutCredit hup, fun hdr hopc hcredit => exec_rd_without_credit hup hopc hcredit,
      fun ch => exec_responseCredit hup ch, ?frameOnly, ?withPilot⟩
    case frameOnly => rw [exec_linkReplay_hostPort hup, countReplay_false]
    case withPilot => rw [exec_linkReplay_hostPort hup, countReplay_true]
  · intro s q hq hactive
    constructor
    · rw [exec_linkReplay_quay hq hactive, countReplay_true]
    · rw [exec_linkReplay_quay hq hactive, countReplay_false]

/-! ### Held reads -/

/-- An action that was not carried out has left only the wakes that it started (R388). -/
theorem attempt_of_held {s : State} {f : State → State} (h : (attempt s f).2 = false) :
    (attempt s f).1 = keepWakes s (f s) := by
  unfold attempt at h ⊢
  dsimp only at h ⊢
  split
  · next hdone => simp [hdone] at h
  · rfl

/-- A held read is looked at again by its row, and what that lets go follows (R57). -/
theorem exec_heldRead {s : State} {p tag : Nat} {h : HeldReq} (hfound : findReq s p tag = some h) (hrd : h.req.isRd = true) :
    exec (.heldRead p tag) s = .next (settle (carryOut s h (verdict s h false))) := by
  have htry : tryReq s false (p, tag) = carryOut s h (verdict s h false) := by simp only [tryReq, hfound]
  change execHeldRead p tag s = _
  simp only [execHeldRead, hfound, hrd, htry, if_true]

/-- Settles O12: the row carries out the verdict (`exec_heldRead`), which serves the read, or keeps it with its wakes where an
access of it must still wait. -/
theorem heldReadCompletes : Obligations.HeldReadCompletes := by
  unfold Obligations.HeldReadCompletes
  intro s p tag h hfound hrd hgo
  rw [exec_heldRead hfound hrd, hgo]
  constructor
  · intro hdone
    simp only [carryOut, hdone, if_true, attempt_of_done hdone]
  · intro hheld
    simp only [carryOut, hheld, Bool.false_eq_true, if_false, attempt_of_held hheld]

end Sys2Proof.Machine
end

section
/-!
PROOFS. Packets of the message types: ACK, REFUSE, GATE, PILOT and NORM (R61, R125, R126, R172, R185, R214, R215, R435).
-/
namespace Sys2Proof.Machine

open Sys2Proof

/-! ### Packets that a row takes -/

@[simp] theorem rouse_land (s : State) (e : Nat) : (rouse s e).land = s.land := by rw [rouse_eq]

@[simp] theorem rouse_harbour (s : State) (e : Nat) : (rouse s e).pow.harbour = s.pow.harbour := by
  unfold rouse
  split <;> rfl

/-- An engine that wakes from Idle finds the landing ports as they were. -/
@[simp] theorem landUp_rouse (s : State) (e : Nat) : landUp (rouse s e) = landUp s := by simp [landUp]

/-- A packet that a row takes is handled by the row (R169). -/
theorem withPacket_of_arrived {s s1 : State} {src : LandSrc} {hdr : BitVec 256} {payload : List Codeword}
    {want : Packet → Bool} {p : Packet} (h : arrived s src hdr payload want = some (s1, p)) (f : State → Packet → State) :
    withPacket s src hdr payload want f = f s1 p := by
  unfold arrived at h
  cases src with
  | port n =>
    obtain ⟨hchecks, hsome⟩ := Option.ite_none_right_eq_some.1 h
    cases hsome
    simp only [landUp_rouse, Bool.and_eq_true, Bool.not_eq_true', decide_eq_true_eq] at hchecks
    obtain ⟨⟨⟨⟨hup, hn⟩, hheader⟩, hpayload⟩, hwant⟩ := hchecks
    unfold withPacket
    simp only [hup, Nat.not_le.2 hn, hheader, hpayload, hwant, Bool.not_true, Bool.or_self, Bool.false_eq_true, if_false,
      if_true]
  | loop i =>
    dsimp only at h
    split at h
    · next q hq =>
      obtain ⟨hchecks, hsome⟩ := Option.ite_none_right_eq_some.1 h
      cases hsome
      simp only [landUp_rouse, Bool.and_eq_true, Bool.not_eq_true'] at hchecks
      obtain ⟨⟨⟨hup, hwant⟩, hheader⟩, hpayload⟩ := hchecks
      unfold withPacket
      simp only [hup, hq, hheader, hpayload, hwant, Bool.not_true, Bool.or_self, Bool.false_eq_true, if_false]
    · cases h

/-- A GATE packet that a row takes acts by its message (R435). -/
theorem onGateMsg_of_arrived {s s1 : State} {src : LandSrc} {hdr : BitVec 256} {payload : List Codeword} {msg : Nat}
    {p : Packet} {m : GateMsg}
    (h : arrived s src hdr payload (fun q => ofType tyGATE q && (gateMsgOf q).any fun x => x.msg == msg) = some (s1, p))
    (hm : gateMsgOf p = some m) (f : State → Nat → GateMsg → State) :
    onGateMsg s src hdr payload msg f = f s1 p.hdr.orig m := by
  rw [onGateMsg, withPacket_of_arrived h, hm]

/-! ### Pilot packets -/

/-- What a pilot packet does with its message: every quay engine accepts it, a RECALL goes on to host ports, and a SNAP is taken
by the harbour too (R167, R277, R370). -/
def pilotLands (s : State) (m : BitVec 128) : State :=
  if bits m.toNat 7 0 = 2 then forwardRecall (pilotArrive s m false none) m
  else if bits m.toNat 7 0 = 3 then snapOut (pilotArrive s m false none)
  else pilotArrive s m false none

theorem pilotLands_recall {s : State} {m : BitVec 128} (h : bits m.toNat 7 0 = 2) :
    pilotLands s m = forwardRecall (pilotArrive s m false none) m := if_pos h

theorem pilotLands_snap {s : State} {m : BitVec 128} (h : bits m.toNat 7 0 = 3) :
    pilotLands s m = snapOut (pilotArrive s m false none) := by simp [pilotLands, h]

/-- The row of pilot packets takes one whose grain can be read. -/
theorem exec_pilotPacket {s s1 : State} {src : LandSrc} {hdr : BitVec 256} {payload : List Codeword} {p : Packet} {g : Grain}
    (h : arrived s src hdr payload (ofType tyPILOT) = some (s1, p)) (hg : payloadGrain p 0 = some g) :
    exec (.pilotPacket src hdr payload) s = .next (pilotLands s1 (g.setWidth 128)) := by
  change execPilotPacket src hdr payload s = _
  rw [execPilotPacket, withPacket_of_arrived h, hg]
  rfl

/-! ### Totals of the norm -/

/-- The set that the total of a NORM packet names (Table 9-2). -/
def totalSet (gs : List Grain) : Nat := bits (gs.getD 64 0).toNat 79 64

/-- The step that it names. -/
def totalStep (gs : List Grain) : Nat := bits (gs.getD 64 0).toNat 127 80

/-- The 256 sums that it carries. -/
def totalSums (gs : List Grain) : List Nat :=
  (gs.take 64).flatMap fun g => (List.range 4).map fun i => bits g.toNat (64 * i + 63) (64 * i)

section

variable {s s1 : State} {src : LandSrc} {hdr : BitVec 256} {payload : List Codeword} {p : Packet} {gs : List Grain}

/-- A total with a grain that cannot be read is discarded (R327; log entry 87). -/
theorem exec_normPacket_unreadable (h : arrived s src hdr payload (ofType tyNORM) = some (s1, p)) (hgs : normGrains p = none) :
    exec (.normPacket src hdr payload) s = .next (countBadPkt s1) := by
  change execNormPacket src hdr payload s = _
  rw [execNormPacket, withPacket_of_arrived h, hgs]

/-- A total of a round that waits for it decides the round (R214, R215). -/
theorem exec_normPacket_open {x : Pset} (h : arrived s src hdr payload (ofType tyNORM) = some (s1, p))
    (hgs : normGrains p = some gs) (hset : setOf? s1 (totalSet gs) = some x) (hphase : x.sw.phase = .normSent)
    (hstep : totalStep gs = x.ep.step + 1) :
    exec (.normPacket src hdr payload) s =
      .next (decideRound s1 (totalSet gs) (vectorUnits (totalSums gs)) (bits (gs.getD 64 0).toNat 63 0)) := by
  unfold totalSet at hset
  change execNormPacket src hdr payload s = _
  rw [execNormPacket, withPacket_of_arrived h, hgs]
  simp only [hset]
  exact congrArg Host.Outcome.next (if_pos ⟨hphase, hstep⟩)

/-- A total of no open round is discarded (R214). -/
theorem exec_normPacket_closed (h : arrived s src hdr payload (ofType tyNORM) = some (s1, p)) (hgs : normGrains p = some gs)
    (hclosed : (setOf? s1 (totalSet gs)).all (fun x => x.sw.phase != .normSent || totalStep gs != x.ep.step + 1) = true) :
    exec (.normPacket src hdr payload) s = .next (countBadPkt s1) := by
  unfold totalSet at hclosed
  change execNormPacket src hdr payload s = _
  rw [execNormPacket, withPacket_of_arrived h, hgs]
  dsimp only
  split
  · rfl
  · next x hset =>
    rw [hset, Option.all_some, Bool.or_eq_true, bne_iff_ne, bne_iff_ne] at hclosed
    exact congrArg Host.Outcome.next (if_neg fun hopen => hclosed.elim (· hopen.1) (· hopen.2))

end

/-! ### The rows -/

/-- Settles O32: each row handles the packet that it takes (`withPacket_of_arrived`), by its message, its KIND or the round that
it names. -/
theorem messagePacketsComplete : Obligations.MessagePacketsComplete := by
  unfold Obligations.MessagePacketsComplete
  refine ⟨?ack, ?refuse, ?gateArrival, ?gateRelease, ?gateAbort, ?pilotRecall, ?pilotSnap, ?normOpen, ?normClosed, ?normUnreadable⟩
  case ack =>
    intro s s1 src hdr payload p h
    exact congrArg (fun t => Host.Outcome.next (afterLanding t)) (withPacket_of_arrived h ackMsg)
  case refuse =>
    intro s s1 src hdr payload p h
    exact congrArg (fun t => Host.Outcome.next (afterLanding t)) (withPacket_of_arrived h refuseMsg)
  case gateArrival =>
    intro s s1 src hdr payload p m h hm
    exact congrArg Host.Outcome.next (onGateMsg_of_arrived h hm arrivalMsg)
  case gateRelease =>
    intro s s1 src hdr payload p m h hm
    exact congrArg Host.Outcome.next (onGateMsg_of_arrived h hm releaseMsg)
  case gateAbort =>
    intro s s1 src hdr payload p m h hm
    exact congrArg Host.Outcome.next (onGateMsg_of_arrived h hm abortMsg)
  case pilotRecall =>
    intro s s1 src hdr payload p g h hg hkind
    rw [exec_pilotPacket h hg, pilotLands_recall hkind]
  case pilotSnap =>
    intro s s1 src hdr payload p g h hg hkind
    rw [exec_pilotPacket h hg, pilotLands_snap hkind]
  case normOpen =>
    intro s s1 src hdr payload p gs x h hgs hset hphase hstep
    exact exec_normPacket_open h hgs hset hphase hstep
  case normClosed =>
    intro s s1 src hdr payload p gs h hgs hclosed
    exact exec_normPacket_closed h hgs hclosed
  case normUnreadable =>
    intro s s1 src hdr payload p h hgs
    exact exec_normPacket_unreadable h hgs

end Sys2Proof.Machine
end

section
/-!
PROOFS. The frame of a command's end: what each operation that a reply, a release or a wait met by it carries out leaves alone
(R80-R82, R112-R114, R316, R388).
-/
namespace Sys2Proof.Machine

open Sys2Proof

/-! ### One completion -/

/-- The reply of a command's end (R80). -/
def replyOf (s : State) (p : CmdPkt) (st field res : Nat) : Reply :=
  { token := BitVec.ofNat 64 p.token, seq := p.seq, win := p.win, status := st, opcode := p.opcode, field := field,
    result := BitVec.ofNat 64 res, tick := now s, post := p.wantsReply || decide (0x10 ≤ st), release := p.release?,
    task := p.task }

/-- The state without the command of a context. -/
def dropCmd (s : State) (cx : Nat) : State := { s with cmd := { s.cmd with running := terase s.cmd.running cx } }

theorem finishOne_of_found {s : State} {cx : Nat} {run : Running} (h : cmdOf? s cx = some run) (st f res : Nat) :
    finishOne s cx st f res = postReply (dropCmd s cx) (replyOf s run.pkt st f res) := by
  unfold finishOne
  rw [h]
  rfl

theorem finishOne_of_missing {s : State} {cx : Nat} (h : cmdOf? s cx = none) (st f res : Nat) :
    finishOne s cx st f res = (s, []) := by
  rw [finishOne, h]

/-! ### The frame -/

/-- What is left of a state by something that the end of a command does: all that `Untouched` lists stands as it was, and the
memory keeps its form. -/
structure EndFrame (s t : State) : Prop where
  untouched : t.untouched = s.untouched
  memOk : s.memOk → t.memOk

namespace EndFrame

theorem refl (s : State) : EndFrame s s := ⟨rfl, id⟩

theorem trans {s t u : State} (h : EndFrame s t) (h' : EndFrame t u) : EndFrame s u :=
  ⟨h'.untouched.trans h.untouched, h'.memOk ∘ h.memOk⟩

/-- The part is one of the fuses. -/
theorem part {s t : State} (h : EndFrame s t) : t.part = s.part := congrArg (fun u => u.fuses.part) h.untouched

/-- Many operations leave the frame where each one does. -/
theorem foldl {α : Type} {f : State → α → State} (hf : ∀ s a, EndFrame s (f s a)) (l : List α) (s : State) :
    EndFrame s (l.foldl f s) := by
  induction l generalizing s with
  | nil => exact refl s
  | cons a l ih => exact (hf s a).trans (ih _)

/-! ### Registers and the logbook -/

theorem of_setFld (s : State) (off hi lo v : Nat) : EndFrame s (setFld s off hi lo v) := ⟨rfl, id⟩

theorem of_bump (s : State) (off hi lo n : Nat) : EndFrame s (bump s off hi lo n) := by
  unfold bump
  split
  · exact refl s
  · exact of_setFld s _ _ _ _

theorem of_bumpMirror (s : State) (off hi lo n : Nat) : EndFrame s (bumpMirror s off hi lo n) := by
  unfold bumpMirror
  split
  · exact refl s
  · exact (of_bump s off hi lo n).trans ⟨rfl, id⟩

theorem of_noteCorrection (s : State) (home : Nat) : EndFrame s (noteCorrection s home) := by
  unfold noteCorrection
  split
  · exact ⟨rfl, id⟩
  · exact refl s

theorem of_recordBad (s : State) (home : Nat) : EndFrame s (recordBad s home) := ⟨rfl, id⟩

/-! ### Grains -/

theorem of_startWake (s : State) (home : Nat) : EndFrame s (startWake s home) := by
  rw [startWake_eq]
  exact ⟨rfl, id⟩

theorem of_storeRaw (s : State) (home : Nat) (c : Codeword) : EndFrame s (storeRaw s home c) :=
  ⟨by simp [State.untouched], storeRaw_memOk home c⟩

theorem of_shadowGrain (s : State) (home : Nat) : EndFrame s (shadowGrain s home) := by
  unfold shadowGrain
  split
  · exact refl s
  · dsimp only
    split
    · split
      · exact refl s
      · exact ⟨rfl, id⟩
    · exact refl s

theorem of_storeOpen (s : State) (home : Nat) (c : Codeword) : EndFrame s (storeOpen s home c) :=
  ((of_startWake s home).trans (of_shadowGrain _ home)).trans (of_storeRaw _ home c)

theorem of_hold (s : State) (w : HeldWrite) :
    EndFrame s { s with berth := { s.berth with held := s.berth.held ++ [w] } } := ⟨rfl, id⟩

theorem of_holdWrite (s : State) (w : HeldWrite) : EndFrame s (holdWrite s w) :=
  (foldl (f := fun s' (h : Nat × Nat) => startWake s' h.1) (fun s' h => of_startWake s' h.1) _ s).trans (of_hold _ w)

theorem of_storeGrain (s : State) (home : Nat) (g : Grain) : EndFrame s (storeGrain s home g) := by
  unfold storeGrain storeWord
  split
  · exact of_holdWrite s _
  · exact of_storeOpen s home _

/-- A read corrects what it can, and counts and records what it meets (R326). -/
theorem of_readGrain (s : State) (home : Nat) : EndFrame s (readGrain s home).1 := by
  refine (of_startWake s home).trans ?_
  unfold readGrain
  dsimp only
  split <;> dsimp only
  · exact refl _
  · exact ((of_storeRaw _ home _).trans (of_bump _ _ 15 0 1)).trans (of_noteCorrection _ home)
  · exact (of_bumpMirror _ _ 31 16 1).trans (of_recordBad _ home)
  · exact of_bump _ _ 47 32 1

theorem of_atomicWord (s : State) (a : Nat) (f : Nat → Nat) : EndFrame s (atomicWord s a f).1 := by
  unfold atomicWord
  dsimp only
  split
  · exact of_readGrain s _
  · exact (of_readGrain s _).trans (of_storeOpen _ _ _)

/-! ### Replies, releases and waits -/

theorem of_setWin (s : State) (w : Nat) (x : Window) : EndFrame s (setWin s w x) := ⟨rfl, id⟩

theorem of_addTag (s : State) (task : Nat) (isGate : Bool) (num value : Nat) : EndFrame s (addTag s task isGate num value) :=
  ⟨rfl, id⟩

theorem of_keepLast (s : State) (k v : Nat) : EndFrame s (keepLast s k v) := ⟨rfl, id⟩

theorem of_tagBeacon (s : State) (task k : Nat) : EndFrame s (tagBeacon s task k) := by
  unfold tagBeacon
  split
  · exact (of_readGrain s _).trans (of_addTag _ task false k _)
  · exact refl s

theorem of_attnPulse (s : State) (k v : Nat) : EndFrame s (attnPulse s k v) := by
  unfold attnPulse
  split
  · dsimp only
    split
    · exact ⟨rfl, id⟩
    · exact refl s
  · exact refl s

theorem of_releaseOpt (s : State) (task : Nat) (r : Option Release) : EndFrame s (releaseOpt s task r).1 := by
  cases r with
  | none => exact refl s
  | some r =>
    have hword := fun f => (of_tagBeacon s task r.beacon).trans (of_atomicWord _ (beaconAddr r.beacon) f)
    unfold releaseOpt releaseBeacon
    dsimp only
    split
    · next hread => exact congrArg Prod.fst hread ▸ hword _
    · next hbad => exact congrArg Prod.fst hbad ▸ hword _

theorem of_ringWake (s : State) (w : Window) : EndFrame s (ringWake s w) := by
  unfold ringWake
  split
  · exact refl s
  · exact (of_startWake s (ringEntry s w)).trans ⟨rfl, id⟩

theorem of_writeReply (s : State) (r : Reply) : EndFrame s (writeReply s r) := by
  unfold writeReply
  dsimp only
  split
  · exact of_setWin s r.win _
  · exact (of_setWin s r.win _).trans (of_storeGrain _ _ _)

theorem of_postReply (s : State) (r : Reply) : EndFrame s (postReply s r).1 := by
  unfold postReply
  split
  · exact of_releaseOpt s _ _
  · dsimp only
    split
    · exact (of_ringWake s _).trans (of_setWin _ r.win _)
    · exact (of_writeReply s r).trans (of_releaseOpt _ _ _)

theorem of_dropCmd (s : State) (cx : Nat) : EndFrame s (dropCmd s cx) := ⟨rfl, id⟩

theorem of_finishOne (s : State) (cx st f res : Nat) : EndFrame s (finishOne s cx st f res).1 := by
  cases hcmd : cmdOf? s cx with
  | none =>
    rw [finishOne_of_missing hcmd]
    exact refl s
  | some run =>
    rw [finishOne_of_found hcmd]
    exact (of_dropCmd s cx).trans (of_postReply _ _)

theorem of_runTodo (n : Nat) (s : State) (l : List Todo) : EndFrame s (runTodo n s l) := by
  induction n generalizing s l with
  | zero => exact refl s
  | succ n ih =>
    match l with
    | [] => exact refl s
    | .fin cx st f res :: l => exact (of_finishOne s cx st f res).trans (ih _ _)
    | .changed k v :: l => exact ((of_attnPulse s k v).trans (of_keepLast _ k v)).trans (ih _ _)

theorem of_settleTodo (s : State) (l : List Todo) : EndFrame s (settleTodo s l) := of_runTodo _ s l

theorem of_complete (s : State) (cx st res : Nat) : EndFrame s (complete s cx st res) := of_settleTodo s _

theorem of_completeBad (s : State) (cx st f : Nat) : EndFrame s (completeBad s cx st f) := of_settleTodo s _

end EndFrame

/-- Settles O48: both ends of a command are lists of effects, each of which leaves the frame. -/
theorem completionFrame : Obligations.CompletionFrame := by
  unfold Obligations.CompletionFrame
  intro s cx st f res
  have hdone := EndFrame.of_complete s cx st res
  have hbad := EndFrame.of_completeBad s cx st f
  exact ⟨hdone.untouched, hbad.untouched, hdone.part, fun hok => ⟨hdone.memOk hok, hbad.memOk hok⟩⟩

end Sys2Proof.Machine
end

section
/-!
SUPPORT. Byte strings and the numbers they spell (R10), and accesses to the harbour's own SRAM, which neither a berth operation
nor a sleeping quay holds (Table 2-3, R316, R317, R388).
-/
namespace Sys2Proof.Machine

open Sys2Proof

/-! ### Bytes and numbers -/

theorem leBytes_leNat (bs : List Byte) : leBytes bs.length (leNat bs) = bs := by
  induction bs with
  | nil => rfl
  | cons b bs ih =>
    have hlow : BitVec.ofNat 8 (b.toNat + 256 * leNat bs) = b := by
      refine BitVec.eq_of_toNat_eq ?_
      rw [BitVec.toNat_ofNat]
      omega
    have hhigh : (b.toNat + 256 * leNat bs) / 256 = leNat bs := by omega
    rw [List.length_cons, leNat, leBytes, hlow, hhigh, ih]

/-- Only the low 8n bits of a number reach its n bytes. -/
theorem leBytes_mod (n v : Nat) : leBytes n (v % 256 ^ n) = leBytes n v := by
  have hread := leBytes_leNat (leBytes n v)
  rwa [length_leBytes, leNat_leBytes] at hread

theorem grainBytes_bytesGrain {bs : List Byte} (h : bs.length = 32) : grainBytes (bytesGrain bs) = bs := by
  have hall : bs.take 32 = bs := List.take_of_length_le (by omega)
  rw [grainBytes, bytesGrain, hall, BitVec.toNat_ofNat, show 2 ^ 256 = 256 ^ 32 by norm_num, leBytes_mod, ← h, leBytes_leNat]

/-! ### The harbour's own SRAM -/

/-- An address there lies in no region that ends below it. -/
theorem inRegion_of_hsram {part : Part} {a : Nat} {r : Region} (ha : hsramBase ≤ a)
    (hr : regionBase r + regionSize part r ≤ hsramBase) : inRegion part a r = false :=
  decide_eq_false (by omega)

theorem inRegion_dram_of_hsram {part : Part} {a : Nat} (ha : hsramBase ≤ a) : inRegion part a .dram = false :=
  inRegion_of_hsram ha (by cases part <;> decide)

theorem homeAddr_of_hsram {part : Part} {a : Nat} (ha : hsramBase ≤ a) : homeAddr part a = a := by
  rw [homeAddr, inRegion_of_hsram ha (by cases part <;> decide), if_neg Bool.false_ne_true]

theorem quayOf_of_hsram {part : Part} {a : Nat} (ha : hsramBase ≤ a) : quayOf part a = none := by
  rw [quayOf, inRegion_dram_of_hsram ha, inRegion_of_hsram ha (by cases part <;> decide)]
  rfl

/-- The pieces of a range there lie there. -/
theorem pieceHomes_of_hsram {s : State} {a n : Nat} (ha : hsramBase ≤ a) : ∀ h ∈ pieceHomes s a n, hsramBase ≤ h.1 := by
  intro h hmem
  obtain ⟨i, -, rfl⟩ : ∃ i, _ ∧ _ = h := by simpa [pieceHomes, grainsOf] using hmem
  have hgrain : hsramBase ≤ a / 32 * 32 + 32 * i := by
    simp only [hsramBase] at ha ⊢
    omega
  rw [homeAddr_of_hsram hgrain]
  omega

theorem regionHeld_of_hsram {s : State} {a n : Nat} (ha : hsramBase ≤ a) : regionHeld s a n = false := by
  have hnone : ∀ h ∈ pieceHomes s a n, ¬(inRegion s.part h.1 .dram && regionMeets s (bankPlace s.part h.1).1
      (bankPlace s.part h.1).2 h.2) = true := by
    intro h hmem
    simp [inRegion_dram_of_hsram (pieceHomes_of_hsram ha h hmem)]
  rw [regionHeld, List.any_eq_false.2 hnone, Bool.and_false]

theorem sleepsAt_of_hsram {s : State} {a n : Nat} (ha : hsramBase ≤ a) : sleepsAt s a n = false := by
  rw [sleepsAt, List.any_eq_false.2, Bool.and_false]
  intro h hmem
  simp [quayOf_of_hsram (pieceHomes_of_hsram ha h hmem)]

theorem startWake_of_hsram {s : State} {a : Nat} (ha : hsramBase ≤ a) : startWake s a = s := by
  rw [startWake, quayOf_of_hsram ha, ite_self]

theorem shadowGrain_of_hsram {s : State} {a : Nat} (ha : hsramBase ≤ a) : shadowGrain s a = s := by
  have hplace : berthPlace s a = none := by
    rw [berthPlace, inRegion_dram_of_hsram ha, if_neg Bool.false_ne_true, ite_self]
  rw [shadowGrain, hplace]

/-- A codeword stored there is stored at once. -/
theorem storeWord_of_hsram {s : State} {a : Nat} (ha : hsramBase ≤ a) (c : Codeword) : storeWord s a c = storeRaw s a c := by
  rw [storeWord, mustWait, regionHeld_of_hsram ha, sleepsAt_of_hsram ha, Bool.or_self, if_neg Bool.false_ne_true, storeOpen,
    startWake_of_hsram ha, shadowGrain_of_hsram ha]

end Sys2Proof.Machine
end

section
/-!
PROOFS. The reply record of a command's end in a ring of the software pools (R80, R81, Table 4-4).
-/
namespace Sys2Proof.Machine

open Sys2Proof

/-! ### One end without a release -/

/-- A command's end that changes no beacon is its completion alone. -/
theorem complete_of_quiet {s : State} {cx st res : Nat} (h : (finishOne s cx st 0 res).2 = []) :
    complete s cx st res = (finishOne s cx st 0 res).1 := by
  obtain ⟨n, hfuel⟩ : ∃ n, todoFuel s [.fin cx st 0 res] = n + 2 := by
    refine Nat.exists_eq_add_of_le' ?_
    exact Nat.le_trans (by simp) (Nat.le_mul_of_pos_right _ (Nat.succ_pos _))
  rw [complete, settleTodo, hfuel, runTodo, h]
  rfl

/-- A reply that must be posted, without a release, is written where its ring has room and no earlier one is held (R81). -/
theorem postReply_of_room {s : State} {r : Reply} (hpost : r.post = true) (hring : ringWaits s (winOf s r.win) = false)
    (hheld : (winOf s r.win).held = []) (hrelease : r.release = none) : postReply s r = (writeReply s r, []) := by
  simp [postReply, hpost, hring, hheld, hrelease, releaseOpt]

/-! ### The record -/

@[simp] theorem length_replyBytes (r : Reply) (phase : Bool) : (replyBytes r phase).length = 32 := by
  simp [replyBytes]

/-- The record of a reply spells the fields of Table 4-4. -/
theorem replyBytes_replyOf (s : State) (p : CmdPkt) (st res : Nat) (phase : Bool) :
    replyBytes (replyOf s p st 0 res) phase =
      leBytes 8 p.token ++ leBytes 2 p.seq ++ leBytes 1 p.win ++ leBytes 1 st ++ leBytes 2 p.opcode ++
      leBytes 2 (b2n phase) ++ leBytes 8 res ++ leBytes 6 (now s) ++ leBytes 2 0 := by
  have hword : ∀ v, leBytes 8 (BitVec.ofNat 64 v).toNat = leBytes 8 v := fun v => by
    rw [BitVec.toNat_ofNat, show 2 ^ 64 = 256 ^ 8 by norm_num, leBytes_mod]
  simp [replyBytes, replyOf, hword, -BitVec.toNat_ofNat]

/-- The 32 bytes of a grain that is stored are read back. -/
theorem memRead_storeRaw_bytes {s : State} {a : Nat} {bs : List Byte} (hok : s.memOk) (hlen : bs.length = 32) :
    memRead (storeRaw s a (codewordOf (bytesGrain bs))).mem a 32 = bs := by
  have hread := memRead_memWrite a (grainBytes (bytesGrain bs)) hok
  rw [length_grainBytes] at hread
  rw [storeRaw_mem]
  exact hread.trans (grainBytes_bytesGrain hlen)

/-- The address of the ring entry that a window's next reply takes, before the aperture is looked at. -/
def ringAddr (w : Window) : Nat := w.base + 32 * (w.prod % 2 ^ w.size)

theorem ringAddr_of_pools {w : Window} (hpools : inPools w.base (32 * 2 ^ w.size) = true) : hsramBase ≤ ringAddr w := by
  obtain ⟨hlow, -⟩ : poolBase ≤ w.base ∧ _ := of_decide_eq_true hpools
  calc hsramBase ≤ poolBase := by decide
    _ ≤ w.base := hlow
    _ ≤ ringAddr w := Nat.le_add_right _ _

theorem ringEntry_of_hsram {w : Window} (h : hsramBase ≤ ringAddr w) (s : State) : ringEntry s w = ringAddr w := by
  rw [ringEntry, Nat.mul_comm _ 32]
  exact homeAddr_of_hsram h

/-- Where a ring lies in the harbour's own SRAM, a reply waits only for room. -/
theorem ringWaits_of_hsram {w : Window} (h : hsramBase ≤ ringAddr w) (s : State) : ringWaits s w = ringFull w := by
  simp [ringWaits, ringEntry_of_hsram h, regionHeld_of_hsram h, quayOf_of_hsram h]

/-- There a reply record is stored at its entry at once, with the PHASE bit of its pass, and counted. -/
theorem writeReply_of_hsram {s : State} {r : Reply} {w : Window} (hwin : winOf s r.win = w) (hsize : w.size ≠ 0)
    (h : hsramBase ≤ ringAddr w) :
    writeReply s r = storeRaw (setWin s r.win { w with prod := (w.prod + 1) % 131072 }) (ringAddr w)
      (codewordOf (bytesGrain (replyBytes r (w.prod / 2 ^ w.size % 2 == 0)))) := by
  unfold writeReply
  simp only [hwin, hsize, if_false, ringEntry_of_hsram h, Nat.shiftRight_eq_div_pow]
  exact storeWord_of_hsram h _

theorem winOf_setWin_same (s : State) (w : Nat) (x : Window) : winOf (setWin s w x) w = x := by
  simp [winOf, setWin, tget_tput]

/-- Settles O49: the end is one reply record stored in the harbour's own SRAM, where nothing holds it. -/
theorem replyRecordIsWritten : Obligations.ReplyRecordIsWritten := by
  unfold Obligations.ReplyRecordIsWritten
  dsimp only
  intro s cx st res run hok hcmd hreply hrelease hsize hheld hroom _ hpools
  have haddr := ringAddr_of_pools hpools
  have hpost : (replyOf s run.pkt st 0 res).post = true := by simpa [replyOf] using hreply
  have hring : ringWaits (dropCmd s cx) (winOf s run.pkt.win) = false := by rw [ringWaits_of_hsram haddr, hroom]
  have hfinish : finishOne s cx st 0 res = (writeReply (dropCmd s cx) (replyOf s run.pkt st 0 res), []) := by
    rw [finishOne_of_found hcmd]
    exact postReply_of_room hpost hring hheld hrelease
  have hend := (complete_of_quiet (congrArg Prod.snd hfinish)).trans (congrArg Prod.fst hfinish)
  rw [writeReply_of_hsram (w := winOf s run.pkt.win) rfl hsize haddr] at hend
  rw [hend]
  refine ⟨?_, ?_, ?_, fun b hb => ?_⟩
  · rw [← replyBytes_replyOf]
    exact memRead_storeRaw_bytes hok (length_replyBytes _ _)
  · simp only [winOf, storeRaw_cmd]
    exact winOf_setWin_same _ _ _
  · simp [cmdOf?, setWin, dropCmd, tget?_terase]
  · exact memByte_storeRaw_out _ hok hb

end Sys2Proof.Machine
end

section
/-!
PROOFS. The start of commands and the replies held for a full ring (R73, R77-R79, R81, R83, R390), and what an action held whole
leaves (R316, R388).
-/
namespace Sys2Proof.Machine

open Sys2Proof

/-- A row answers by the state that it leaves. -/
theorem next_congr {s t : State} (h : s = t) : (.next s : Answer) = .next t := by rw [h]

/-! ### The start of a command -/

/-- The oldest packet of a window is taken where neither its window's order, nor a bound, nor an earlier launch holds it. -/
theorem exec_commandStart_of_free {s : State} {w : Nat} {p : CmdPkt} {t : List CmdPkt} (hpend : (winOf s w).pend = p :: t)
    (hactive : s.pow.harbour = .active) (horder : orderHolds s w p = false) (hbound : boundHolds s w p = false)
    (hlaunch : launchWaits s p = false) :
    exec (.commandStart w) s = .next (begun (takeCmd s w p) s.cmd.nextCx p) := by
  have hrow : exec (.commandStart w) s = execCommandStart w s := rfl
  rw [hrow, execCommandStart]
  simp [hpend, hactive, horder, hbound, hlaunch]

/-- Only the commands of the harbourmaster are taken in the order of their launch (R78). -/
theorem launchWaits_of_fast (s : State) {p : CmdPkt} (hfast : fastOp p.opcode = true) : launchWaits s p = false := by
  simp [launchWaits, hfast]

/-- A fast-path command whose packet alone does not answer it goes on. -/
theorem begun_of_fast_none {s : State} {cx : Nat} {p : CmdPkt} (hfast : fastOp p.opcode = true) (hst : p.status? = none) :
    begun s cx p = s := by
  simp only [begun, hfast, hst, if_true]

/-- A fast-path command that its packet alone answers ends at once. -/
theorem begun_of_fast_some {s : State} {cx st : Nat} {p : CmdPkt} (hfast : fastOp p.opcode = true)
    (hst : p.status? = some st) : begun s cx p = complete s cx st 0 := by
  simp only [begun, hfast, hst, if_true]

/-- The harbourmaster answers a command at its start where it is HALTED, and otherwise those that end without a row. -/
theorem begun_of_firmware {s : State} {cx : Nat} {p : CmdPkt} (hfast : fastOp p.opcode = false) :
    begun s cx p = if hmHalted s then complete s cx stABORTED 0 else answerBadOps s := by
  simp only [begun, hfast, Bool.false_eq_true, if_false]

/-! ### Held replies -/

/-- The state once the oldest held reply of a window has been written and released, with the waits that its release meets. -/
def heldPosted (s : State) (w : Nat) (q : Reply) (t : List Reply) : State :=
  let y := releaseOpt (writeReply (setWin s w { winOf s w with held := t }) q) q.task q.release
  settleTodo y.1 y.2

/-- What follows a posted reply: that of a HARBOUR_MOOR lets the mooring begin (R390). -/
def mooringAfter (s : State) (q : Reply) : State :=
  match s.pow.moorReply with
  | some retain => if q.opcode = 0x0A02 then beginMooring s retain else s
  | none => s

theorem mooringAfter_of_rest {s : State} {q : Reply} (h : q.opcode ≠ 0x0A02 ∨ s.pow.moorReply = none) :
    mooringAfter s q = s := by
  unfold mooringAfter
  split
  · next hmoor => exact if_neg (by simpa [hmoor] using h)
  · rfl

theorem mooringAfter_of_moor {s : State} {q : Reply} {retain : Bool} (hop : q.opcode = 0x0A02)
    (hmoor : s.pow.moorReply = some retain) : mooringAfter s q = beginMooring s retain := by
  simp only [mooringAfter, hmoor, hop, if_true]

/-- While the clocks run, a ring with room takes the oldest held reply (R81). -/
theorem exec_heldReplyPost_of_room {s : State} {w : Nat} {q : Reply} {t : List Reply} (hheld : (winOf s w).held = q :: t)
    (hring : ringWaits s (winOf s w) = false) (hclocks : clocksRun s = true) :
    exec (.heldReplyPost w) s = .next (mooringAfter (heldPosted s w q t) q) := by
  have hrow : exec (.heldReplyPost w) s = execHeldReplyPost w s := rfl
  rw [hrow, execHeldReplyPost]
  simp only [hheld, hring, hclocks, Bool.not_true, Bool.false_eq_true, if_false]
  rfl

/-! ### Actions held whole -/

/-- Where only wakes are kept, only which quays doze and wake has changed. -/
theorem keepWakes_eq (s t : State) : keepWakes s t =
    { s with pow := { s.pow with doze := (keepWakes s t).pow.doze, waking := (keepWakes s t).pow.waking } } := rfl

theorem whole_of_held {s : State} {f : State → State} (hcalm : calm s = false) (hheld : carried s (f s) = false) :
    whole s f = keepWakes s (f s) := by
  simp [whole, attempt, hcalm, hheld]

/-- Settles O15: every clause on a start is what `begun` does with the packet taken, those on held replies are what follows the
posting, and the last two are the cases of an action held whole. -/
theorem commandsStart : Obligations.CommandsStart := by
  unfold Obligations.CommandsStart
  refine ⟨?started, ?unknown, ?unreadable, ?firmware, ?halted, ?posted, ?moors, ?carriedOut, ?held⟩
  case started =>
    intro s w p t hpend hactive horder hbound hfast hknown hread
    have hst : p.status? = none := by simp only [CmdPkt.status?, hknown, hread, Bool.not_true, Bool.false_eq_true, if_false]
    rw [exec_commandStart_of_free hpend hactive horder hbound (launchWaits_of_fast s hfast), begun_of_fast_none hfast hst]
  case unknown =>
    intro s w p t hpend hactive horder hbound hfast hunknown
    have hst : p.status? = some stBAD_OPCODE := by simp only [CmdPkt.status?, hunknown, Bool.not_false, if_true]
    rw [exec_commandStart_of_free hpend hactive horder hbound (launchWaits_of_fast s hfast), begun_of_fast_some hfast hst]
  case unreadable =>
    intro s w p t hpend hactive horder hbound hfast hknown hbad
    have hst : p.status? = some stDATA_POISON := by
      simp only [CmdPkt.status?, hknown, hbad, Bool.not_true, Bool.false_eq_true, if_false, if_true]
    rw [exec_commandStart_of_free hpend hactive horder hbound (launchWaits_of_fast s hfast), begun_of_fast_some hfast hst]
  case firmware =>
    intro s w p t hpend hactive horder hbound hlaunch hfirm hruns
    rw [exec_commandStart_of_free hpend hactive horder hbound hlaunch, begun_of_firmware hfirm, hruns, if_neg Bool.false_ne_true]
  case halted =>
    intro s w p t hpend hactive horder hbound hlaunch hfirm hhalted
    rw [exec_commandStart_of_free hpend hactive horder hbound hlaunch, begun_of_firmware hfirm, hhalted, if_pos rfl]
  case posted =>
    rintro s w q t s1 hheld hring rfl hclocks hrest
    rw [exec_heldReplyPost_of_room hheld hring hclocks]
    exact next_congr (mooringAfter_of_rest hrest)
  case moors =>
    rintro s w q t s1 retain hheld hring rfl hclocks hop hmoor
    rw [exec_heldReplyPost_of_room hheld hring hclocks]
    exact next_congr (mooringAfter_of_moor hop hmoor)
  case carriedOut =>
    rintro s f (hcalm | hcarried)
    · exact whole_of_calm f hcalm
    · exact whole_of_carried hcarried
  case held =>
    intro s f hcalm hheld
    rw [whole_of_held hcalm hheld]
    exact ⟨rfl, _, _, keepWakes_eq s (f s)⟩

end Sys2Proof.Machine
end

section
/-!
PROOFS. The commands of parameter sets, where every check passes (R239, R262-R265).
-/
namespace Sys2Proof.Machine

open Sys2Proof

/-! ### PSET_CREATE (R262, R263) -/

/-- What PSET_CREATE checks of its parameters, with the units they name. -/
def psetCreateParams (s : State) (p : CmdPkt) : List (Bool × Nat) :=
  let rule := p.at 66 1
  let t := readTensors s p
  let entryBad := firstEntry t.entries fun v => tensorFault rule (p.at 116 4) (tensorOfBits v)
  [(decide (4 < rule), 8)] ++ (if rule = 0 ∨ 4 < rule then [] else constFaults rule (constsOf p)) ++
    [((rule != 0 && p.at 112 1 != fE4M3 && p.at 112 1 != fK4) || decide (1048576 < p.at 116 4), 14),
     (entryBad.isSome || tableFault s p t, 15)]

theorem psetCreateParams_pass {s : State} {p : CmdPkt} (hrule : p.at 66 1 ≤ 4)
    (hconst : p.at 66 1 = 0 ∨ AllPass (constFaults (p.at 66 1) (constsOf p)) ∧ (p.at 112 1 = fE4M3 ∨ p.at 112 1 = fK4))
    (hgroups : p.at 116 4 ≤ 1048576)
    (hentries : firstEntry (readTensors s p).entries (fun v => tensorFault (p.at 66 1) (p.at 116 4) (tensorOfBits v)) = none)
    (htable : tableFault s p (readTensors s p) = false) : AllPass (psetCreateParams s p) := by
  have hconsts : AllPass (if p.at 66 1 = 0 ∨ 4 < p.at 66 1 then [] else constFaults (p.at 66 1) (constsOf p)) := by
    rcases hconst with hzero | ⟨hpass, -⟩
    · rw [if_pos (.inl hzero)]
      exact List.forall_mem_nil _
    · split
      · exact List.forall_mem_nil _
      · exact hpass
  have hformat : (p.at 66 1 != 0 && p.at 112 1 != fE4M3 && p.at 112 1 != fK4) = false := by
    rcases hconst with hzero | ⟨-, hfmt | hfmt⟩
    · simp [hzero]
    · simp [hfmt]
    · simp [hfmt]
  simp only [AllPass, psetCreateParams, List.forall_mem_append, List.forall_mem_singleton, List.forall_mem_cons,
    decide_eq_false (Nat.not_lt.2 hrule), decide_eq_false (Nat.not_lt.2 hgroups), hformat, hentries, htable, Option.isSome_none,
    Bool.or_self, and_true, true_and]
  exact hconsts

/-- Where its checks pass, PSET_CREATE creates the set of its packet, if that has tensors and groups and its
table can be read. -/
theorem exec_psetCreate_of_pass {s : State} {cx : Nat} {r : Running} (hturn : turnOf s cx 0x0101 = some r)
    (hclear : Clear r.pkt psetCreateLayout) (hparams : AllPass (psetCreateParams s r.pkt))
    (hstray : firstEntry (readTensors s r.pkt).entries tensorStray = none)
    (hright : readDenied s r.pkt (r.pkt.at 120 8 % 2 ^ 44) (16 * r.pkt.at 64 2) = false) :
    exec (.psetCreate cx) s = .next (whole s fun _ =>
      if r.pkt.at 64 2 = 0 ∨ r.pkt.at 116 4 = 0 then complete s cx stDONE_EMPTY 0
      else if (readTensors s r.pkt).bad then complete (readTensors s r.pkt).state cx stDATA_POISON 0
      else createSet (readTensors s r.pkt).state cx r.pkt (readTensors s r.pkt)) := by
  have hrow : exec (.psetCreate cx) s = execPsetCreate cx s := rfl
  have hdescr : AllPass [((firstEntry (readTensors s r.pkt).entries tensorStray).isSome, 15)] := by simp [hstray]
  have hcheck := checkFail_none hclear hparams hdescr
  rw [psetCreateParams, ← hright] at hcheck
  rw [hrow, execPsetCreate]
  refine next_whole_congr ?_
  simp only [hturn, hcheck]

/-- The set takes the lowest free number and range (R263). -/
theorem createSet_of_place {s : State} {cx n base : Nat} {p : CmdPkt} {t : TensorTab} (hnum : freeSet s = some n)
    (hplace : createPlace s p t = some base) :
    createSet s cx p t = complete (clearPeers (dropJournal (putSet s n (Pset.created (constsOf p) (p.at 112 1) (p.at 113 1 % 4)
      (bit (p.at 114 1) 0) t.tensors (p.at 116 4) base (createBytes s p t))) n) n) cx stDONE n := by
  simp only [createSet, hnum, hplace]

/-- A table of no tensors, or for no groups, is at fault only where it lies badly (R85, R86). -/
theorem tableFault_of_empty {s : State} {p : CmdPkt} (hempty : p.at 64 2 = 0 ∨ p.at 116 4 = 0)
    (hsource : badSource s (p.at 120 8 % 2 ^ 44) (16 * p.at 64 2) = false) (t : TensorTab) : tableFault s p t = false := by
  rw [tableFault, hsource]
  rcases hempty with h | h <;> simp [h]

/-! ### PSET_DESTROY (R264) -/

/-- PSET_DESTROY frees a set that nothing uses. -/
theorem exec_psetDestroy_of_unused {s : State} {cx : Nat} {r : Running} {x : Pset} (hturn : turnOf s cx 0x0102 = some r)
    (hclear : Clear r.pkt [(8, 15, 0)]) (hset : setOf? s (r.pkt.at 64 2) = some x)
    (hunused : setInUse s cx (r.pkt.at 64 2) x = false) :
    exec (.psetDestroy cx) s = .next (complete (destroySet s (r.pkt.at 64 2)) cx stDONE 0) := by
  have hrow : exec (.psetDestroy cx) s = execPsetDestroy cx s := rfl
  have hcheck := checkFail_none hclear (params := [(false, 8)]) (by simp) (List.forall_mem_nil _)
  rw [hrow, execPsetDestroy]
  simp only [hturn, hset, hunused, hcheck, Option.isNone_some, Bool.false_eq_true, if_false]

/-! ### PSET_CONST (R239) -/

/-- The bitmap that PSET_CONST reads, if its packet has one. -/
def lazyTable (s : State) (p : CmdPkt) (x : Pset) : State × List (Option Byte) :=
  if bit (p.at 67 1) 3 then readTable s (p.at 96 8 % 2 ^ 44) (ceilDiv x.groups 8) else (s, [])

/-- PSET_CONST replaces the constants of an idle set that a command of its own rule names, and its lazy groups where its packet
has a bitmap. -/
theorem exec_psetConst_of_pass {s : State} {cx : Nat} {r : Running} {x : Pset} (hturn : turnOf s cx 0x0103 = some r)
    (hclear : Clear r.pkt psetConstLayout) (hset : setOf? s (r.pkt.at 64 2) = some x) (hplain : x.isDispatch = false)
    (hrule : r.pkt.at 66 1 = x.consts.rule) (hconsts : AllPass (constFaults x.consts.rule (constsOf r.pkt)))
    (hidle : x.sw.phase = .idle)
    (hregion : (bit (r.pkt.at 67 1) 3 && leavesRegion s (r.pkt.at 96 8 % 2 ^ 44) (ceilDiv x.groups 8)) = false)
    (hright : (bit (r.pkt.at 67 1) 3 && readDenied s r.pkt (r.pkt.at 96 8 % 2 ^ 44) (ceilDiv x.groups 8)) = false)
    (hread : tableBad (lazyTable s r.pkt x).2 = false) :
    exec (.psetConst cx) s = .next (whole s fun _ => complete (modSet (lazyTable s r.pkt x).1 (r.pkt.at 64 2) fun y =>
      { y with consts := constsOf r.pkt,
               lazy := if bit (r.pkt.at 67 1) 3 then lazyOf x.groups (lazyTable s r.pkt x).2 else y.lazy }) cx stDONE 0) := by
  have hrow : exec (.psetConst cx) s = execPsetConst cx s := rfl
  have hparams : AllPass ([(false, 8), (false, 12)] ++ constFaults x.consts.rule (constsOf r.pkt)) := by simpa using hconsts
  have hcheck := checkFail_none hclear hparams (List.forall_mem_nil _)
  rw [hrow, execPsetConst]
  refine next_whole_congr ?_
  simp only [hturn, hset, hplain, hrule, hregion, hright, hidle, hcheck, bne_self_eq_false, Bool.not_false, Bool.not_true,
    Bool.or_self, if_true, ne_eq, not_true_eq_false, if_false]
  rw [← lazyTable, hread, if_neg Bool.false_ne_true]

/-! ### PSET_QUERY (R265) -/

/-- PSET_QUERY writes what a set holds where its port may write 64 aligned bytes of software memory. -/
theorem exec_psetQuery_of_pass {s : State} {cx : Nat} {r : Running} {x : Pset} (hturn : turnOf s cx 0x0106 = some r)
    (hclear : Clear r.pkt [(8, 15, 0), (9, 43, 0)]) (hset : setOf? s (r.pkt.at 64 2) = some x)
    (halign : r.pkt.at 72 8 % 2 ^ 44 % 32 = 0) (hsoft : inSoftware s (r.pkt.at 72 8 % 2 ^ 44) 64 = true)
    (hright : r.pkt.hasRight s rightWrite (r.pkt.at 72 8 % 2 ^ 44) 64 = true) :
    exec (.psetQuery cx) s = .next (whole s fun _ =>
      complete (writeBytes s (r.pkt.at 72 8 % 2 ^ 44) (queryBytes s (r.pkt.at 64 2) x)) cx stDONE 0) := by
  have hrow : exec (.psetQuery cx) s = execPsetQuery cx s := rfl
  have hcheck := checkFail_none hclear (params := [(false, 8), (false, 9)]) (by simp) (List.forall_mem_nil _)
  rw [hrow, execPsetQuery]
  refine next_whole_congr ?_
  simp only [hturn, hset, halign, hsoft, hright, hcheck, Option.isNone_some, ne_eq, not_true_eq_false, decide_false,
    Bool.not_true, Bool.or_self]

/-- Settles O16: each command's equation where its checks pass, with the two cases of PSET_CREATE and of PSET_CONST. -/
theorem setCommandsComplete : Obligations.SetCommandsComplete := by
  unfold Obligations.SetCommandsComplete
  refine ⟨?created, ?empty, ?destroyed, ?consts, ?constsWithMap, ?queried⟩
  case created =>
    rintro s cx r t n base hturn hclear hrule hconst hgroups rfl hentries hstray htable hright hsome hgroups0 hread hnum hplace
    rw [exec_psetCreate_of_pass hturn hclear (psetCreateParams_pass hrule hconst hgroups hentries htable) hstray hright]
    refine next_whole_congr ?_
    rw [if_neg (not_or.2 ⟨hsome, hgroups0⟩), hread, if_neg Bool.false_ne_true, createSet_of_place hnum hplace]
  case empty =>
    intro s cx r hturn hclear hrule hconst hgroups hempty hentries hstray hsource hright
    have htable := tableFault_of_empty hempty hsource (readTensors s r.pkt)
    rw [exec_psetCreate_of_pass hturn hclear (psetCreateParams_pass hrule hconst hgroups hentries htable) hstray hright]
    exact next_whole_congr (if_pos hempty)
  case destroyed =>
    intro s cx r x hturn hclear hset hunused
    exact exec_psetDestroy_of_unused hturn hclear hset hunused
  case consts =>
    intro s cx r x hturn hclear hset hplain hrule hconsts hidle hmap
    rw [exec_psetConst_of_pass hturn hclear hset hplain hrule hconsts hidle (by simp [hmap]) (by simp [hmap])
      (by simp [lazyTable, hmap, tableBad])]
    simp only [lazyTable, hmap, Bool.false_eq_true, if_false]
  case constsWithMap =>
    rintro s cx r x t hturn hclear hset hplain hrule hconsts hidle hmap hregion hright rfl hread
    have htable : lazyTable s r.pkt x = readTable s (r.pkt.at 96 8 % 2 ^ 44) (ceilDiv x.groups 8) := if_pos hmap
    rw [exec_psetConst_of_pass hturn hclear hset hplain hrule hconsts hidle (by rw [hregion, Bool.and_false])
      (by rw [hright, Bool.and_false]) (by rw [htable, hread])]
    simp only [htable, hmap, if_true]
  case queried =>
    intro s cx r x hturn hclear hset halign hsoft hright
    exact exec_psetQuery_of_pass hturn hclear hset halign hsoft hright

end Sys2Proof.Machine
end

section
/-!
PROOFS. The commands of manifests, where their checks pass (R173, R176, R178, R179, R182).
-/
namespace Sys2Proof.Machine

open Sys2Proof

/-! ### MAN_OPEN (R173) -/

/-- What opening a generation leaves: an empty one closes at once, with its range marked as zero where it has no contributions
(R87, R182). -/
def manOpened (s : State) (cx m : Nat) (x : Manifest) : State :=
  if x.isEmpty then
    let s1 := openMan s m { x with state := .closed }
    complete (if x.kind = 1 ∧ x.contribs = 0 then markRange s1 x else s1) cx stDONE_EMPTY 0
  else complete (openMan s m x) cx stDONE 0

theorem manOpened_of_some {s : State} {m : Nat} {x : Manifest} (hsome : x.isEmpty = false) (cx : Nat) :
    manOpened s cx m x = complete (openMan s m x) cx stDONE 0 := by
  simp only [manOpened, hsome, Bool.false_eq_true, if_false]

theorem manOpened_of_empty {s : State} {m : Nat} {x : Manifest} (hempty : x.isEmpty = true)
    (hcontribs : x.kind ≠ 1 ∨ x.contribs ≠ 0) (cx : Nat) :
    manOpened s cx m x = complete (openMan s m { x with state := .closed }) cx stDONE_EMPTY 0 := by
  simp only [manOpened, hempty, not_and_or.2 hcontribs, if_true, if_false]

theorem manOpened_of_no_contribs {s : State} {m : Nat} {x : Manifest} (hkind : x.kind = 1) (hnone : x.contribs = 0) (cx : Nat) :
    manOpened s cx m x = complete (markRange (openMan s m { x with state := .closed }) x) cx stDONE_EMPTY 0 := by
  have hempty : x.isEmpty = true := by simp [Manifest.isEmpty, hkind, hnone]
  simp only [manOpened, hempty, hkind, hnone, and_self, if_true]

/-- Where its checks pass, a free place is left and no other generation stands in its way, MAN_OPEN opens its generation. -/
theorem exec_manOpen_of_pass {s : State} {cx m : Nat} {r : Running} {x : Manifest} (hturn : turnOf s cx 0x0201 = some r)
    (hclear : Clear r.pkt manOpenLayout) (hm : r.pkt.at 64 2 % 16384 = m) (hx : manOfPkt (landTicks s) r.pkt = x)
    (hparams : AllPass (manParams (landTicks s) m x)) (hright : manDenied (landTicks s) r.pkt x = false)
    (hnotOpen : (manOf (landTicks s) m).state ≠ .opened) (hclash : manClash (landTicks s) m x = false)
    (hroom : manActive (landTicks s) < 16384) :
    exec (.manOpen cx) s = .next (afterLanding (unpark (manOpened (landTicks s) cx m x) m)) := by
  subst hm hx
  have hrow : exec (.manOpen cx) s = execManOpen cx s := rfl
  have hcheck := checkFail_none hclear hparams (List.forall_mem_nil _)
  rw [hrow, execManOpen]
  simp only [hturn, hright, hcheck, hnotOpen, hclash, Nat.not_le.2 hroom, Bool.false_eq_true, or_self, if_false, manOpened]
  split <;> rfl

/-- A tally manifest writes no memory of its own, so no right is asked for (R75). -/
theorem manDenied_of_tally (s : State) (p : CmdPkt) {x : Manifest} (hkind : x.kind = 1) : manDenied s p x = false := by
  simp [manDenied, hkind]

/-! ### MAN_CANCEL and MAN_QUERY (R179) -/

/-- MAN_CANCEL fails an OPEN generation whose end writes nothing that must wait. -/
theorem exec_manCancel_of_open {s : State} {cx : Nat} {r : Running} {x : Manifest} (hturn : turnOf s cx 0x0202 = some r)
    (hclear : Clear r.pkt manLayout) (hnamed : manNamed (landTicks s) (r.pkt.at 64 2 % 16384) (r.pkt.at 66 2) = some x)
    (hopen : x.state = .opened)
    (hdone : endOwed (failMan (landTicks s) (r.pkt.at 64 2 % 16384) false) (r.pkt.at 64 2 % 16384) x.gen = false) :
    exec (.manCancel cx) s =
      .next (afterLanding (complete (failMan (landTicks s) (r.pkt.at 64 2 % 16384) false) cx stDONE x.landed)) := by
  have hrow : exec (.manCancel cx) s = execManCancel cx s := rfl
  rw [hrow, execManCancel]
  simp only [hturn, hclear, hnamed, hopen, hdone, Bool.false_eq_true, if_false, if_true]

theorem exec_manQuery {s : State} {cx : Nat} {r : Running} (hturn : turnOf s cx 0x0203 = some r)
    (hclear : Clear r.pkt manLayout) :
    exec (.manQuery cx) s = .next (afterLanding (complete (landTicks s) cx stDONE
      (manCount (manNamed (landTicks s) (r.pkt.at 64 2 % 16384) (r.pkt.at 66 2))))) := by
  have hrow : exec (.manQuery cx) s = execManQuery cx s := rfl
  rw [hrow, execManQuery]
  simp only [hturn, hclear]

/-- Settles O18: the clauses on MAN_OPEN are the three ways in which a generation opens. -/
theorem manifestCommandsComplete : Obligations.ManifestCommandsComplete := by
  unfold Obligations.ManifestCommandsComplete
  refine ⟨?opened, ?empty, ?zeros, ?cancelled, ?queried⟩
  case opened =>
    intro s cx r hturn hclear hparams hright hnotOpen hclash hroom hfull
    rw [exec_manOpen_of_pass hturn hclear rfl rfl hparams hright hnotOpen hclash hroom, manOpened_of_some hfull]
  case empty =>
    intro s cx r hturn hclear hparams hright hnotOpen hclash hroom hempty hsome
    rw [exec_manOpen_of_pass hturn hclear rfl rfl hparams hright hnotOpen hclash hroom,
      manOpened_of_empty hempty hsome]
  case zeros =>
    intro s cx r hturn hclear hparams hnotOpen hclash hroom hkind hnone
    rw [exec_manOpen_of_pass hturn hclear rfl rfl hparams (manDenied_of_tally _ _ hkind) hnotOpen hclash hroom,
      manOpened_of_no_contribs hkind hnone]
  case cancelled =>
    intro s cx r x hturn hclear hnamed hopen hdone
    exact exec_manCancel_of_open hturn hclear hnamed hopen hdone
  case queried =>
    intro s cx r hturn hclear
    exact exec_manQuery hturn hclear

end Sys2Proof.Machine
end

section
/-!
PROOFS. Power on, the resets and a lockstep mismatch (R79, R385, R393-R397).
-/
namespace Sys2Proof.Machine

open Sys2Proof

/-- A Warm reset of an Active harbour is made at once (R395). -/
theorem warmReset_of_active {s : State} (hactive : s.pow.harbour = .active) (keep ref : Bool) :
    warmReset s keep ref = warmNow s keep ref := by
  rw [warmReset, hactive]

/-- A reset of one engine, port or quay of an Active harbour is made at once, and what waits for it goes on. -/
theorem narrowReset_of_active {s : State} (hactive : isActive s = true) (kind target : Nat) :
    narrowReset s kind target = settle (kindReset s (kind, target)) := if_pos hactive

/-- A harbour that is moored, or on its way there, keeps such a reset until it has woken (R393). -/
theorem narrowReset_of_moored {s : State}
    (hmoored : ∃ retain, s.pow.harbour = .moored retain ∨ s.pow.harbour = .mooring retain) {kind : Nat} (hkind : kind < 4)
    (target : Nat) : narrowReset s kind target = wakeFor s target kind := by
  obtain ⟨retain, hat | hat⟩ := hmoored <;>
    simp [narrowReset, isActive, orderReset, wakeFor, hat, Nat.not_le.2 hkind]

/-- Settles O42: each row's own condition, the three Warm resets and the three narrower ones by their shared lemmas. -/
theorem resetsComplete : Obligations.ResetsComplete := by
  unfold Obligations.ResetsComplete
  refine ⟨?powerOn, ?cold, ?warm, ?engine, ?port, ?quay, ?moored, ?supply, ?lockstep⟩
  case powerOn =>
    intro s ref hboot
    have hrow : exec (.powerOn ref) s = execPowerOn ref s := rfl
    rw [hrow, execPowerOn, if_pos (by simpa using hboot)]
  case cold =>
    intro s ref hon
    have hrow : exec (.coldRstN ref) s = execColdRstN ref s := rfl
    rw [hrow, execColdRstN, if_pos hon]
  case warm =>
    intro s ref hactive
    have hwarm := fun keep => next_congr (warmReset_of_active hactive keep ref)
    exact ⟨hwarm _, hwarm false, hwarm true⟩
  case engine =>
    intro s e hactive
    exact next_congr (narrowReset_of_active hactive 1 e)
  case port =>
    intro s p hactive
    exact next_congr (narrowReset_of_active hactive 2 p)
  case quay =>
    intro s q hactive
    exact next_congr (narrowReset_of_active hactive 3 q)
  case moored =>
    intro s n hmoored
    have hwakes := fun (kind : Nat) (hkind : kind < 4) => next_congr (narrowReset_of_moored hmoored hkind n)
    exact ⟨hwakes 1 (by decide), hwakes 2 (by decide), hwakes 3 (by decide)⟩
  case supply =>
    intro s
    rfl
  case lockstep =>
    intro s hactive hruns
    have hrow : exec .lockstepMismatch s = execLockstepMismatch s := rfl
    rw [hrow, execLockstepMismatch, if_pos ⟨hactive, hruns⟩]

end Sys2Proof.Machine
end

section
/-!
PROOFS. FINAL writes (R103, R104).
-/
namespace Sys2Proof.Machine

open Sys2Proof

/-- A FINAL write of this harbour that the landing engine takes is answered OK (R103, R104). -/
theorem takeEffect_final {s t : State} {r : Request} (hreqs : s.host.reqs = []) (hfinal : r.isFinal = true)
    (hhere : sentAway s r = false) (htaken : takeFinal s (heldReq r) = some t) :
    takeEffect (waiting s r) (heldReq r) = answer (judgeAll t) r .ok [] := by
  have hwr : r.isWr = true := (Bool.and_eq_true_iff.1 hfinal).1
  obtain ⟨-, hfnl, -, -⟩ := isWr_excludes hwr
  have hreq : (heldReq r).req = r := rfl
  unfold takeEffect
  simp only [hreq, removeReq_waiting hreqs, hfnl, hhere, hfinal, htaken, if_true, if_false, Bool.false_eq_true]

/-- A FINAL write that a port takes and that the landing engine takes at once is answered OK. -/
theorem arrive_final {s t : State} {p : Nat} {hdr : BitVec 128} {k : ReqKind} {data : List Codeword} (hacc : Accepts s p hdr)
    (hk : kindOf (ReqHdr.ofBits hdr).opc = some k) (hfinal : (requestOf p k hdr data).isFinal = true)
    (hgo : Goes (taken s p hdr) (requestOf p k hdr data))
    (hhere : sentAway (taken s p hdr) (requestOf p k hdr data) = false)
    (htaken : takeFinal (taken s p hdr) (heldReq (requestOf p k hdr data)) = some t) (msg : BitVec 128) (lat : Nat) :
    arrive s p hdr data msg lat = settle (answer (judgeAll t) (requestOf p k hdr data) .ok []) := by
  obtain ⟨-, -, -, hplt⟩ := isWr_excludes (Bool.and_eq_true_iff.1 hfinal).1
  rw [arrive_of_goes hacc hk hplt hgo, takeEffect_final (taken_reqs_of_accepts hacc) hfinal hhere htaken]

/-- Settles O8: in the row of FINAL writes, one for other harbours is `arrive_away` and one of this harbour `arrive_final`. -/
theorem finalWritesComplete : Obligations.FinalWritesComplete := by
  unfold Obligations.FinalWritesComplete
  intro s p hdr data k hacc hk hwrite hfinal hgo
  have hopc : (ReqHdr.ofBits hdr).opc = 2 ∨ (ReqHdr.ofBits hdr).opc = 3 := by
    rcases hwrite with rfl | rfl
    · exact .inl (kindOf_eq_some.1 hk)
    · exact .inr (kindOf_eq_some.1 hk)
  have hisFinal : (requestOf p k hdr data).isFinal = true := by
    rcases hwrite with rfl | rfl <;> exact hfinal
  rw [exec_finalWrite data hopc hfinal]
  constructor
  · intro haway
    rw [arrive_away hacc hk hgo haway]
  · intro hhere t htaken
    rw [arrive_final hacc hk hisFinal hgo hhere htaken]

end Sys2Proof.Machine
end

section
/-!
SUPPORT. The checks of a started command that needs rights (R75, R76).
-/
namespace Sys2Proof.Machine

open Sys2Proof

/-- A command whose other checks pass goes on where its port has the rights that it needs (R75, R76). -/
theorem checkFail_of_granted {p : CmdPkt} {layout : List Named} {params descr : List (Bool × Nat)} {denied : Bool}
    (hclear : Clear p layout) (hparams : AllPass params) (hdescr : AllPass descr) (hright : denied = false) :
    checkFail p layout params descr denied = none := by
  rw [hright, checkFail_none hclear hparams hdescr]

end Sys2Proof.Machine
end

section
/-!
PROOFS. The commands of watches (R108, R110).
-/
namespace Sys2Proof.Machine

open Sys2Proof

/-! ### WATCH_SET (R108) -/

/-- The watch that a WATCH_SET describes. -/
def watchOfPkt (p : CmdPkt) : Watch :=
  { base := p.at 72 8 % 2 ^ 44, length := p.at 80 8 % 2 ^ 44, subs := (List.range (p.at 65 1 % 16)).map (watchSub p), sent := 0 }

/-- Where its checks pass, WATCH_SET arms a watch with subscribers and bytes that no one holds. -/
theorem exec_watchSet_of_pass {s : State} {cx : Nat} {r : Running} (hturn : turnOf s cx 0x0204 = some r)
    (hclear : Clear r.pkt watchSetLayout) (hparams : AllPass (watchParams s r.pkt))
    (hright : r.pkt.hasRight s rightRead (r.pkt.at 72 8 % 2 ^ 44) (r.pkt.at 80 8 % 2 ^ 44) = true)
    (hports : ((List.range (r.pkt.at 65 1 % 16)).map (watchSub r.pkt)).all
      (fun x => r.pkt.portRight s x.1 rightRead (r.pkt.at 72 8 % 2 ^ 44) (r.pkt.at 80 8 % 2 ^ 44)) = true)
    (hsubs : r.pkt.at 65 1 % 16 ≠ 0) (hlen : r.pkt.at 80 8 % 2 ^ 44 ≠ 0)
    (hfree : tget? s.sync.watches (r.pkt.at 64 1) = none) :
    exec (.watchSet cx) s = .next (complete
      { s with sync := { s.sync with watches := tset s.sync.watches (r.pkt.at 64 1) (watchOfPkt r.pkt) } } cx stDONE 0) := by
  have hrow : exec (.watchSet cx) s = execWatchSet cx s := rfl
  have hgranted : (!r.pkt.hasRight s rightRead (r.pkt.at 72 8 % 2 ^ 44) (r.pkt.at 80 8 % 2 ^ 44) ||
      ((List.range (r.pkt.at 65 1 % 16)).map (watchSub r.pkt)).any
        (fun x => !r.pkt.portRight s x.1 rightRead (r.pkt.at 72 8 % 2 ^ 44) (r.pkt.at 80 8 % 2 ^ 44))) = false := by
    rw [hright, ← List.not_all_eq_any_not, hports]
    rfl
  have hcheck := checkFail_of_granted hclear hparams (List.forall_mem_nil _) hgranted
  rw [hrow, execWatchSet]
  simp only [hturn, hcheck, hsubs, hlen, hfree, Option.isSome_none, Bool.false_eq_true, or_self, if_false]
  rfl

/-! ### WATCH_CLEAR (R110) -/

/-- What WATCH_CLEAR of watch w leaves: a watch that is armed stays until its notices have been sent. -/
def watchCleared (s : State) (cx w : Nat) : State :=
  match tget? s.sync.watches w with
  | none => complete s cx stDONE 0
  | some x =>
    if noticeWaits s w then s
    else complete { s with sync := { s.sync with watches := terase s.sync.watches w } } cx stDONE x.sent

theorem exec_watchClear {s : State} {cx : Nat} {r : Running} (hturn : turnOf s cx 0x0205 = some r)
    (hclear : Clear r.pkt [(8, 7, 0)]) : exec (.watchClear cx) s = .next (watchCleared s cx (r.pkt.at 64 1)) := by
  have hrow : exec (.watchClear cx) s = execWatchClear cx s := rfl
  rw [hrow, execWatchClear]
  simp only [hturn, hclear]
  rfl

section
variable {s : State} {w : Nat}

theorem watchCleared_of_unarmed (harmed : tget? s.sync.watches w = none) (cx : Nat) :
    watchCleared s cx w = complete s cx stDONE 0 := by
  simp only [watchCleared, harmed]

theorem watchCleared_of_unsent {x : Watch} (harmed : tget? s.sync.watches w = some x) (hwaits : noticeWaits s w = true)
    (cx : Nat) : watchCleared s cx w = s := by
  simp only [watchCleared, harmed, hwaits, if_true]

theorem watchCleared_of_sent {x : Watch} (harmed : tget? s.sync.watches w = some x) (hsent : noticeWaits s w = false)
    (cx : Nat) : watchCleared s cx w =
      complete { s with sync := { s.sync with watches := terase s.sync.watches w } } cx stDONE x.sent := by
  simp only [watchCleared, harmed, hsent, Bool.false_eq_true, if_false]

end

/-- Settles O19: WATCH_SET where its checks pass, and the clearing of a watch whose notices have been sent. -/
theorem watchCommandsComplete : Obligations.WatchCommandsComplete := by
  unfold Obligations.WatchCommandsComplete
  constructor
  · intro s cx r hturn hclear hparams hright hports hsubs hlen hfree
    exact exec_watchSet_of_pass hturn hclear hparams hright hports hsubs hlen hfree
  · intro s cx r x hturn hclear harmed hsent
    rw [exec_watchClear hturn hclear, watchCleared_of_sent harmed hsent]

/-- The end of a command arms and clears no watch. -/
@[simp] theorem complete_watches (s : State) (cx st res : Nat) : (complete s cx st res).sync.watches = s.sync.watches :=
  congrArg Untouched.watches (EndFrame.of_complete s cx st res).untouched

/-- The end of a command sends nothing to a host. -/
@[simp] theorem complete_host (s : State) (cx st res : Nat) : (complete s cx st res).host = s.host :=
  congrArg Untouched.host (EndFrame.of_complete s cx st res).untouched

/-- Settles O50: the three cases of `watchCleared`; the command's end neither arms a watch nor queues a notice. -/
theorem watchClearAnswers : Obligations.WatchClearAnswers := by
  unfold Obligations.WatchClearAnswers
  intro s cx r hturn hclear w
  rw [exec_watchClear hturn hclear]
  refine ⟨?unarmed, ?unsent, ?sent⟩
  case unarmed =>
    intro harmed
    rw [watchCleared_of_unarmed harmed]
  case unsent =>
    intro x harmed hwaits
    rw [watchCleared_of_unsent harmed hwaits]
  case sent =>
    intro x t harmed hsent hnext
    rw [watchCleared_of_sent harmed hsent] at hnext
    obtain rfl := Host.Outcome.next.inj hnext
    refine ⟨?_, ?_, rfl⟩
    · rw [complete_watches, tget?_terase, if_pos rfl]
    · rw [noticeWaits, complete_host]
      exact hsent

end Sys2Proof.Machine
end

section
/-!
PROOFS. The commands of the dispatch engine, where their checks pass (R102, R194, R195, R201, R202, R204, R326).
-/
namespace Sys2Proof.Machine

open Sys2Proof

/-! ### ROUTE_LOAD (R194) -/

/-- Whether an entry of a routing table that could be read names an owner that is out of range. -/
def strayOwner (num : Nat) : Option Nat → Bool
  | some v => decide (num ≤ bits v 17 0)
  | none => false

/-- What ROUTE_LOAD checks of its parameters, with the entries read. -/
def routeLoadParams (s : State) (p : CmdPkt) (es : List (Option Nat)) : List (Bool × Nat) :=
  [(decide (65536 < p.at 68 4), 8),
   (badSource s (p.at 72 8 % 2 ^ 44) (4 * p.at 68 4) || es.any (strayOwner (countNum s)), 9)]

theorem any_strayOwner_false {num : Nat} {es : List (Option Nat)}
    (howners : es.all (fun e => e.all fun v => decide (bits v 17 0 < num)) = true) : es.any (strayOwner num) = false := by
  rw [List.any_eq_false]
  intro e he
  have howner := List.all_eq_true.1 howners e he
  cases e with
  | none => exact Bool.false_ne_true
  | some v => simpa [strayOwner] using howner

theorem routeLoadParams_pass {s : State} {p : CmdPkt} {es : List (Option Nat)} (hsize : p.at 68 4 ≤ 65536)
    (hsource : badSource s (p.at 72 8 % 2 ^ 44) (4 * p.at 68 4) = false)
    (howners : es.all (fun e => e.all fun v => decide (bits v 17 0 < countNum s)) = true) :
    AllPass (routeLoadParams s p es) := by
  simp only [AllPass, routeLoadParams, List.forall_mem_cons, hsource, any_strayOwner_false howners, Bool.or_self,
    decide_eq_false (Nat.not_lt.2 hsize), true_and]
  exact List.forall_mem_nil _

/-- The routing table that the entries read make. -/
def routeTable (es : List (Option Nat)) : List Word := es.map fun e => BitVec.ofNat 64 (e.getD 0)

/-- Where its checks pass, ROUTE_LOAD replaces a routing table that no TOKEN_SEND uses, if the new one can be read. -/
theorem exec_routeLoad_of_pass {s : State} {cx : Nat} {r : Running} {t : State × List (Option Byte)}
    (hturn : turnOf s cx 0x0301 = some r) (hclear : Clear r.pkt [(8, 1, 0), (8, 63, 32), (9, 43, 0)])
    (hsize : r.pkt.at 68 4 ≤ 65536) (ht : t = readTable s (r.pkt.at 72 8 % 2 ^ 44) (4 * r.pkt.at 68 4))
    (hparams : AllPass (routeLoadParams s r.pkt (tableEntries t.2 4 (r.pkt.at 68 4))))
    (hright : readDenied s r.pkt (r.pkt.at 72 8 % 2 ^ 44) (4 * r.pkt.at 68 4) = false) (hsome : r.pkt.at 68 4 ≠ 0)
    (hunused : runsOther s cx 0x0302 (fun q => q.at 64 1 % 4 == r.pkt.at 64 1 % 4) = false) (hread : tableBad t.2 = false) :
    exec (.routeLoad cx) s = .next (whole s fun _ => complete
      { t.1 with disp := { t.1.disp with
        routes := tset t.1.disp.routes (r.pkt.at 64 1 % 4) (routeTable (tableEntries t.2 4 (r.pkt.at 68 4))) } } cx stDONE 0) := by
  have hrow : exec (.routeLoad cx) s = execRouteLoad cx s := rfl
  have hcheck := checkFail_of_granted hclear hparams (List.forall_mem_nil _) hright
  rw [hrow, execRouteLoad]
  refine next_whole_congr ?_
  simp only [hturn, if_neg (Nat.not_lt.2 hsize), ← ht]
  split
  · next hfault => cases hcheck.symm.trans hfault
  · simp only [hsome, hunused, hread, Bool.false_eq_true, if_false]
    rfl

/-! ### TOKEN_SEND (R195) -/

/-- The user bytes that TOKEN_SEND reads after its routes, if its packet has any. -/
def tokenUsers (s : State) (p : CmdPkt) : State × List (Option Byte) :=
  if bit (p.at 88 8) 63 then readTable s (p.at 88 8 % 2 ^ 44) (8 * p.at 65 1 * p.at 96 4) else (s, [])

/-- Where its checks pass, TOKEN_SEND sends its tokens and counts them, if its routes and user bytes can be read. -/
theorem exec_tokenSend_of_pass {s : State} {cx : Nat} {r : Running} {t u : State × List (Option Byte)}
    {es : List (Option Nat)} (hturn : turnOf s cx 0x0302 = some r) (hclear : Clear r.pkt tokenSendLayout)
    (ht : t = tokenRoutes s r.pkt) (hes : es = tableEntries t.2 2 (t.2.length / 2))
    (hparams : AllPass (tokenSendParams s r.pkt es)) (hright : tokenSendDenied s r.pkt = false) (hcount : r.pkt.at 96 4 ≠ 0)
    (htopk : r.pkt.at 65 1 ≠ 0) (hgrains : r.pkt.at 66 2 ≠ 0) (hu : u = tokenUsers t.1 r.pkt) (hroutes : tableBad t.2 = false)
    (husers : tableBad u.2 = false) :
    exec (.tokenSend cx) s = .next (whole s fun _ => awaitAcks
      (bump (sendTokens u.1 cx r.pkt es u.2).1 rDsStat 31 0 (sendTokens u.1 cx r.pkt es u.2).2) cx stDONE
      (sendTokens u.1 cx r.pkt es u.2).2) := by
  subst ht hes hu
  have hrow : exec (.tokenSend cx) s = execTokenSend cx s := rfl
  have hcheck := checkFail_of_granted hclear hparams (List.forall_mem_nil _) hright
  rw [hrow, execTokenSend]
  refine next_whole_congr ?_
  rw [tokenUsers] at husers ⊢
  simp only [hturn, hcheck, hcount, htopk, hgrains, hroutes, husers, Bool.or_self, Bool.false_eq_true, or_self, if_false]

/-! ### TOKEN_RETURN (R201) -/

/-- A generation that has ended is neither OPEN nor FINALISING. -/
theorem not_running_of_ended {st : ManState} (h : st = .closed ∨ st = .failed) : ¬ (st = .opened ∨ st = .finalising) := by
  rcases h with rfl | rfl <;> decide

/-- Where its checks pass, TOKEN_RETURN sends the rows of an ended generation whose lading records are all written and can be
read. -/
theorem exec_tokenReturn_of_pass {s : State} {cx : Nat} {r : Running} {x : Manifest} {t : State × List (Option Byte)}
    (hturn : turnOf s cx 0x0303 = some r) (hclear : Clear r.pkt [(8, 13, 0), (8, 31, 16), (8, 47, 32), (9, 43, 0)])
    (hx : x = manOf s (r.pkt.at 64 2 % 16384)) (hgen : x.gen = r.pkt.at 66 2) (hkind : x.kind = 2)
    (hended : x.state = .closed ∨ x.state = .failed)
    (hwritten : s.land.failing.any (fun f => f.1 == r.pkt.at 64 2 % 16384 && f.2.2.gen == x.gen) = false)
    (hwidth : r.pkt.at 68 2 ≤ 4096) (hsome : r.pkt.at 68 2 ≠ 0)
    (hsource : badSource s (r.pkt.at 72 8 % 2 ^ 44) (32 * r.pkt.at 68 2 * x.records) = false)
    (hright : readDenied s r.pkt (r.pkt.at 72 8 % 2 ^ 44) (32 * r.pkt.at 68 2 * x.records) = false)
    (ht : t = readTable s x.lading (32 * x.records)) (hread : tableBad t.2 = false) :
    exec (.tokenReturn cx) s = .next (whole s fun _ =>
      awaitAcks (sendRows t.1 cx (r.pkt.at 68 2) (r.pkt.at 72 8 % 2 ^ 44) t.2 x.records) cx stDONE x.records) := by
  have hrow : exec (.tokenReturn cx) s = execTokenReturn cx s := rfl
  have hknown : (x.gen == r.pkt.at 66 2 && x.kind == 2) = true := by simp [hgen, hkind]
  have hcheck := checkFail_none hclear (params := [(false, 8), (false, 9)]) (by simp) (List.forall_mem_nil _)
  rw [hrow, execTokenReturn]
  refine next_whole_congr ?_
  simp only [hturn, ← hx, hknown, hsource, hright, hcheck, hsome, hwritten, not_running_of_ended hended, ← ht, hread,
    decide_eq_false (Nat.not_lt.2 hwidth), Bool.not_true, Bool.and_false, Bool.or_self, Bool.false_eq_true, if_false]

/-! ### GRAD_DISPATCH (R204) -/

/-- What GRAD_DISPATCH leaves once it has sent its consignments, and whether a source grain could not be read (R204, R326). -/
def gradDispatched (s : State) (cx : Nat) (r : Running) : State × Bool :=
  (List.range (r.pkt.at 76 4)).foldl (gdConsign cx r)
    (modSet s (r.pkt.at 64 2) fun x => { x with dispStep := r.pkt.at 104 8 % 2 ^ 48 }, false)

/-- Where its checks pass, GRAD_DISPATCH sends its consignments, if no other one sends them. -/
theorem exec_gradDispatch_of_pass {s : State} {cx : Nat} {r : Running} (hturn : turnOf s cx 0x0304 = some r)
    (hclear : Clear r.pkt gradDispatchLayout) (hparams : AllPass (gradDispatchParams s r.pkt))
    (hright : readDenied s r.pkt (r.pkt.at 80 8 % 2 ^ 44) (8192 * r.pkt.at 76 4) = false) (hsome : r.pkt.at 76 4 ≠ 0)
    (hform : r.pkt.at 66 1 ≠ 2 ∨ r.pkt.at 68 2 ≠ 0)
    (halone : runsOther s cx 0x0304 (fun q => q.at 64 2 == r.pkt.at 64 2 &&
      overlaps (r.pkt.at 72 4) (r.pkt.at 76 4) (q.at 72 4) (q.at 76 4)) = false) :
    exec (.gradDispatch cx) s = .next (whole s fun _ => awaitAcks (gradDispatched s cx r).1 cx
      (if (gradDispatched s cx r).2 then stDATA_POISON else stDONE) (r.pkt.at 76 4)) := by
  have hrow : exec (.gradDispatch cx) s = execGradDispatch cx s := rfl
  have hcheck := checkFail_of_granted hclear hparams (List.forall_mem_nil _) hright
  rw [hrow, execGradDispatch]
  refine next_whole_congr ?_
  simp only [hturn, hcheck, hsome, not_and_or.2 hform, halone, Bool.false_eq_true, or_self, if_false]
  rfl

/-! ### BUF_RELEASE (R202) -/

/-- A BUF_RELEASE whose turn has come is at its start. -/
theorem relTurn_of_turn {s : State} {cx : Nat} {r : Running} (hturn : turnOf s cx 0x0305 = some r) :
    relTurn s cx = some (r, false) := by
  obtain ⟨hcmd, -, hphase⟩ := turnOf_some hturn
  simp only [relTurn, hcmd, hphase, hturn, Option.map_some]

/-- A BUF_RELEASE that waits for its ring may always try again. -/
theorem relTurn_of_waiting {s : State} {cx t0 base bytes records : Nat} {r : Running} (hcmd : cmdOf? s cx = some r)
    (hphase : r.phase = .waitRing t0 base bytes records) (hop : r.pkt.opcode = 0x0305) : relTurn s cx = some (r, true) := by
  simp only [relTurn, hcmd, hphase, hop, if_true]

/-- What BUF_RELEASE does for an ended generation: it sends its record, or keeps what the record says and waits for the ring
(R202). -/
def bufReleased (s : State) (cx : Nat) (r : Running) (x : Manifest) : State :=
  if (relRing s).2 || runsOther s cx 0x0305 (fun _ => true) then
    putCmd (relRing s).1 cx { r with phase := .waitRing (now s) x.base x.bytes x.records }
  else sendRelease (relRing s).1 cx r.pkt ⟨x.base, x.bytes, x.records⟩

/-- Where its checks pass, BUF_RELEASE releases the buffer of an ended generation. -/
theorem exec_bufRelease_of_pass {s : State} {cx : Nat} {r : Running} {x : Manifest} (hturn : turnOf s cx 0x0305 = some r)
    (hclear : Clear r.pkt [(8, 13, 0), (8, 31, 16)]) (hx : x = manOf s (r.pkt.at 64 2 % 16384)) (hgen : x.gen = r.pkt.at 66 2)
    (hkind : x.kind = 2) (hended : x.state = .closed ∨ x.state = .failed) (hring : fld s rDsPoolCfg 4 0 ≠ 0) :
    exec (.bufRelease cx) s = .next (whole s fun _ => bufReleased s cx r x) := by
  have hrow : exec (.bufRelease cx) s = execBufRelease cx s := rfl
  have hknown : (x.gen == r.pkt.at 66 2 && x.kind == 2) = true := by simp [hgen, hkind]
  have hcheck := checkFail_none hclear (params := [(false, 8)]) (by simp) (List.forall_mem_nil _)
  rw [hrow, execBufRelease]
  refine next_whole_congr ?_
  simp only [relTurn_of_turn hturn, ← hx, hknown, hcheck, hring, not_running_of_ended hended, Bool.not_true, if_false]
  rfl

/-- A BUF_RELEASE that has waited sends the record that it has kept once its ring has room and no other record is on its way. -/
theorem exec_bufRelease_of_waiting {s : State} {cx t0 base bytes records : Nat} {r : Running} (hcmd : cmdOf? s cx = some r)
    (hphase : r.phase = .waitRing t0 base bytes records) (hop : r.pkt.opcode = 0x0305) (hroom : (relRing s).2 = false)
    (halone : releaseUnderWay s cx = false) :
    exec (.bufRelease cx) s = .next (whole s fun _ => sendRelease (relRing s).1 cx r.pkt ⟨base, bytes, records⟩) := by
  have hrow : exec (.bufRelease cx) s = execBufRelease cx s := rfl
  rw [hrow, execBufRelease]
  refine next_whole_congr ?_
  simp only [relTurn_of_waiting hcmd hphase hop, hphase, hroom, halone, Bool.or_self, Bool.false_eq_true, if_false]

/-- A wait for a ring that stays full ends after WAIT × 1024 ticks. -/
theorem exec_bufReleaseTimeout_of_expired {s : State} {cx t0 base bytes records : Nat} {r : Running}
    (hcmd : cmdOf? s cx = some r) (hphase : r.phase = .waitRing t0 base bytes records) (hfull : (relRing s).2 = true)
    (hbounded : fld s rDsPoolCfg 63 48 ≠ 0) (hexpired : expired s t0 (fld s rDsPoolCfg 63 48 * 1024) = true) :
    exec (.bufReleaseTimeout cx) s = .next (complete (relRing s).1 cx stTIMEOUT 0) := by
  have hrow : exec (.bufReleaseTimeout cx) s = execBufReleaseTimeout cx s := rfl
  rw [hrow, execBufReleaseTimeout]
  simp only [hcmd, hphase, hfull, bne_iff_ne.2 hbounded, hexpired, Bool.and_self, if_true]

/-- Settles O20: each command's equation where its checks pass, with the two cases of a BUF_RELEASE at its start. -/
theorem dispatchCommandsComplete : Obligations.DispatchCommandsComplete := by
  unfold Obligations.DispatchCommandsComplete
  refine ⟨?routes, ?tokens, ?returned, ?gradients, ?released, ?waits, ?releasedLate, ?timedOut⟩
  case routes =>
    intro s cx r t hturn hclear hsize hsource ht howners hright hsome hunused hread
    exact exec_routeLoad_of_pass hturn hclear hsize ht (routeLoadParams_pass hsize hsource howners) hright hsome hunused hread
  case tokens =>
    intro s cx r t u hturn hclear ht hparams hright hcount htopk hgrains hu hroutes husers
    exact exec_tokenSend_of_pass hturn hclear ht rfl hparams hright hcount htopk hgrains hu hroutes husers
  case returned =>
    intro s cx r x t hturn hclear hx hgen hkind hended hwritten hwidth hsome hsource hright ht hread
    exact exec_tokenReturn_of_pass hturn hclear hx hgen hkind hended hwritten hwidth hsome hsource hright ht hread
  case gradients =>
    intro s cx r hturn hclear hparams hright hsome hform halone
    exact exec_gradDispatch_of_pass hturn hclear hparams hright hsome hform halone
  case released =>
    intro s cx r x hturn hclear hx hgen hkind hended hring hroom halone
    rw [exec_bufRelease_of_pass hturn hclear hx hgen hkind hended hring]
    refine next_whole_congr (if_neg ?_)
    simp [hroom, halone]
  case waits =>
    intro s cx r x hturn hclear hx hgen hkind hended hring hheld
    rw [exec_bufRelease_of_pass hturn hclear hx hgen hkind hended hring]
    exact next_whole_congr (if_pos (Bool.or_eq_true_iff.2 hheld))
  case releasedLate =>
    intro s cx t0 base bytes records r hcmd hphase hop hroom halone
    exact exec_bufRelease_of_waiting hcmd hphase hop hroom halone
  case timedOut =>
    intro s cx t0 base bytes records r hcmd hphase hfull hbounded hexpired
    exact exec_bufReleaseTimeout_of_expired hcmd hphase hfull hbounded hexpired

end Sys2Proof.Machine
end

section
/-!
PROOFS. EXPORT_PUSH, EXPORT_SUB and EXPORT_UNSUB, where their checks pass (R102, R270-R274).
-/
namespace Sys2Proof.Machine

open Sys2Proof

/-! ### EXPORT_PUSH (R271) -/

/-- An epoch and the next one differ, also where the counter wraps. -/
theorem epoch_ne_next (e : Word) : (e.toNat + 1) % 18446744073709551616 ≠ e.toNat := by
  have hlt := e.isLt
  omega

/-- What EXPORT_PUSH does for a set x: it serves the current epoch and ends, and otherwise takes a context and serves what is
ready of the next one (R271). -/
def exportPushed (s : State) (cx : Nat) (r : Running) (x : Pset) : State :=
  if r.pkt.at 72 8 = x.ep.epoch.toNat then
    endPush (putCmd (serveBlocks s (ftzAt r.ftz clExport) (cmdSource cx) (expPlace s (r.pkt.at 88 8)) (pushRange r.pkt)
      (pushRange r.pkt).blocks x.ep.epoch.toNat true) cx { r with sent := (pushRange r.pkt).count }) cx stDONE
  else
    pushAhead (putCmd (touchCtx s (pushRange r.pkt).pset) cx { r with phase := .push [] }) cx
      ((pushRange r.pkt).blocks.filter (aheadReady x (pushRange r.pkt))) ((x.ep.epoch.toNat + 1) % 18446744073709551616) false

/-- Where its checks pass, EXPORT_PUSH pushes blocks of the current epoch of its set or of the next. -/
theorem exec_exportPush_of_pass {s : State} {cx : Nat} {r : Running} {x : Pset} (hturn : turnOf s cx 0x0503 = some r)
    (hclear : Clear r.pkt pushLayout)
    (hrange : AllPass (rangeParams s (pushRange r.pkt) (r.pkt.at 88 8) (rangeSpan s (pushRange r.pkt) 1) (8, 10, 11)))
    (hset : setOf? s (pushRange r.pkt).pset = some x)
    (hright : globalDenied s r.pkt (r.pkt.at 88 8) (rangeSpan s (pushRange r.pkt) 1) = false)
    (hsome : (pushRange r.pkt).count ≠ 0)
    (hepoch : r.pkt.at 72 8 = x.ep.epoch.toNat ∨ r.pkt.at 72 8 = (x.ep.epoch.toNat + 1) % 18446744073709551616) :
    exec (.exportPush cx) s = .next (whole s fun _ => exportPushed s cx r x) := by
  have hrow : exec (.exportPush cx) s = execExportPush cx s := rfl
  have hnamed : AllPass [(true && r.pkt.at 72 8 != x.ep.epoch.toNat &&
      r.pkt.at 72 8 != (x.ep.epoch.toNat + 1) % 18446744073709551616, 9)] := by
    rcases hepoch with h | h <;> simp [h]
  have hcheck := checkFail_of_granted hclear (List.forall_mem_append.2 ⟨hrange, hnamed⟩) (List.forall_mem_nil _) hright
  rw [hrow, execExportPush]
  refine next_whole_congr ?_
  simp only [hturn, hset, Option.isSome_some, hcheck, hsome, if_false]
  rfl

theorem exportPushed_of_current {r : Running} {x : Pset} (hepoch : r.pkt.at 72 8 = x.ep.epoch.toNat) (s : State) (cx : Nat) :
    exportPushed s cx r x = endPush (putCmd (serveBlocks s (ftzAt r.ftz clExport) (cmdSource cx) (expPlace s (r.pkt.at 88 8))
      (pushRange r.pkt) (pushRange r.pkt).blocks x.ep.epoch.toNat true) cx { r with sent := (pushRange r.pkt).count }) cx stDONE :=
  if_pos hepoch

theorem exportPushed_of_next {r : Running} {x : Pset} (hepoch : r.pkt.at 72 8 = (x.ep.epoch.toNat + 1) % 18446744073709551616)
    (s : State) (cx : Nat) : exportPushed s cx r x =
      pushAhead (putCmd (touchCtx s (pushRange r.pkt).pset) cx { r with phase := .push [] }) cx
        ((pushRange r.pkt).blocks.filter (aheadReady x (pushRange r.pkt))) ((x.ep.epoch.toNat + 1) % 18446744073709551616) false :=
  if_neg (hepoch ▸ epoch_ne_next _)

/-! ### EXPORT_SUB (R272, R273) -/

/-- The bytes that the range of an EXPORT_SUB needs, in two copies where its packet says DOUBLE (Table 13-6). -/
def subSpan (s : State) (p : CmdPkt) : Nat := rangeSpan s (subRange p) (if bit (p.at 67 1) 2 then 2 else 1)

/-- The state with the subscription of an EXPORT_SUB armed, which takes a context (R22, log entry 116). -/
def subArmed (s : State) (p : CmdPkt) : State := putSub (touchCtx s (subRange p).pset) (p.at 72 1) (subOfPkt p)

/-- Where its checks pass, EXPORT_SUB arms a subscription that no one holds, and pushes its range where its packet says
INITIAL. -/
theorem exec_exportSub_of_pass {s : State} {cx : Nat} {r : Running} (hturn : turnOf s cx 0x0501 = some r)
    (hclear : Clear r.pkt subLayout)
    (hrange : AllPass (rangeParams s (subRange r.pkt) (r.pkt.at 88 8) (subSpan s r.pkt) (8, 9, 11)))
    (hport : r.pkt.at 73 1 % 128 < ports s.part) (halign : r.pkt.at 96 8 % 32 = 0)
    (hplace : expPlace s (r.pkt.at 96 8) ≠ .nowhere) (hright : globalDenied s r.pkt (r.pkt.at 88 8) (subSpan s r.pkt) = false)
    (hstatus : statusDenied s r.pkt = false) (hsome : (subRange r.pkt).count ≠ 0)
    (hfree : tget? s.exp.subs (r.pkt.at 72 1) = none) :
    exec (.exportSub cx) s = .next (whole s fun _ =>
      if bit (r.pkt.at 67 1) 1 then
        awaitAcks (subAhead (subInitial (subArmed s r.pkt) (r.pkt.at 72 1)) (r.pkt.at 72 1) none) cx stDONE 0
      else complete (subAhead (subArmed s r.pkt) (r.pkt.at 72 1) none) cx stDONE 0) := by
  have hrow : exec (.exportSub cx) s = execExportSub cx s := rfl
  have hrest : AllPass [(decide (ports s.part ≤ r.pkt.at 73 1 % 128), 9),
      (decide (r.pkt.at 96 8 % 32 ≠ 0) || expPlace s (r.pkt.at 96 8) == .nowhere, 12)] := by
    simp [hport, halign, hplace]
  have hgranted : (globalDenied s r.pkt (r.pkt.at 88 8) (subSpan s r.pkt) || statusDenied s r.pkt) = false := by
    rw [hright, hstatus, Bool.or_self]
  have hcheck := checkFail_of_granted hclear (List.forall_mem_append.2 ⟨hrange, hrest⟩) (List.forall_mem_nil _) hgranted
  rw [subSpan] at hcheck
  rw [hrow, execExportSub]
  refine next_whole_congr ?_
  simp only [hturn, hcheck, hsome, hfree, Option.isSome_none, Bool.false_eq_true, if_false]
  rfl

/-! ### EXPORT_UNSUB (R274) -/

/-- EXPORT_UNSUB disarms a subscription whose writes have been acknowledged and whose RECALLs have left. -/
theorem exec_exportUnsub_of_idle {s : State} {cx : Nat} {r : Running} {u : Sub} (hturn : turnOf s cx 0x0502 = some r)
    (hclear : Clear r.pkt [(8, 7, 0)]) (harmed : tget? s.exp.subs (r.pkt.at 64 1) = some u)
    (hidle : expBusy s (subSource (r.pkt.at 64 1)) = false) (hleft : recallWaits s u = false) :
    exec (.exportUnsub cx) s = .next (whole s fun _ =>
      complete { s with exp := { s.exp with subs := terase s.exp.subs (r.pkt.at 64 1) } } cx stDONE u.pushed) := by
  have hrow : exec (.exportUnsub cx) s = execExportUnsub cx s := rfl
  rw [hrow, execExportUnsub]
  refine next_whole_congr ?_
  simp only [hturn, hclear, harmed, hidle, hleft, Bool.or_self, Bool.false_eq_true, if_false]

/-- Settles O22: EXPORT_PUSH of the current epoch and of the next, EXPORT_SUB without INITIAL and with it, and
EXPORT_UNSUB. -/
theorem exportCommandsComplete : Obligations.ExportCommandsComplete := by
  unfold Obligations.ExportCommandsComplete
  refine ⟨?current, ?next, ?armed, ?initial, ?disarmed⟩
  case current =>
    intro s cx r x hturn hclear hrange hset hright hsome hepoch
    rw [exec_exportPush_of_pass hturn hclear hrange hset hright hsome (.inl hepoch)]
    exact next_whole_congr (exportPushed_of_current hepoch s cx)
  case next =>
    intro s cx r x hturn hclear hrange hset hright hsome hepoch
    rw [exec_exportPush_of_pass hturn hclear hrange hset hright hsome (.inr hepoch)]
    exact next_whole_congr (exportPushed_of_next hepoch s cx)
  case armed =>
    intro s cx r hturn hclear hrange hport halign hplace hright hstatus hsome hfree hinitial
    rw [exec_exportSub_of_pass hturn hclear hrange hport halign hplace hright hstatus hsome hfree]
    exact next_whole_congr (if_neg (by simp [hinitial]))
  case initial =>
    intro s cx r hturn hclear hrange hport halign hplace hright hstatus hsome hfree hinitial
    rw [exec_exportSub_of_pass hturn hclear hrange hport halign hplace hright hstatus hsome hfree]
    exact next_whole_congr (if_pos hinitial)
  case disarmed =>
    intro s cx r u hturn hclear harmed hidle hleft
    exact exec_exportUnsub_of_idle hturn hclear harmed hidle hleft

end Sys2Proof.Machine
end

section
/-!
PROOFS. RESTORE, where its checks pass (R102, R356-R358).
-/
namespace Sys2Proof.Machine

open Sys2Proof

/-- Whether something runs that a RESTORE must not meet: of the whole set, or for a patch of the consignments it names. -/
def restoreBusy (s : State) (cx : Nat) (p : CmdPkt) (x : Pset) (a : RecAcc) : Bool :=
  if p.at 66 1 == 0 then fullBusy s cx (p.at 64 2) x else patchBusy s cx (p.at 64 2) x a

/-- The first record at which a RESTORE finds the set different, where its packet asks for VERIFY. -/
def restoreVerdict (r : Running) (x : Pset) (a : RecAcc) : Option Nat :=
  if bit (r.pkt.at 67 1) 0 then verifyFault x r.seed (r.pkt.at 66 1 == 0) a else none

/-- The set once the records read have been applied (R357, R358). -/
def restoreApplied (s : State) (r : Running) (x : Pset) (a : RecAcc) : State :=
  if r.pkt.at 66 1 == 0 then applyFull (reachQuays s (a.cons.map (·.1))) (ftzAt r.ftz clCrane) r.seed (r.pkt.at 64 2) x a
  else applyPatch (reachQuays s (a.cons.map (·.1))) (ftzAt r.ftz clCrane) r.seed (r.pkt.at 64 2) x a

/-- Where its checks pass and its records are well formed, RESTORE applies them, if nothing that it must not meet runs, no
record holds poison and none differs from the set. -/
theorem exec_restore_of_pass {s : State} {cx : Nat} {r : Running} {x : Pset} {t : State × List (Option Byte)} {a : RecAcc}
    (hturn : turnOf s cx 0x0902 = some r) (hclear : Clear r.pkt restoreLayout) (hset : setOf? s (r.pkt.at 64 2) = some x)
    (hscope : r.pkt.at 66 1 ≤ 1) (halign : r.pkt.at 72 8 % 2 ^ 44 % 32 = 0)
    (hsoft : inSoftware s (r.pkt.at 72 8 % 2 ^ 44) (r.pkt.at 80 8) = true)
    (hright : readDenied s r.pkt (r.pkt.at 72 8 % 2 ^ 44) (r.pkt.at 80 8) = false) (hsome : r.pkt.at 80 8 ≠ 0)
    (ht : t = readTable s (r.pkt.at 72 8 % 2 ^ 44) (r.pkt.at 80 8))
    (hrecords : readRecords x (r.pkt.at 66 1 == 0) (r.pkt.at 80 8 / 32 + 1) t.2 RecAcc.none0 = .done a)
    (hidle : restoreBusy s cx r.pkt x a = false) (hclean : a.poison = none) (hsame : restoreVerdict r x a = none) :
    exec (.restore cx) s = .next (whole s fun _ => awaitAcks (restoreApplied t.1 r x a) cx stDONE a.count) := by
  have hrow : exec (.restore cx) s = execRestore cx s := rfl
  have hplaced : (r.pkt.at 72 8 % 2 ^ 44 % 32 == 0 && inSoftware s (r.pkt.at 72 8 % 2 ^ 44) (r.pkt.at 80 8)) = true := by
    rw [halign, hsoft]
    rfl
  have hcheck := checkFail_of_granted hclear (params := [(false, 8), (false, 9)]) (descr := [(false, 9)]) (by simp) (by simp)
    hright
  rw [restoreBusy] at hidle
  rw [restoreVerdict] at hsame
  rw [hrow, execRestore]
  refine next_whole_congr ?_
  simp only [hturn, hplaced, hset, ← ht, hrecords, hcheck, hsome, hidle, hclean, hsame, decide_eq_false (Nat.not_lt.2 hscope),
    Option.isNone_some, Option.isSome_none, Bool.not_true, Bool.and_false, Bool.or_self, Bool.false_eq_true, if_false]
  rfl

/-- Settles O29: the equation of a RESTORE whose checks pass. -/
theorem restoresComplete : Obligations.RestoresComplete := by
  unfold Obligations.RestoresComplete
  intro s cx r x t a hturn hclear hset hscope halign hsoft hright hsome ht hrecords hidle hclean hsame
  exact exec_restore_of_pass hturn hclear hset hscope halign hsoft hright hsome ht hrecords hidle hclean hsame

end Sys2Proof.Machine
end

section
/-!
PROOFS. The commands and events of gates (R120-R127).
-/
namespace Sys2Proof.Machine

open Sys2Proof

/-- The gate that a GATE_OPEN, GATE_ARRIVE or GATE_ABORT names. -/
def gateNamed (p : CmdPkt) : Nat := p.at 64 2 % 1024

/-- What a gate command meets: its gate, once a deadline that has passed is applied (R127). -/
def gateTicked (s : State) (p : CmdPkt) : State := expireGate s (gateNamed p)

/-! ### GATE_OPEN (R121) -/

/-- The PARENT that a GATE_OPEN gives its gate: 0 where PARENT_EN is clear (log entry 102). -/
def gateParent (p : CmdPkt) : Word := if bit (p.at 76 1) 1 then BitVec.ofNat 64 (p.at 80 8) else 0

/-- The opening that a GATE_OPEN describes, with the number of early arrivals that it counts. -/
def gateOpened (s : State) (p : CmdPkt) : State × Nat :=
  openGate (tagObject s p.task true (gateNamed p) 0) (gateNamed p) (gateMembers p) (p.at 68 2) (p.at 70 2) (p.at 72 4) p.task
    (bit (p.at 76 1) 0) (gateParent p)

/-- Where its checks pass, GATE_OPEN opens a gate that is not in progress. -/
theorem exec_gateOpen_of_pass {s : State} {cx : Nat} {r : Running} (hturn : turnOf s cx 0x0701 = some r)
    (hclear : Clear r.pkt (gateOpenLayout (r.pkt.at 66 2))) (hfit : membersFit r.pkt = true)
    (hparams : AllPass (gateOpenParams s r.pkt)) (hdescr : AllPass (gateOpenDescr r.pkt))
    (hidle : (gateOf (gateTicked s r.pkt) (gateNamed r.pkt)).inProgress = false) :
    exec (.gateOpen cx) s = .next (checkGate
      (complete (gateOpened (gateTicked s r.pkt) r.pkt).1 cx stDONE (gateOpened (gateTicked s r.pkt) r.pkt).2)
      (gateNamed r.pkt)) := by
  have hrow : exec (.gateOpen cx) s = execGateOpen cx s := rfl
  have hcheck := checkFail_none hclear hparams hdescr
  rw [gateTicked, gateNamed] at hidle
  rw [hrow, execGateOpen]
  simp only [hturn, hfit, hcheck, hidle, if_true, if_false, Bool.false_eq_true]
  rfl

/-! ### GATE_ARRIVE and GATE_ABORT (R122, R123, R126) -/

/-- What a GATE_ARRIVE meets by the state and round of its gate (Table 6-8a). -/
def arrivalMet (s : State) (p : CmdPkt) : ArrCase := arrCase (gateOf (gateTicked s p) (gateNamed p)) (p.at 68 2)

/-- An arrival of its gate's round is taken at once (R122). -/
theorem exec_gateArrive_of_counts {s : State} {cx : Nat} {r : Running} (hturn : turnOf s cx 0x0702 = some r)
    (hclear : Clear r.pkt [(8, 9, 0), (8, 24, 16), (8, 47, 32)]) (hcounts : arrivalMet s r.pkt = .counts) :
    exec (.gateArrive cx) s = .next (gateArriveNow (gateTicked s r.pkt) cx r (gateNamed r.pkt) (r.pkt.at 66 1) (r.pkt.at 68 2)
      (bit (r.pkt.at 67 1) 0)) := by
  have hrow : exec (.gateArrive cx) s = execGateArrive cx s := rfl
  rw [arrivalMet, gateTicked, gateNamed] at hcounts
  rw [hrow, execGateArrive]
  simp only [hturn, hclear, hcounts]
  rfl

/-- An arrival that does not wait ends where it is kept as early (R122, R123). -/
theorem exec_gateArrive_of_early {s : State} {cx : Nat} {r : Running} {k : State × Bool}
    (hturn : turnOf s cx 0x0702 = some r) (hclear : Clear r.pkt [(8, 9, 0), (8, 24, 16), (8, 47, 32)])
    (hearly : arrivalMet s r.pkt = .early)
    (hk : k = keepEarly (gateTicked s r.pkt) (gateNamed r.pkt) (r.pkt.at 66 1) (r.pkt.at 68 2) false) (hkept : k.2 = true)
    (hnowait : bit (r.pkt.at 67 1) 0 = false) :
    exec (.gateArrive cx) s = .next (complete k.1 cx stDONE 0) := by
  have hrow : exec (.gateArrive cx) s = execGateArrive cx s := rfl
  rw [arrivalMet, gateTicked, gateNamed] at hearly
  rw [gateTicked, gateNamed] at hk
  rw [hrow, execGateArrive]
  simp only [hturn, hclear, hearly, ← hk, hkept, hnowait, Bool.not_true, Bool.false_eq_true, if_false]

/-- GATE_ABORT aborts its gate, which ignores it where it is not in progress (R126). -/
theorem exec_gateAbort_of_clear {s : State} {cx : Nat} {r : Running} (hturn : turnOf s cx 0x0703 = some r)
    (hclear : Clear r.pkt [(8, 9, 0), (8, 31, 16)]) :
    exec (.gateAbort cx) s = .next (complete (abortGate (gateTicked s r.pkt) (gateNamed r.pkt) 1 (r.pkt.at 66 2) .here)
      cx stDONE 0) := by
  have hrow : exec (.gateAbort cx) s = execGateAbort cx s := rfl
  rw [hrow, execGateAbort]
  simp only [hturn, hclear]
  rfl

/-! ### Engines that arrive (R120, R124) -/

/-- The slot of an engine among a gate's members. -/
def engineSlot (x : Gate) (engine : Nat) : Option Nat := x.members.findIdx? fun d => mKind d == 0 && mEngine d == engine

/-- An engine arrives at a gate in progress that lists it, if it has not arrived before. -/
theorem exec_engineGateArrival_of_listed {s : State} {engine g slot : Nat}
    (hprogress : (gateOf (expireGate s g) g).inProgress = true)
    (hslot : engineSlot (gateOf (expireGate s g) g) engine = some slot)
    (hfirst : slot ∉ (gateOf (expireGate s g) g).arrived) :
    exec (.engineGateArrival engine g) s = .next (arriveSlot (expireGate s g) g slot) := by
  have hrow : exec (.engineGateArrival engine g) s = execEngineGateArrival engine g s := rfl
  rw [engineSlot] at hslot
  rw [hrow, execEngineGateArrival]
  simp only [hprogress, hslot, hfirst, Bool.not_true, Bool.false_eq_true, if_false]

/-- Settles O24: each gate command where its checks pass, an expiry, and an engine that arrives. -/
theorem gateCommandsComplete : Obligations.GateCommandsComplete := by
  unfold Obligations.GateCommandsComplete
  refine ⟨?opened, ?counted, ?early, ?aborted, ?expiry, ?engine⟩
  case opened =>
    intro s cx r hturn hclear hfit hparams hdescr hidle
    exact exec_gateOpen_of_pass hturn hclear hfit hparams hdescr hidle
  case counted =>
    intro s cx r hturn hclear hcounts
    exact exec_gateArrive_of_counts hturn hclear hcounts
  case early =>
    intro s cx r hturn hclear hearly hkept hnowait
    exact exec_gateArrive_of_early hturn hclear hearly rfl hkept hnowait
  case aborted =>
    intro s cx r hturn hclear
    exact exec_gateAbort_of_clear hturn hclear
  case expiry =>
    intro s g
    rfl
  case engine =>
    intro s engine g slot hprogress hslot hfirst
    exact exec_engineGateArrival_of_listed hprogress hslot hfirst

end Sys2Proof.Machine
end

section
/-!
PROOFS. BEACON_WAIT, TASK_CLOSE and the attention lines (R113, R114, R117, R118, R129).
-/
namespace Sys2Proof.Machine

open Sys2Proof

/-! ### BEACON_WAIT (R113, R114) -/

/-- The grain of the beacon that a BEACON_WAIT names, read once the command's task has tagged the beacon. -/
def waitedGrain (s : State) (p : CmdPkt) : State × GrainRead :=
  readGrain (tagBeacon s p.task (p.at 64 2)) (beaconAddr (p.at 64 2) / 32 * 32)

/-- The value of that beacon. -/
def waitedValue (s : State) (p : CmdPkt) : Nat :=
  fieldAt (grainBytes (waitedGrain s p).2.word.data) (beaconAddr (p.at 64 2) % 32) 8

/-- A BEACON_WAIT that can read its beacon ends by its condition or by a TIMEOUT of 0, and waits otherwise. -/
theorem exec_beaconWait_of_readable {s : State} {cx : Nat} {r : Running} (hturn : turnOf s cx 0x0704 = some r)
    (hclear : Clear r.pkt [(8, 24, 0), (8, 63, 32), (9, 63, 0)]) (hcond : r.pkt.at 66 1 ≤ 2)
    (hread : (waitedGrain s r.pkt).2.bad = false) :
    exec (.beaconWait cx) s = .next (
      if condMet (r.pkt.at 66 1) (waitedValue s r.pkt) (r.pkt.at 72 8) then
        complete (waitedGrain s r.pkt).1 cx stDONE (waitedValue s r.pkt)
      else if !bit (r.pkt.at 67 1) 0 ∧ r.pkt.at 68 4 = 0 then
        complete (waitedGrain s r.pkt).1 cx stTIMEOUT (waitedValue s r.pkt)
      else putCmd (waitedGrain s r.pkt).1 cx
        { r with phase := .waitBeacon (r.pkt.at 64 2) (r.pkt.at 66 1) (BitVec.ofNat 64 (r.pkt.at 72 8)) (bit (r.pkt.at 67 1) 0)
                            (r.pkt.at 68 4) (now s) (waitedValue s r.pkt) }) := by
  have hrow : exec (.beaconWait cx) s = execBeaconWait cx s := rfl
  have hparams : AllPass [(decide (2 < r.pkt.at 66 1), 8)] :=
    List.forall_mem_singleton.2 (decide_eq_false (Nat.not_lt.2 hcond))
  have hcheck := checkFail_none hclear hparams (List.forall_mem_nil _)
  rw [waitedGrain] at hread
  rw [hrow, execBeaconWait]
  simp only [hturn, hcheck, hread, Bool.false_eq_true, if_false]
  rfl

/-- A wait whose time has run out ends with the last value that it has tested (R114). -/
theorem exec_beaconWaitTimeout_of_expired {s : State} {cx k cond t t0 last : Nat} {v : Word} {r : Running}
    (hcmd : cmdOf? s cx = some r) (hphase : r.phase = .waitBeacon k cond v false t t0 last) (hexpired : expired s t0 t = true) :
    exec (.beaconWaitTimeout cx) s = .next (complete s cx stTIMEOUT last) := by
  have hrow : exec (.beaconWaitTimeout cx) s = execBeaconWaitTimeout cx s := rfl
  rw [hrow, execBeaconWaitTimeout]
  simp only [hcmd, hphase, hexpired, if_true]

/-! ### TASK_CLOSE (R129) -/

/-- Whether a TASK_CLOSE asks for the list of the objects that are not restored. -/
def listAsked (p : CmdPkt) : Bool := bit (p.at 64 8) 63

/-- Where that list goes. -/
def listPlace (p : CmdPkt) : Nat := p.at 64 8 % 2 ^ 44

/-- The state once a TASK_CLOSE has tested the objects of its task, with the list written where it asks for it. -/
def taskListed (s : State) (p : CmdPkt) : State :=
  if listAsked p then writeBytes (unrestored s p.task).1 (listPlace p) ((unrestored s p.task).2.flatMap closeEntry)
  else (unrestored s p.task).1

/-- TASK_CLOSE of a task drops its tags and counts its objects that are not restored; only a list that it asks for needs a
place and the right to write there. -/
theorem exec_taskClose_of_pass {s : State} {cx : Nat} {r : Running} (hturn : turnOf s cx 0x0705 = some r)
    (hclear : Clear r.pkt [(8, 43, 0), (8, 63, 63)]) (htask : r.pkt.task ≠ 0)
    (hplace : (listAsked r.pkt && (listPlace r.pkt % 32 != 0 || !inMemory s (listPlace r.pkt) 1064960)) = false)
    (hright : (listAsked r.pkt && writeDenied s r.pkt (listPlace r.pkt) 1064960) = false) :
    exec (.taskClose cx) s = .next (whole s fun _ =>
      complete (dropTags (taskListed s r.pkt) r.pkt.task) cx stDONE (unrestored s r.pkt.task).2.length) := by
  have hrow : exec (.taskClose cx) s = execTaskClose cx s := rfl
  have hparams : AllPass [(r.pkt.task == 0, 0),
      (listAsked r.pkt && (listPlace r.pkt % 32 != 0 || !inMemory s (listPlace r.pkt) 1064960), 8)] := by
    rw [hplace, beq_eq_false_iff_ne.2 htask]
    simp
  have hcheck := checkFail_of_granted hclear hparams (List.forall_mem_nil _) hright
  rw [listAsked, listPlace] at hcheck
  rw [hrow, execTaskClose]
  refine next_whole_congr ?_
  simp only [hturn, hcheck]
  rfl

/-! ### Attention lines (R117, R118) -/

/-- In two-way mode a rising edge of a line that the part has adds 1 to the beacon of the line. -/
theorem exec_attnLineEdge_of_enabled {s : State} {die line : Nat} (hruns : clocksRun s = true)
    (hmode : fld s rHbSigCfg 0 0 = 1) (hdie : bit (fld s rHbSigCfg 7 4) die = true) (hdies : die < ports s.part / 32)
    (hline : line < 32) :
    exec (.attnLineEdge die line) s = .next (beaconAtomic s (fld s rHbSigCfg 31 16 + die * 64 + line)
      fun v => (v + 1) % 18446744073709551616).1 := by
  have hrow : exec (.attnLineEdge die line) s = execAttnLineEdge die line s := rfl
  rw [hrow, execAttnLineEdge, if_pos ⟨hruns, hmode, hdie, hdies, hline⟩]

/-- Settles O25: the two cases of a BEACON_WAIT at its start and its timeout, TASK_CLOSE without a list and with one, and
a line's edge. -/
theorem beaconCommandsComplete : Obligations.BeaconCommandsComplete := by
  unfold Obligations.BeaconCommandsComplete
  refine ⟨?met, ?waits, ?timedOut, ?closed, ?listed, ?edge⟩
  case met =>
    intro s cx r hturn hclear hcond hread hmet
    exact (exec_beaconWait_of_readable hturn hclear hcond hread).trans (congrArg _ (if_pos hmet))
  case waits =>
    intro s cx r hturn hclear hcond hread hunmet hlasts
    have htime : ¬ ((!bit (r.pkt.at 67 1) 0) = true ∧ r.pkt.at 68 4 = 0) := by
      rintro ⟨hbounded, hzero⟩
      rcases hlasts with hforever | htimeout
      · simp [hforever] at hbounded
      · exact htimeout hzero
    exact (exec_beaconWait_of_readable hturn hclear hcond hread).trans
      (congrArg _ ((if_neg (Bool.eq_false_iff.1 hunmet)).trans (if_neg htime)))
  case timedOut =>
    intro s cx k cond t t0 last v r hcmd hphase hexpired
    exact exec_beaconWaitTimeout_of_expired hcmd hphase hexpired
  case closed =>
    intro s cx r hturn hclear htask hlist
    have hask : listAsked r.pkt = false := hlist
    rw [exec_taskClose_of_pass hturn hclear htask (by simp [hask]) (by simp [hask]), taskListed, hask]
    rfl
  case listed =>
    intro s cx r hturn hclear htask hlist halign hmemory hright
    have hask : listAsked r.pkt = true := hlist
    rw [← listPlace] at halign hmemory hright
    rw [exec_taskClose_of_pass hturn hclear htask (by simp [halign, hmemory]) (by simp [hright]), taskListed, hask]
    rfl
  case edge =>
    intro s die line hruns hmode hdie hdies hline
    exact exec_attnLineEdge_of_enabled hruns hmode hdie hdies hline

end Sys2Proof.Machine
end

section
/-!
PROOFS. TD_CREATE and TD_DESTROY (R143): a number below a bound is free wherever fewer are in use (log entry 12).
-/
namespace Sys2Proof.Machine

open Sys2Proof

/-! ### Free numbers -/

/-- Fewer used numbers than a bound leave a number below the bound free. -/
theorem exists_lt_notMem {used : List Nat} {bound : Nat} (hroom : used.length < bound) : ∃ n < bound, n ∉ used := by
  have hcard : used.toFinset.card < (Finset.range bound).card := by
    rw [Finset.card_range]
    exact used.toFinset_card_le.trans_lt hroom
  obtain ⟨n, hlt, hfree⟩ := Finset.exists_mem_notMem_of_card_lt_card hcard
  exact ⟨n, Finset.mem_range.1 hlt, mt List.mem_toFinset.2 hfree⟩

/-- The numbers below a bound that are not used. -/
def freeNumbers (bound : Nat) (used : List Nat) : List Nat := (List.range bound).filter fun n => n ∉ used

theorem mem_freeNumbers {bound n : Nat} {used : List Nat} : n ∈ freeNumbers bound used ↔ n < bound ∧ n ∉ used := by
  simp [freeNumbers]

/-- Where numbers are left, one of them is picked, whatever value is drawn. -/
theorem pickFree_of_room (s : State) {bound : Nat} {used : List Nat} (hroom : used.length < bound) :
    ∃ n < bound, n ∉ used ∧ pickFree s bound used = ({ s with free := s.free + 1 }, some n) := by
  obtain ⟨m, hm⟩ := exists_lt_notMem hroom
  have hleft : freeNumbers bound used ≠ [] := List.ne_nil_of_mem (mem_freeNumbers.2 hm)
  have hdrawn : Config.pick s.free % (freeNumbers bound used).length < (freeNumbers bound used).length :=
    Nat.mod_lt _ (List.length_pos_iff.2 hleft)
  obtain ⟨hlt, hfree⟩ := mem_freeNumbers.1 (List.getElem_mem hdrawn)
  refine ⟨_, hlt, hfree, ?_⟩
  rw [pickFree, ← freeNumbers, List.isEmpty_eq_false_iff.2 hleft, if_neg Bool.false_ne_true,
    List.getElem?_eq_getElem hdrawn]

/-- A table has no entry at a number that is none of its keys. -/
theorem tget?_eq_none_of_notMem {α : Type} {t : Table α} {k : Nat} (hkey : k ∉ t.map (·.1)) : tget? t k = none := by
  induction t with
  | nil => rfl
  | cons e t ih =>
    obtain ⟨hne, hrest⟩ := not_or.1 (mt List.mem_cons.2 hkey)
    rw [tget?, if_neg (Ne.symm hne), ih hrest]

/-! ### The commands -/

/-- Where its checks pass and a number is left, TD_CREATE takes one for its descriptor and answers it. -/
theorem exec_tdCreate_of_pass {s : State} {cx : Nat} {r : Running} (hturn : turnOf s cx 0x0104 = some r)
    (hclear : Clear r.pkt tdCreateLayout) (hparams : AllPass (tdParams s r.pkt (tdOfPacket r.pkt)))
    (hdescr : AllPass (tdDescr s (tdOfPacket r.pkt))) (hright : tdDenied s r.pkt (tdOfPacket r.pkt) = false)
    (hroom : s.tds.length < 65536) :
    ∃ n < 65536, tget? s.tds n = none ∧ exec (.tdCreate cx) s = .next (complete
      { s with free := s.free + 1, tds := tset s.tds n (tdOfPacket r.pkt) } cx stDONE n) := by
  have hrow : exec (.tdCreate cx) s = execTdCreate cx s := rfl
  have hcheck := checkFail_of_granted hclear hparams hdescr hright
  obtain ⟨n, hn, hunused, hpick⟩ := pickFree_of_room s (used := s.tds.map (·.1)) ((List.length_map _).trans_lt hroom)
  refine ⟨n, hn, tget?_eq_none_of_notMem hunused, ?_⟩
  rw [hrow, execTdCreate]
  simp only [hturn, hcheck, hpick]

/-- TD_DESTROY removes a descriptor that turns by itself or whose set is not resident (log entry 34). -/
theorem exec_tdDestroy_of_unused {s : State} {cx : Nat} {r : Running} {d : TDesc} (hturn : turnOf s cx 0x0105 = some r)
    (hclear : Clear r.pkt [(8, 15, 0)]) (hdesc : tget? s.tds (r.pkt.at 64 2) = some d)
    (hunused : d.turn ≠ 0 ∨ setOf? s d.pset = none) :
    exec (.tdDestroy cx) s = .next (complete { s with tds := terase s.tds (r.pkt.at 64 2) } cx stDONE 0) := by
  have hrow : exec (.tdDestroy cx) s = execTdDestroy cx s := rfl
  have hcheck := checkFail_none hclear (params := [(false, 8)]) (by simp) (List.forall_mem_nil _)
  have hidle : ¬ (d.turn = 0 ∧ (setOf? s d.pset).isSome = true) := by
    rintro ⟨hturns, hset⟩
    rcases hunused with hself | hnone
    · exact hself hturns
    · simp [hnone] at hset
  rw [hrow, execTdDestroy]
  simp only [hturn, hdesc, hcheck, hidle, Option.isNone_some, if_false]

/-- Settles O17: TD_CREATE where its checks pass and a number is left, and TD_DESTROY of a descriptor that its set does not
use. -/
theorem descriptorCommandsComplete : Obligations.DescriptorCommandsComplete := by
  unfold Obligations.DescriptorCommandsComplete
  refine ⟨?created, ?destroyed⟩
  case created =>
    intro s cx r hturn hclear hparams hdescr hright hroom
    exact exec_tdCreate_of_pass hturn hclear hparams hdescr hright hroom
  case destroyed =>
    intro s cx r d hturn hclear hdesc hunused
    exact exec_tdDestroy_of_unused hturn hclear hdesc hunused

end Sys2Proof.Machine
end

section
/-!
SUPPORT. Fields packed side by side, lowest first, are read back from their places.
-/
namespace Sys2Proof.Machine

open Sys2Proof

/-- Each field of a list, as its width and its value, fits its width. -/
def FieldsFit (fs : List (Nat × Nat)) : Prop := ∀ f ∈ fs, f.2 < 2 ^ f.1

/-- The number that holds such fields side by side, the first one in its lowest bits. -/
def packFields : List (Nat × Nat) → Nat
  | [] => 0
  | f :: fs => f.2 + 2 ^ f.1 * packFields fs

/-- The lowest bit of field `i`, by the widths of the fields. -/
def fieldPlace (widths : List Nat) (i : Nat) : Nat := (widths.take i).sum

theorem packFields_lt {fs : List (Nat × Nat)} (hfit : FieldsFit fs) : packFields fs < 2 ^ (fs.map (·.1)).sum := by
  induction fs with
  | nil => exact Nat.one_pos
  | cons f fs ih =>
    obtain ⟨hf, hfs⟩ := List.forall_mem_cons.1 hfit
    calc f.2 + 2 ^ f.1 * packFields fs
      _ < 2 ^ f.1 * (packFields fs + 1) := by rw [Nat.mul_succ]; omega
      _ ≤ 2 ^ f.1 * 2 ^ (fs.map (·.1)).sum := Nat.mul_le_mul_left _ (ih hfs)
      _ = 2 ^ ((f :: fs).map (·.1)).sum := by rw [List.map_cons, List.sum_cons, Nat.pow_add]

/-- The bits at a field's place are the field. -/
theorem packFields_field {fs : List (Nat × Nat)} (hfit : FieldsFit fs) {i w x : Nat} (hfield : fs[i]? = some (w, x)) :
    packFields fs / 2 ^ fieldPlace (fs.map (·.1)) i % 2 ^ w = x := by
  induction fs generalizing i with
  | nil => cases hfield
  | cons f fs ih =>
    obtain ⟨hf, hfs⟩ := List.forall_mem_cons.1 hfit
    cases i with
    | zero =>
      cases hfield
      change (x + 2 ^ w * packFields fs) / 2 ^ 0 % 2 ^ w = x
      rw [Nat.pow_zero, Nat.div_one, Nat.add_mul_mod_self_left, Nat.mod_eq_of_lt hf]
    | succ i =>
      have hplace : fieldPlace ((f :: fs).map (·.1)) (i + 1) = f.1 + fieldPlace (fs.map (·.1)) i := rfl
      have hrest : packFields (f :: fs) / 2 ^ f.1 = packFields fs := by
        rw [packFields, Nat.add_mul_div_left _ _ (Nat.two_pow_pos _), Nat.div_eq_of_lt hf, Nat.zero_add]
      rw [hplace, Nat.pow_add, ← Nat.div_div_eq_div_mul, hrest, ih hfs hfield]

theorem bits_packFields {fs : List (Nat × Nat)} (hfit : FieldsFit fs) (i : Nat) {hi lo x : Nat}
    (hfield : fs[i]? = some (hi + 1 - lo, x)) (hplace : fieldPlace (fs.map (·.1)) i = lo) : bits (packFields fs) hi lo = x := by
  subst hplace
  rw [bits_eq, packFields_field hfit hfield]

theorem b2n_lt_two (b : Bool) : b2n b < 2 := by cases b <;> decide

/-- A flag is read back from the bit at its place. -/
theorem bit_packFields {fs : List (Nat × Nat)} (hfit : FieldsFit fs) (i : Nat) {k : Nat} {b : Bool}
    (hfield : fs[i]? = some (1, b2n b)) (hplace : fieldPlace (fs.map (·.1)) i = k) : bit (packFields fs) k = b := by
  have hbit : (packFields fs >>> k) % 2 = b2n b := by
    rw [Nat.shiftRight_eq_div_pow, ← hplace]
    exact packFields_field hfit hfield
  rw [bit, hbit]
  cases b <;> rfl

end Sys2Proof.Machine
end

section
/-!
PROOFS. Packet headers on the wire: their fields and their last word (Table 9-1, R168).
-/
namespace Sys2Proof.Machine

open Sys2Proof

/-- The last word of a header: HCRC in version 3 and 0 in version 2 (R168). -/
def hcrcWord (h : PktHdr) : Nat := if h.ver = 3 then hcrcOf h.lowBits else 0

theorem hcrcWord_lt (h : PktHdr) : hcrcWord h < 2 ^ 32 := by
  unfold hcrcWord
  split
  · exact BitVec.isLt _
  · decide

/-- The fields of a header in the order of their places, each with its width (Table 9-1). -/
def wireFields (h : PktHdr) : List (Nat × Nat) :=
  [(4, h.ver), (4, h.type), (18, h.dest), (18, h.orig), (1, b2n h.bcast), (1, b2n h.rel), (1, b2n h.final), (1, b2n h.red),
   (1, b2n h.manValid), (14, h.manifest), (16, h.gen), (24, h.source), (44, h.target), (8, h.len), (4, h.fmt), (24, h.cnt),
   (1, b2n h.anygen), (8, h.reserved), (32, h.arg), (32, hcrcWord h)]

/-- The widths of the fields. -/
def wireWidths : List Nat := [4, 4, 18, 18, 1, 1, 1, 1, 1, 14, 16, 24, 44, 8, 4, 24, 1, 8, 32, 32]

theorem map_fst_wireFields (h : PktHdr) : (wireFields h).map (·.1) = wireWidths := rfl

theorem wireFields_fit {h : PktHdr} (hfits : headerFits h) : FieldsFit (wireFields h) := by
  obtain ⟨hver, htype, hdest, horig, hmanifest, hgen, hsource, htarget, hlen, hfmt, hcnt, hreserved, harg⟩ := hfits
  simp only [FieldsFit, wireFields, List.forall_mem_cons, Nat.pow_one, b2n_lt_two, true_and]
  exact ⟨hver, htype, hdest, horig, hmanifest, hgen, hsource, htarget, hlen, hfmt, hcnt, hreserved, harg, hcrcWord_lt h,
    List.forall_mem_nil _⟩

theorem packFields_wireFields (h : PktHdr) : packFields (wireFields h) = h.lowBits + hcrcWord h * 2 ^ 224 := by
  simp only [wireFields, packFields, PktHdr.lowBits]
  ring

/-- The bits of a header are its fields side by side. -/
theorem toBits_toNat {h : PktHdr} (hfits : headerFits h) : h.toBits.toNat = packFields (wireFields h) := by
  have hwidths : wireWidths.sum = 256 := by decide
  have hlt := packFields_lt (wireFields_fit hfits)
  rw [map_fst_wireFields, hwidths] at hlt
  have hbits : h.toBits = BitVec.ofNat 256 (h.lowBits + hcrcWord h * 2 ^ 224) := rfl
  rw [hbits, BitVec.toNat_ofNat, ← packFields_wireFields, Nat.mod_eq_of_lt hlt]

section
variable {h : PktHdr} (hfits : headerFits h)
include hfits

/-- A field is read back from its place. -/
theorem bits_toBits (i : Nat) {hi lo x : Nat} (hfield : (wireFields h)[i]? = some (hi + 1 - lo, x))
    (hplace : fieldPlace wireWidths i = lo) : bits h.toBits.toNat hi lo = x := by
  rw [toBits_toNat hfits]
  exact bits_packFields (wireFields_fit hfits) i hfield (by rw [map_fst_wireFields, hplace])

/-- A flag is read back from its place. -/
theorem bit_toBits (i : Nat) {k : Nat} {b : Bool} (hfield : (wireFields h)[i]? = some (1, b2n b))
    (hplace : fieldPlace wireWidths i = k) : bit h.toBits.toNat k = b := by
  rw [toBits_toNat hfits]
  exact bit_packFields (wireFields_fit hfits) i hfield (by rw [map_fst_wireFields, hplace])

/-- Every field is read back from its place; the model names the argument before the reserved bits that lie below it. -/
theorem ofBits_toBits : PktHdr.ofBits h.toBits = h := by
  have hfield (i : Nat) {hi lo x : Nat} := bits_toBits hfits i (hi := hi) (lo := lo) (x := x)
  have hflag (i : Nat) {k : Nat} {b : Bool} := bit_toBits hfits i (k := k) (b := b)
  cases h
  rw [PktHdr.ofBits, PktHdr.mk.injEq]
  refine ⟨hfield 0 rfl ?_, hfield 1 rfl ?_, hfield 2 rfl ?_, hfield 3 rfl ?_, hflag 4 rfl ?_, hflag 5 rfl ?_, hflag 6 rfl ?_,
    hflag 7 rfl ?_, hflag 8 rfl ?_, hfield 9 rfl ?_, hfield 10 rfl ?_, hfield 11 rfl ?_, hfield 12 rfl ?_, hfield 13 rfl ?_,
    hfield 14 rfl ?_, hfield 15 rfl ?_, hflag 16 rfl ?_, hfield 18 rfl ?_, hfield 17 rfl ?_⟩ <;> decide

/-- The last word is what follows the 224 bits of the fields. -/
theorem toBits_div : h.toBits.toNat / 2 ^ 224 = hcrcWord h := by
  have hword : bits h.toBits.toNat 255 224 = hcrcWord h := bits_toBits hfits 19 rfl (by decide)
  have hlt := h.toBits.isLt
  rw [bits_eq] at hword
  omega

end

/-- Settles O45: the header's fields are read back from their places (`ofBits_toBits`), and so is its last word
(`toBits_div`). -/
theorem headersSurvive : Obligations.HeadersSurvive := by
  unfold Obligations.HeadersSurvive
  intro h hfits
  exact ⟨ofBits_toBits hfits, toBits_div hfits⟩

end Sys2Proof.Machine
end

section
/-!
PROOFS. The tug's tallies: the marker absorbs, and what stays in range adds exactly (R181).
-/
namespace Sys2Proof.Machine

open Sys2Proof

/-! ### One contribution -/

/-- A sum that a tally can hold beside the marker. -/
def InTallyRange (n : Int) : Prop := n.natAbs < 2 ^ 63

theorem toInt_of_inTallyRange {n : Int} (h : InTallyRange n) : (BitVec.ofInt 64 n).toInt = n := by
  unfold InTallyRange at h
  exact BitVec.toInt_ofInt_eq_self (by decide) (by omega) (by omega)

theorem ofInt_ne_markerWord {n : Int} (h : InTallyRange n) : BitVec.ofInt 64 n ≠ markerWord := by
  intro heq
  have hmarker : markerWord.toInt = -2 ^ 63 := by decide
  rw [← heq, toInt_of_inTallyRange h] at hmarker
  rw [InTallyRange, hmarker] at h
  exact absurd h (by decide)

@[simp] theorem addTally_marker (o : Option Word) : addTally o .marker = markerWord := by cases o <;> rfl

/-- The marker absorbs what can be read. -/
theorem addTally_markerWord {w : TWord} (hw : readable w) : addTally (some markerWord) w = markerWord := by
  cases w with
  | val v => simp only [addTally, if_true]
  | marker => rfl
  | bad => exact absurd rfl hw

/-- A word beside the marker takes the sum, or the marker where the sum is out of range. -/
theorem addTally_val {o : Word} (ho : o ≠ markerWord) (v : Int) :
    addTally (some o) (.val v) = if 2 ^ 63 - 1 < (o.toInt + v).natAbs then markerWord else BitVec.ofInt 64 (o.toInt + v) :=
  if_neg ho

/-- Sums in range add exactly. -/
theorem addTally_ofInt {n v : Int} (hn : InTallyRange n) (hsum : InTallyRange (n + v)) :
    addTally (some (BitVec.ofInt 64 n)) (.val v) = BitVec.ofInt 64 (n + v) := by
  have hle : ¬ 2 ^ 63 - 1 < (n + v).natAbs := by
    unfold InTallyRange at hsum
    omega
  rw [addTally_val (ofInt_ne_markerWord hn), toInt_of_inTallyRange hn, if_neg hle]

/-! ### Many contributions -/

/-- What a contribution adds to the exact sum. -/
def addValue (n : Int) : TWord → Int
  | .val v => n + v
  | _ => n

theorem foldl_addTally_markerWord {l : List TWord} (hread : ∀ w ∈ l, readable w) :
    l.foldl (fun o w => addTally (some o) w) markerWord = markerWord := by
  induction l with
  | nil => rfl
  | cons w l ih =>
    obtain ⟨hw, hl⟩ := List.forall_mem_cons.1 hread
    rw [List.foldl_cons, addTally_markerWord hw, ih hl]

/-- Readable contributions below 2^40 leave their exact sum, or the marker where one of them is the marker, if there is room
above the sum so far for each of them. -/
theorem foldl_addTally {l : List TWord} (hread : ∀ w ∈ l, readable w) (hsmall : ∀ v, TWord.val v ∈ l → v.natAbs < 2 ^ 40)
    {n : Int} (hroom : n.natAbs + l.length * 2 ^ 40 < 2 ^ 63) :
    l.foldl (fun o w => addTally (some o) w) (BitVec.ofInt 64 n) =
      if TWord.marker ∈ l then markerWord else BitVec.ofInt 64 (l.foldl addValue n) := by
  induction l generalizing n with
  | nil => rfl
  | cons w l ih =>
    obtain ⟨hw, hl⟩ := List.forall_mem_cons.1 hread
    rw [List.length_cons] at hroom
    cases w with
    | val v =>
      have hv := hsmall v List.mem_cons_self
      have hn : InTallyRange n := by unfold InTallyRange; omega
      have hsum : InTallyRange (n + v) := by unfold InTallyRange; omega
      have hnext := ih hl (fun u hu => hsmall u (List.mem_cons_of_mem _ hu)) (n := n + v) (by omega)
      rw [List.foldl_cons, addTally_ofInt hn hsum, hnext]
      simp only [List.mem_cons, reduceCtorEq, false_or, List.foldl_cons, addValue]
    | marker => rw [List.foldl_cons, addTally_marker, foldl_addTally_markerWord hl, if_pos List.mem_cons_self]
    | bad => exact absurd rfl hw

/-- Settles O55: one contribution by `addTally_markerWord`, `addTally_marker` and `addTally_val`, and many from 0, where
2^23 - 1 contributions below 2^40 have room, by `foldl_addTally`. -/
theorem talliesAddExactly : Obligations.TalliesAddExactly := by
  unfold Obligations.TalliesAddExactly
  refine ⟨?absorbs, ?marks, ?adds, ?sums⟩
  case absorbs => exact fun w hw => addTally_markerWord hw
  case marks => exact fun o => addTally_marker o
  case adds => exact fun o v ho => addTally_val ho v
  case sums =>
    intro l hlen hread hsmall
    have hroom : (0 : Int).natAbs + l.length * 2 ^ 40 < 2 ^ 63 := by
      rw [Int.natAbs_zero]
      omega
    exact foldl_addTally hread hsmall hroom

end Sys2Proof.Machine
end

section
/-!
PROOFS. Packets of bulk class: they land, or wait in a hold or at their place in the loopback (R169, R177, R187; log entry 90).
-/
namespace Sys2Proof.Machine

open Sys2Proof

/-- A packet that cannot land yet waits where it came from: in its port's hold, or at its place in the loopback (R187; log
entry 90). -/
def keepWaiting (t : State) (src : LandSrc) (p : Packet) : State :=
  match src with
  | .port n => { t with land := { t.land with holds := t.land.holds ++ [(n, bindFinal t p)] } }
  | .loop i => { t with land := { t.land with loop := t.land.loop.take i ++ bindFinal t p :: t.land.loop.drop i } }

/-- What a packet leaves by whether it lands. -/
def bulkLeft (src : LandSrc) (p : Packet) : State × Landed → State
  | (_, .done t) => t
  | (t, .stall _) => keepWaiting t src p

section
variable {s s1 t t0 : State} {src : LandSrc} {hdr : BitVec 256} {payload : List Codeword} {p : Packet} {type : Nat}

/-- Where the hold of its port is full, a packet stays in the fabric (R187). -/
theorem arriveBulk_of_full (hfull : holdRoom s src = false) : arriveBulk s src hdr payload type = s := by
  cases src with
  | port n =>
    have hlen : 32 ≤ (holdOf s n).length := Nat.not_lt.1 (of_decide_eq_false hfull)
    simp only [arriveBulk, hlen, decide_true, if_true]
  | loop i => cases hfull

/-- Where there is room, a packet that the row takes lands if it can, and waits if it cannot. -/
theorem arriveBulk_of_room (harrived : arrived s src hdr payload (ofType type) = some (s1, p)) (hroom : holdRoom s src = true) :
    arriveBulk s src hdr payload type = bulkLeft src p (landTry (landTicks s1) p) := by
  cases src with
  | port n =>
    have hlen : ¬ 32 ≤ (holdOf s n).length := Nat.not_le.2 (of_decide_eq_true hroom)
    simp only [arriveBulk, hlen, decide_false, Bool.false_eq_true, if_false, withPacket_of_arrived harrived]
    rfl
  | loop i =>
    simp only [arriveBulk, Bool.false_eq_true, if_false, withPacket_of_arrived harrived]
    rfl

theorem arriveBulk_of_lands (harrived : arrived s src hdr payload (ofType type) = some (s1, p)) (hroom : holdRoom s src = true)
    (hland : landTry (landTicks s1) p = (t0, .done t)) : arriveBulk s src hdr payload type = t := by
  rw [arriveBulk_of_room harrived hroom, hland, bulkLeft]

theorem arriveBulk_of_stalls {b : Bool} (harrived : arrived s src hdr payload (ofType type) = some (s1, p))
    (hroom : holdRoom s src = true) (hstall : landTry (landTicks s1) p = (t, .stall b)) :
    arriveBulk s src hdr payload type = keepWaiting t src p := by
  rw [arriveBulk_of_room harrived hroom, hstall, bulkLeft]

end

theorem holdRoom_port_of_lt {s : State} {n : Nat} (h : (holdOf s n).length < 32) : holdRoom s (.port n) = true :=
  decide_eq_true h

theorem holdRoom_port_of_le {s : State} {n : Nat} (h : 32 ≤ (holdOf s n).length) : holdRoom s (.port n) = false :=
  decide_eq_false (Nat.not_lt.2 h)

/-- A row of the landing engine answers by the state that its work leaves. -/
theorem next_afterLanding_congr {s t : State} (h : s = t) : (.next (afterLanding s) : Answer) = .next (afterLanding t) := by
  rw [h]

/-- Settles O31: in the row of each type, a packet lands (`arriveBulk_of_lands`), waits where it came from
(`arriveBulk_of_stalls`), or stays in the fabric (`arriveBulk_of_full`). -/
theorem bulkPacketsComplete : Obligations.BulkPacketsComplete := by
  unfold Obligations.BulkPacketsComplete
  refine ⟨?writeLands, ?tokenLands, ?contribLands, ?writeHeld, ?tokenHeld, ?contribHeld, ?writeLooped, ?tokenLooped,
    ?contribLooped, ?writeFull, ?tokenFull, ?contribFull⟩
  case writeLands | tokenLands | contribLands =>
    intro s s1 src hdr payload p t0 t harrived hroom hland
    exact next_afterLanding_congr (arriveBulk_of_lands harrived hroom hland)
  case writeHeld | tokenHeld | contribHeld =>
    intro s s1 t n hdr payload p b harrived hlen hstall
    exact next_afterLanding_congr (arriveBulk_of_stalls harrived (holdRoom_port_of_lt hlen) hstall)
  case writeLooped | tokenLooped | contribLooped =>
    intro s s1 t i hdr payload p b harrived hstall
    exact next_afterLanding_congr (arriveBulk_of_stalls harrived rfl hstall)
  case writeFull | tokenFull | contribFull =>
    intro s n hdr payload hlen
    exact next_afterLanding_congr (arriveBulk_of_full (holdRoom_port_of_le hlen))

end Sys2Proof.Machine
end

section
/-!
PROOFS. Finalisation, expiries, acknowledgement timeouts and hold releases (R172, R178, R186-R188, R390).
-/
namespace Sys2Proof.Machine

open Sys2Proof

/-! ### Finalisation (R176, R188) -/

/-- What MANIFEST_FINALISE does for a finalising generation: the tugs finalise its range, or its held FINAL writes are tried
again where only they are left. -/
def finaliseMan (s : State) (m gen : Nat) (x : Manifest) : State :=
  if x.tallied then finishMan s m gen else whole s fun t => finishMan (finaliseRange t m x) m gen

theorem finaliseMan_of_tallied {s : State} {m gen : Nat} {x : Manifest} (h : x.tallied = true) :
    finaliseMan s m gen x = finishMan s m gen := if_pos h

theorem finaliseMan_of_untallied {s : State} {m gen : Nat} {x : Manifest} (h : x.tallied = false) :
    finaliseMan s m gen x = whole s fun _ => finishMan (finaliseRange s m x) m gen :=
  (if_neg (Bool.eq_false_iff.1 h)).trans (whole_congr rfl)

/-- A generation whose set is resident and not held, or not resident, goes on. -/
theorem exec_manifestFinalise_of_free {s : State} {m gen : Nat} {x : Manifest} (hactive : s.pow.harbour = .active)
    (hx : finalisingOf s m gen = some x) (hfree : setOf? s x.pset = none ∨ (setOf? s x.pset).any (fun y => y.held) = false) :
    exec (.manifestFinalise m gen) s = .next (afterLanding (finaliseMan s m gen x)) := by
  have hrow : exec (.manifestFinalise m gen) s = execManifestFinalise m gen s := rfl
  rw [hrow, execManifestFinalise, finaliseMan]
  simp only [hactive, bne_self_eq_false, Bool.false_eq_true, if_false, hx]
  rw [if_neg, apply_ite afterLanding]
  cases hset : setOf? s x.pset with
  | none => exact Bool.false_ne_true
  | some y => simpa [hset] using hfree

/-! ### Expiries (R178, R186) -/

theorem expireMan_of_due {s : State} {m : Nat} (h : manDue s m = true) : expireMan s m = failMan s m true := if_pos h

theorem expirePark_of_due {s : State} {e : AnchEntry} {p : Packet} (hdue : parkDue s e = true) (hpkt : e.pkt = some p) :
    expirePark s e = refuse (bump (dropEntry s e.id) rLdStat 47 32 1) p.hdr akEXPIRED := by
  simp only [expirePark, hdue, hpkt, if_true]

/-- An entry that has outlived PARK_TTL is refused by its row. -/
theorem exec_parkTtlExpiry_of_due {s : State} {e : AnchEntry} {p : Packet}
    (hfound : s.land.entries.find? (fun f => f.id == e.id) = some e) (hdue : parkDue s e = true) (hpkt : e.pkt = some p) :
    exec (.parkTtlExpiry e.id) s =
      .next (afterLanding (refuse (bump (dropEntry s e.id) rLdStat 47 32 1) p.hdr akEXPIRED)) := by
  have hrow : exec (.parkTtlExpiry e.id) s = execParkTtlExpiry e.id s := rfl
  rw [hrow, execParkTtlExpiry, hfound]
  exact next_afterLanding_congr (expirePark_of_due hdue hpkt)

/-! ### The rows -/

/-- Settles O33: each event is its row where its condition holds; a count of either kind is dropped once its timer has run. -/
theorem landingEventsComplete : Obligations.LandingEventsComplete := by
  unfold Obligations.LandingEventsComplete
  refine ⟨?finalises, ?finishes, ?expires, ?parkExpires, ?plainDropped, ?finalDropped, ?released⟩
  case finalises =>
    intro s m gen x hactive hx huntallied hfree
    rw [exec_manifestFinalise_of_free hactive hx hfree, finaliseMan_of_untallied huntallied]
  case finishes =>
    intro s m gen x hactive hx htallied hfree
    rw [exec_manifestFinalise_of_free hactive hx hfree, finaliseMan_of_tallied htallied]
  case expires =>
    intro s m hdue
    exact next_afterLanding_congr (expireMan_of_due hdue)
  case parkExpires =>
    intro s e p hfound hdue hpkt
    exact exec_parkTtlExpiry_of_due hfound hdue hpkt
  case plainDropped | finalDropped =>
    intro s source hcount htime hexpired
    have hdrops := And.intro hcount (And.intro htime hexpired)
    exact next_afterLanding_congr (if_pos hdrops)
  case released =>
    intro s port hup
    exact congrArg Host.Outcome.next (if_pos hup)

end Sys2Proof.Machine
end

section
/-!
SUPPORT. The resident sets: what is found under a number after one of them has changed (R210).
-/
namespace Sys2Proof.Machine

open Sys2Proof

theorem setOf?_putSet (s : State) (n m : Nat) (x : Pset) :
    setOf? (putSet s n x) m = if n = m then some x else setOf? s m := tget?_tset s.sets n m x

@[simp] theorem setOf?_putSet_same (s : State) (n : Nat) (x : Pset) : setOf? (putSet s n x) n = some x := by
  rw [setOf?_putSet, if_pos rfl]

theorem setOf?_putSet_other {n m : Nat} (h : n ≠ m) (s : State) (x : Pset) : setOf? (putSet s n x) m = setOf? s m := by
  rw [setOf?_putSet, if_neg h]

/-- Under its own number a changed set is found as the change leaves it; a set that is not resident stays away. -/
@[simp] theorem setOf?_modSet_same (s : State) (n : Nat) (f : Pset → Pset) :
    setOf? (modSet s n f) n = (setOf? s n).map f := by
  unfold modSet
  cases h : setOf? s n with
  | none => simp [h]
  | some x => simp

end Sys2Proof.Machine
end

section
/-!
PROOFS. SWEEP, SWEEP_RESUME, their timeouts and LOSS_SCALE (R102, R160, R217, R218, R220, R231, R232, R236).
-/
namespace Sys2Proof.Machine

open Sys2Proof

/-! ### SWEEP (R218, R220) -/

/-- A SWEEP that passes its checks latches its seeds and goes on from the phase of the sweep record. -/
theorem exec_sweep_of_pass {s : State} {cx : Nat} {r : Running} (hturn : turnOf s cx 0x0401 = some r)
    (hcheck : sweepCheck s cx r.pkt false = none) :
    exec (.sweep cx) s = .next (whole s fun _ =>
      proceed (latchSeeds (noteAddresses s (r.pkt.at 64 2) r.pkt) (r.pkt.at 64 2) r) cx (r.pkt.at 64 2)) := by
  have hrow : exec (.sweep cx) s = execSweep cx s := rfl
  rw [hrow, execSweep]
  refine next_whole_congr ?_
  simp only [hturn, hcheck]

/-! ### SWEEP_RESUME (R231, R232) -/

/-- With ABANDON, a SWEEP_RESUME that passes its checks ends the round. -/
theorem exec_sweepResume_of_abandon {s : State} {cx : Nat} {r : Running} (hturn : turnOf s cx 0x0402 = some r)
    (hcheck : sweepCheck s cx r.pkt true = none) (habandon : bit (r.pkt.at 67 1) 0 = true) :
    exec (.sweepResume cx) s = .next (whole s fun _ =>
      awaitAcks (abandonRound (noteAddresses s (r.pkt.at 64 2) r.pkt) (r.pkt.at 64 2)).1 cx stDONE
        (abandonRound (noteAddresses s (r.pkt.at 64 2) r.pkt) (r.pkt.at 64 2)).2) := by
  have hrow : exec (.sweepResume cx) s = execSweepResume cx s := rfl
  rw [hrow, execSweepResume]
  refine next_whole_congr ?_
  simp only [hturn, hcheck, habandon, if_true]

/-- The state of a round that a SWEEP_RESUME takes up: the addresses are noted and the resume is counted (R231, R236). -/
def roundResumed (s : State) (n : Nat) (p : CmdPkt) : State :=
  modSet (noteAddresses s n p) n fun y => { y with sw := { y.sw with cResumes := y.sw.cResumes + 1 } }

/-- Without ABANDON the round goes on from its phase, which only DECIDE at NORM_SENT changes first (R231). -/
theorem exec_sweepResume_of_pass {s : State} {cx : Nat} {r : Running} {x : Pset} (hturn : turnOf s cx 0x0402 = some r)
    (hcheck : sweepCheck s cx r.pkt true = none) (hgoes : bit (r.pkt.at 67 1) 0 = false)
    (hset : setOf? s (r.pkt.at 64 2) = some x) :
    exec (.sweepResume cx) s = .next (whole s fun _ =>
      proceed (if (bit (r.pkt.at 67 1) 1 && x.sw.phase == .normSent) = true then
          hostDecision (roundResumed s (r.pkt.at 64 2) r.pkt) (r.pkt.at 64 2) r.pkt
        else roundResumed s (r.pkt.at 64 2) r.pkt) cx (r.pkt.at 64 2)) := by
  have hrow : exec (.sweepResume cx) s = execSweepResume cx s := rfl
  rw [hrow, execSweepResume]
  refine next_whole_congr ?_
  simp only [hturn, hcheck, hgoes, hset, Bool.false_eq_true, if_false, roundResumed, noteAddresses, setOf?_modSet_same,
    Option.map_some]

/-! ### Timeouts (R220) -/

/-- A SWEEP whose landing has not come in its ticks ends without effect, with how many consignments are not finalised. -/
theorem exec_sweepLandTimeout_of_expired {s : State} {cx t0 : Nat} {r : Running} {x : Pset} (hcmd : cmdOf? s cx = some r)
    (hphase : r.phase = .sweepLand t0) (hset : setOf? s (r.pkt.at 64 2) = some x) (htimed : r.pkt.at 68 4 ≠ 0)
    (hexpired : expired s t0 (r.pkt.at 68 4) = true) (hruns : hmRuns s = true) :
    exec (.sweepLandTimeout cx) s = .next (complete
      (putSet s (r.pkt.at 64 2) { x with sw := { x.sw with latch := none } }) cx stINCOMPLETE_LANDING
      ((List.range x.total).filter fun k => !x.finalised k).length) := by
  have hrow : exec (.sweepLandTimeout cx) s = execSweepLandTimeout cx s := rfl
  have hdue := And.intro htimed (And.intro hexpired hruns)
  rw [hrow, execSweepLandTimeout]
  simp only [hcmd, hphase, hset, if_pos hdue]

theorem exec_sweepNormTimeout_of_expired {s : State} {cx t0 : Nat} {r : Running} (hcmd : cmdOf? s cx = some r)
    (hphase : r.phase = .sweepNorm t0) (htimed : r.pkt.at 72 4 ≠ 0) (hexpired : expired s t0 (r.pkt.at 72 4) = true)
    (hruns : hmRuns s = true) : exec (.sweepNormTimeout cx) s = .next (complete s cx stTIMEOUT 0) := by
  have hrow : exec (.sweepNormTimeout cx) s = execSweepNormTimeout cx s := rfl
  have hdue := And.intro htimed (And.intro hexpired hruns)
  rw [hrow, execSweepNormTimeout]
  simp only [hcmd, hphase, if_pos hdue]

/-! ### LOSS_SCALE (R217) -/

/-- Between rounds a LOSS_SCALE within the bounds of its set writes the epoch word. -/
theorem exec_lossScale_of_pass {s : State} {cx : Nat} {r : Running} {x : Pset} (hturn : turnOf s cx 0x0403 = some r)
    (hclear : Clear r.pkt [(8, 23, 0)]) (hset : setOf? s (r.pkt.at 64 2) = some x) (hplain : x.isDispatch = false)
    (hmin : x.pr.lmin ≤ r.pkt.at 66 1) (hmax : r.pkt.at 66 1 ≤ x.pr.lmax) (hidle : x.sw.phase = .idle) :
    exec (.lossScale cx) s = .next (whole s fun _ => complete (writeEpoch s (r.pkt.at 64 2)
      (fun e => { e with ls := r.pkt.at 66 1, clean := 0 }) .scale) cx stDONE 0) := by
  have hrow : exec (.lossScale cx) s = execLossScale cx s := rfl
  have hwithin : (x.isDispatch || decide (r.pkt.at 66 1 < x.pr.lmin) || decide (x.pr.lmax < r.pkt.at 66 1)) = false := by
    simp [hplain, hmin, hmax]
  have hcheck := checkFail_none hclear (params := [(false, 8)]) (by simp) (List.forall_mem_nil _)
  rw [hrow, execLossScale]
  refine next_whole_congr ?_
  simp only [hturn, hset, hwithin, hcheck, hidle, bne_self_eq_false, Bool.false_eq_true, if_false]

/-- Settles O21: each clause is its row's equation; the clauses of SWEEP_RESUME differ in ABANDON, and in whether host software
decides a round at NORM_SENT. -/
theorem sweepCommandsComplete : Obligations.SweepCommandsComplete := by
  unfold Obligations.SweepCommandsComplete
  refine ⟨?sweep, ?abandon, ?resume, ?decide, ?landTimeout, ?normTimeout, ?scale⟩
  case sweep =>
    intro s cx r hturn hcheck
    exact exec_sweep_of_pass hturn hcheck
  case abandon =>
    intro s cx r hturn hcheck habandon
    exact exec_sweepResume_of_abandon hturn hcheck habandon
  case resume =>
    intro s cx r x hturn hcheck hgoes hset hundecided
    have hkept : ¬ (bit (r.pkt.at 67 1) 1 && x.sw.phase == .normSent) = true := by
      rw [Bool.and_eq_true, beq_iff_eq]
      rintro ⟨hdecide, hsent⟩
      rcases hundecided with h | h
      · exact Bool.false_ne_true (h.symm.trans hdecide)
      · exact h hsent
    rw [exec_sweepResume_of_pass hturn hcheck hgoes hset, if_neg hkept]
    rfl
  case decide =>
    intro s cx r x hturn hcheck hgoes hset hdecide hsent
    have hnamed : (bit (r.pkt.at 67 1) 1 && x.sw.phase == .normSent) = true := by
      rw [hdecide, hsent]
      rfl
    rw [exec_sweepResume_of_pass hturn hcheck hgoes hset, if_pos hnamed]
    rfl
  case landTimeout =>
    intro s cx t0 r x hcmd hphase hset htimed hexpired hruns
    exact exec_sweepLandTimeout_of_expired hcmd hphase hset htimed hexpired hruns
  case normTimeout =>
    intro s cx t0 r hcmd hphase htimed hexpired hruns
    exact exec_sweepNormTimeout_of_expired hcmd hphase htimed hexpired hruns
  case scale =>
    intro s cx r x hturn hclear hset hplain hmin hmax hidle
    exact exec_lossScale_of_pass hturn hclear hset hplain hmin hmax hidle

end Sys2Proof.Machine
end

section
/-!
PROOFS. The start of a norm exchange, and the timeouts of digest exchanges and recall holds (R213, R215, R341, R364).
-/
namespace Sys2Proof.Machine

open Sys2Proof

/-! ### NORM_EXCHANGE_START (R213, R215) -/

/-- What a set whose round has finished does at NORM_SENT: alone it decides on its own vector, and otherwise it sends the vector
to its root. -/
def normExchanged (s : State) (n : Nat) (x : Pset) : State :=
  let v := x.ownVector
  let nf := x.nonfinite + b2n v.2
  let s1 := advance (normSentState s n x) n
  if x.pr.localOnly ∨ countNum s = 1 then decideRound s1 n (vectorUnits v.1) nf
  else sendPacket s1 { hdr := { newHdr s1 tyNORM x.pr.root with len := 65 }, payload := normPayload v.1 nf n (x.ep.step + 1) }

/-- A round that is all final starts its norm exchange while the harbourmaster runs. -/
theorem exec_normExchangeStart_of_final {s : State} {n : Nat} {x : Pset} (hset : setOf? s n = some x)
    (hready : (!x.isDispatch && x.sw.phase == .idle && x.allFinal && !x.ep.expelled && !x.ep.disputed && hmRuns s) = true) :
    exec (.normExchangeStart n) s = .next (whole s fun _ => normExchanged s n x) := by
  have hrow : exec (.normExchangeStart n) s = execNormExchangeStart n s := rfl
  simp only [Bool.and_eq_true, Bool.not_eq_true', beq_iff_eq] at hready
  obtain ⟨⟨⟨⟨⟨hplain, hidle⟩, hfinal⟩, hmember⟩, hsettled⟩, hruns⟩ := hready
  rw [hrow, execNormExchangeStart]
  refine next_whole_congr ?_
  simp only [hset, hplain, hidle, hfinal, hmember, hsettled, hruns, bne_self_eq_false, Bool.not_true, Bool.or_self,
    Bool.false_eq_true, if_false, normExchanged]

/-! ### Timeouts (R341, R364) -/

theorem exec_digestExchangeTimeout_of_expired {s : State} {n : Nat} {x : Pset} (hclocks : clocksRun s = true)
    (hset : setOf? s n = some x) (hpending : x.pr.pending = true) (htimed : x.pr.digTimeout ≠ 0)
    (hexpired : expired s x.pr.pendTick (x.pr.digTimeout * 1024) = true) :
    exec (.digestExchangeTimeout n) s = .next (endMissing s n) := by
  have hrow : exec (.digestExchangeTimeout n) s = execDigestExchangeTimeout n s := rfl
  have hdue := Bool.and_eq_true_iff.2
    ⟨Bool.and_eq_true_iff.2 ⟨Bool.and_eq_true_iff.2 ⟨hclocks, hpending⟩, bne_iff_ne.2 htimed⟩, hexpired⟩
  rw [hrow, execDigestExchangeTimeout]
  simp only [hset, if_pos hdue]

theorem exec_recallHoldTimeout_of_expired {s : State} {n : Nat} {x : Pset} (hclocks : clocksRun s = true)
    (hset : setOf? s n = some x) (hheld : x.held = true) (htimed : fld s rInCheckCfg 63 40 ≠ 0)
    (hexpired : expired s x.heldTick (fld s rInCheckCfg 63 40 * 1024) = true) :
    exec (.recallHoldTimeout n) s = .next (endHold s n true) := by
  have hrow : exec (.recallHoldTimeout n) s = execRecallHoldTimeout n s := rfl
  have hdue := Bool.and_eq_true_iff.2
    ⟨Bool.and_eq_true_iff.2 ⟨Bool.and_eq_true_iff.2 ⟨hclocks, hheld⟩, bne_iff_ne.2 htimed⟩, hexpired⟩
  rw [hrow, execRecallHoldTimeout]
  simp only [hset, if_pos hdue]

/-- Settles O36: the exchange of a finished round is decided here or sent away, and each timer acts once it has run. -/
theorem roundEventsComplete : Obligations.RoundEventsComplete := by
  unfold Obligations.RoundEventsComplete
  refine ⟨?decided, ?sent, ?digest, ?hold⟩
  case decided =>
    intro s n x hset hready halone
    rw [exec_normExchangeStart_of_final hset hready, normExchanged]
    simp only [if_pos halone]
  case sent =>
    intro s n x hset hready hlocal hmany
    have hshared : ¬ (x.pr.localOnly = true ∨ countNum s = 1) := by simp [hlocal, hmany]
    rw [exec_normExchangeStart_of_final hset hready, normExchanged]
    simp only [if_neg hshared]
  case digest =>
    intro s n x hclocks hset hpending htimed hexpired
    exact exec_digestExchangeTimeout_of_expired hclocks hset hpending htimed hexpired
  case hold =>
    intro s n x hclocks hset hheld htimed hexpired
    exact exec_recallHoldTimeout_of_expired hclocks hset hheld htimed hexpired

end Sys2Proof.Machine
end

section
/-!
SUPPORT. More of what leaves the frame of a command's end: wakes, alerts, the writes of engines and what they bring about at the
beacons (R111, R113, R138, R316, R327, R386, R388, R414).
-/
namespace Sys2Proof.Machine

open Sys2Proof

namespace EndFrame

theorem sets {s t : State} (h : EndFrame s t) : t.sets = s.sets := congrArg Untouched.sets h.untouched

/-! ### Wakes, counts and alerts -/

theorem of_wakeQuay (s : State) (q : Nat) : EndFrame s (wakeQuay s q) := by
  rw [wakeQuay_eq]
  exact ⟨rfl, id⟩

theorem of_rouse (s : State) (e : Nat) : EndFrame s (rouse s e) := by
  rw [rouse_eq]
  exact ⟨rfl, id⟩

theorem of_noteFlush (s : State) (cl k : Nat) : EndFrame s (noteFlush s cl k) := by
  unfold noteFlush
  split
  · exact refl s
  · exact of_setFld s _ _ _ _

theorem of_alertEdge (s t : State) : EndFrame t (alertEdge s t) := by
  unfold alertEdge
  split
  · exact refl t
  · exact ⟨rfl, id⟩

theorem of_raiseAlert (s : State) (i : Nat) : EndFrame s (raiseAlert s i) := by
  unfold raiseAlert
  split
  · exact refl s
  · have hedge := (of_setFld s rHbAlert i i 1).trans (of_alertEdge s _)
    dsimp only
    split
    · exact hedge.trans ⟨rfl, id⟩
    · exact hedge

theorem of_completeAcked (s : State) (cx status lo refused : Nat) : EndFrame s (completeAcked s cx status lo refused) :=
  of_complete s cx status _

theorem of_putCmd (s : State) (cx : Nat) (r : Running) : EndFrame s (putCmd s cx r) := ⟨rfl, id⟩

/-! ### Reads and writes of engines -/

theorem of_readGrains (s : State) (l : List Nat) : EndFrame s (readGrains s l).1 := by
  induction l generalizing s with
  | nil => exact refl s
  | cons a l ih => exact (of_readGrain s a).trans (ih _)

theorem of_storeWord (s : State) (home : Nat) (c : Codeword) : EndFrame s (storeWord s home c) := by
  unfold storeWord
  split
  · exact of_holdWrite s _
  · exact of_storeOpen s home c

/-- A grain that a write covers in part is read first. -/
theorem of_writeGrainPart (s : State) (a off : Nat) (bs : List Byte) : EndFrame s (writeGrainPart s a off bs) := by
  unfold writeGrainPart
  dsimp only
  split
  · exact of_storeOpen s _ _
  · split
    · exact (of_readGrain s _).trans (of_storeOpen _ _ _)
    · exact (of_readGrain s _).trans (of_storeOpen _ _ _)

theorem of_writeBytesN (fuel : Nat) (s : State) (a : Nat) (bs : List Byte) : EndFrame s (writeBytesN fuel s a bs) := by
  induction fuel generalizing s a bs with
  | zero => exact refl s
  | succ fuel ih =>
    unfold writeBytesN
    split
    · exact refl s
    · exact (of_writeGrainPart s _ _ _).trans (ih _ _ _)

theorem of_writeBytes (s : State) (a : Nat) (bs : List Byte) : EndFrame s (writeBytes s a bs) := by
  unfold writeBytes
  split
  · exact of_holdWrite s _
  · exact of_writeBytesN _ s a bs

theorem of_beaconsWritten (s : State) (a k : Nat) : EndFrame s (beaconsWritten s a k) := by
  unfold beaconsWritten
  dsimp only
  split
  · exact of_settleTodo s _
  · exact refl s

end EndFrame

end Sys2Proof.Machine
end

section
/-!
SUPPORT. What the round of a set stands on through everything that follows the end of a round (R210, R216, R229): the epoch word
but for EXPELLED, DISPUTED, SKIPS and SEQ, and the sweep record once it is IDLE.
-/
namespace Sys2Proof.Machine

open Sys2Proof

/-- What R216 and R229 say of an epoch word: all of it but EXPELLED, DISPUTED, SKIPS and SEQ. -/
def Epoch.round (e : Epoch) : Epoch := { e with expelled := false, disputed := false, skips := 0, seq := 0 }

/-- A set stands where it stood in its round. -/
structure SameRound (x y : Pset) : Prop where
  word : y.ep.round = x.ep.round
  idle : x.sw.phase = .idle → y.sw.phase = .idle

/-- Set n stays resident and stands where it stood in its round. -/
def RoundKept (n : Nat) (s t : State) : Prop := ∀ x, setOf? s n = some x → ∃ y, setOf? t n = some y ∧ SameRound x y

/-- Adding to a consignment's tallies leaves the set's round (R181). -/
theorem sameRound_contribute (x : Pset) (k : Nat) (ws : List (Nat × List TWord)) : SameRound x (x.contribute k ws).1 :=
  ⟨rfl, id⟩

theorem sameRound_markZero (x : Pset) (k : Nat) : SameRound x (x.markZero k) := ⟨rfl, id⟩

/-- Changing consignments leaves the set's round. -/
theorem sameRound_foldl {f : Pset → Nat → Pset} (hf : ∀ x k, SameRound x (f x k)) (l : List Nat) (x : Pset) :
    SameRound x (l.foldl f x) := by
  induction l generalizing x with
  | nil => exact ⟨rfl, id⟩
  | cons k l ih => exact ⟨(ih _).word.trans (hf x k).word, (ih _).idle ∘ (hf x k).idle⟩

theorem sameRound_mapCons (x : Pset) (f : Consign → Consign) : SameRound x (x.mapCons f) :=
  sameRound_foldl (f := fun y k => y.setCon k (f (y.con k))) (fun _ _ => ⟨rfl, id⟩) _ x

/-! ### The epoch word (R210, R228) -/

/-- A journaled write leaves its set with the word that it writes. -/
theorem setOf?_writeEpoch_same {s : State} {m : Nat} {x : Pset} (hx : setOf? s m = some x) (f : Epoch → Epoch)
    (act : EpochAct) : setOf? (writeEpoch s m f act) m =
      some { x with ep := { f x.ep with seq := x.ep.seq + 1 }, sw := { x.sw with wholeCycle := act == .commit } } := by
  unfold writeEpoch
  simp only [hx]
  exact setOf?_putSet_same _ m _

theorem setOf?_writeEpoch_other {m n : Nat} (h : m ≠ n) (s : State) (f : Epoch → Epoch) (act : EpochAct) :
    setOf? (writeEpoch s m f act) n = setOf? s n := by
  have hwoken : setOf? (wakeQuay s (m % quays s.part)) n = setOf? s n :=
    congrArg (tget? · n) (EndFrame.of_wakeQuay s _).sets
  unfold writeEpoch
  split
  · rfl
  · exact (setOf?_putSet_other h _ _).trans hwoken

namespace RoundKept

variable {n : Nat}

/-! ### The frame -/

theorem of_sets {s t : State} (h : t.sets = s.sets) : RoundKept n s t :=
  fun x hx => ⟨x, (congrArg (tget? · n) h).trans hx, rfl, id⟩

theorem refl (s : State) : RoundKept n s s := of_sets rfl

theorem trans {s t u : State} (h : RoundKept n s t) (h' : RoundKept n t u) : RoundKept n s u := by
  intro x hx
  obtain ⟨y, hy, hxy⟩ := h x hx
  obtain ⟨z, hz, hyz⟩ := h' y hy
  exact ⟨z, hz, hyz.word.trans hxy.word, hyz.idle ∘ hxy.idle⟩

/-- The last step first: it names the state in between. -/
theorem after {s t u : State} (h' : RoundKept n t u) (h : RoundKept n s t) : RoundKept n s u := trans h h'

/-- What starts from a state with the same sets. -/
theorem from_sets {s t u : State} (h : RoundKept n t u) (hsets : t.sets = s.sets) : RoundKept n s u :=
  trans (of_sets hsets) h

/-- What ends in a state with the same sets. -/
theorem with_sets {s t u : State} (h : RoundKept n s t) (hsets : u.sets = t.sets) : RoundKept n s u :=
  trans h (of_sets hsets)

theorem of_endFrame {s t : State} (h : EndFrame s t) : RoundKept n s t := of_sets h.sets

theorem of_bump (s : State) (off hi lo k : Nat) : RoundKept n s (bump s off hi lo k) :=
  of_endFrame (EndFrame.of_bump s off hi lo k)

theorem of_writeBytes (s : State) (a : Nat) (bs : List Byte) : RoundKept n s (writeBytes s a bs) :=
  of_endFrame (EndFrame.of_writeBytes s a bs)

theorem foldl {α : Type} {f : State → α → State} (hf : ∀ s a, RoundKept n s (f s a)) (l : List α) (s : State) :
    RoundKept n s (l.foldl f s) := by
  induction l generalizing s with
  | nil => exact refl s
  | cons a l ih => exact (hf s a).trans (ih _)

theorem of_putSet {s : State} {m : Nat} {x y : Pset} (hx : setOf? s m = some x) (hxy : SameRound x y) :
    RoundKept n s (putSet s m y) := by
  intro z hz
  rw [setOf?_putSet]
  split
  · next heq =>
    subst heq
    rw [hx] at hz
    exact ⟨y, rfl, Option.some.inj hz ▸ hxy⟩
  · exact ⟨z, hz, rfl, id⟩

theorem of_modSet (s : State) (m : Nat) {f : Pset → Pset} (hf : ∀ x, SameRound x (f x)) : RoundKept n s (modSet s m f) := by
  unfold modSet
  split
  · next hx => exact of_putSet hx (hf _)
  · exact refl s

theorem of_writeEpoch_other {m : Nat} (h : m ≠ n) (s : State) (f : Epoch → Epoch) (act : EpochAct) :
    RoundKept n s (writeEpoch s m f act) :=
  fun x hx => ⟨x, (setOf?_writeEpoch_other h s f act).trans hx, rfl, id⟩

/-- A journaled write that leaves the word's round. -/
theorem of_writeEpoch (s : State) (m : Nat) {f : Epoch → Epoch} (act : EpochAct) (hf : ∀ e, (f e).round = e.round) :
    RoundKept n s (writeEpoch s m f act) := by
  intro x hx
  by_cases h : m = n
  · subst h
    exact ⟨_, setOf?_writeEpoch_same hx f act, hf x.ep, id⟩
  · exact of_writeEpoch_other h s f act x hx

/-! ### Ports, packets and sources -/

theorem of_leave (s : State) (e : Egress) : RoundKept n s (leave s e) := by
  refine of_sets ?_
  unfold leave
  dsimp only
  split <;> rfl

theorem of_sendOne (s : State) (p : Nat) (ch : Channel) : RoundKept n s (sendOne s p ch) := by
  unfold sendOne
  dsimp only
  split
  · exact refl s
  · split
    · exact refl s
    · exact from_sets (of_leave _ _) rfl

theorem of_pumpOne (s : State) (p : Nat) (done : Credits) : RoundKept n s (pumpOne s p done).1 := by
  unfold pumpOne
  split
  · exact of_sendOne s p _
  · split
    · exact refl s
    · dsimp only
      split
      · exact of_sets rfl
      · exact from_sets (of_sendOne _ p _) rfl

theorem of_pump (s : State) (p : Nat) (done : Credits) (fuel : Nat) : RoundKept n s (pump s p done fuel) := by
  induction fuel generalizing s done with
  | zero => exact refl s
  | succ fuel ih => exact (of_pumpOne s p done).trans (ih _ _)

theorem of_sendPort (s : State) (p : Nat) (ch : Channel) (m : PortMsg) : RoundKept n s (sendPort s p ch m) :=
  from_sets (of_pump _ p _ _) rfl

theorem of_pilotPort (s : State) (port engine : Nat) (m : BitVec 128) : RoundKept n s (pilotPort s port engine m) := by
  unfold pilotPort
  split
  · exact of_sendPort s port _ _
  · exact refl s

theorem of_sendPacket (s : State) (p : Packet) : RoundKept n s (sendPacket s p) := by
  refine of_sets ?_
  unfold sendPacket
  split
  · split <;> rfl
  · split <;> rfl

theorem of_countSent (s : State) (source k : Nat) : RoundKept n s (countSent s source k) := by
  refine of_sets ?_
  unfold countSent
  dsimp only
  split <;> rfl

theorem of_sendCounted (s : State) (p : Packet) : RoundKept n s (sendCounted s p) :=
  (of_countSent s _ _).trans (of_sendPacket _ p)

theorem of_sendWrites (fuel : Nat) (s : State) (src dest a : Nat) (ws : List Codeword) :
    RoundKept n s (sendWrites fuel s src dest a ws) := by
  induction fuel generalizing s a ws with
  | zero => exact refl s
  | succ fuel ih =>
    unfold sendWrites
    split
    · exact refl s
    · exact (of_sendCounted s _).trans (ih _ _ _)

theorem of_sendAck (s : State) (h : PktHdr) (status : Nat) : RoundKept n s (sendAck s h status) := of_sendPacket s _

theorem of_refusePkt (s : State) (h : PktHdr) (status : Nat) : RoundKept n s (refusePkt s h status) := by
  unfold refusePkt
  dsimp only
  split
  · exact (of_bump s _ _ _ _).trans (of_sendAck _ h status)
  · exact of_sendAck s h status

/-! ### Commands that wait for acknowledgements (R102) -/

theorem of_tryAcked (s : State) (cx : Nat) : RoundKept n s (tryAcked s cx) := by
  unfold tryAcked
  split
  · exact refl s
  · split
    · split
      · split
        · exact from_sets (of_endFrame (EndFrame.of_complete (ringDone s _) cx _ _)) rfl
        · exact of_endFrame (EndFrame.of_complete s cx _ _)
      · exact refl s
    · exact refl s

theorem of_awaitAcks (s : State) (cx status lo : Nat) : RoundKept n s (awaitAcks s cx status lo) := by
  unfold awaitAcks
  split
  · exact refl s
  · exact (of_endFrame (EndFrame.of_putCmd s cx _)).trans (of_tryAcked _ cx)

theorem of_endSweepCmd (s : State) (m status result : Nat) : RoundKept n s (endSweepCmd s m status result) := by
  unfold endSweepCmd
  split
  · exact from_sets (of_awaitAcks _ _ status result) rfl
  · exact refl s

/-! ### Blocks and status writes of pushes and subscriptions (R268, R270, R273) -/

theorem of_touchCtx (s : State) (m : Nat) : RoundKept n s (touchCtx s m) := by
  unfold touchCtx
  split
  · exact of_sets rfl
  · dsimp only
    split
    · exact from_sets (of_bump _ _ _ _ _) rfl
    · exact of_sets rfl

theorem of_deliver (s : State) (src : Nat) (place : ExpPlace) (i epoch : Nat) (body : List Byte) (tr : Grain) :
    RoundKept n s (deliver s src place i epoch body tr) := by
  have hroused : RoundKept n s (rouse s 0x32) := of_endFrame (EndFrame.of_rouse s _)
  unfold deliver
  dsimp only
  split
  · exact hroused.trans (of_writeBytes _ _ _)
  · exact hroused.trans ((of_sendWrites _ _ _ _ _ _).trans (of_sets rfl))
  · exact hroused

/-- A served block is counted in its set's sweep record. -/
theorem of_serveBlock (s : State) (ftz : Bool) (src : Nat) (dst : ExpPlace) (r : ExpRange) (i epoch : Nat) (cleared : Bool) :
    RoundKept n s (serveBlock s ftz src dst r i epoch cleared) := by
  unfold serveBlock
  split
  · exact refl s
  · have hcounted : ∀ k, RoundKept n s (modSet s r.pset fun y => { y with sw := { y.sw with cFlush := y.sw.cFlush + k } }) :=
      fun k => of_modSet s r.pset fun x => ⟨rfl, id⟩
    exact (hcounted _).trans ((of_endFrame (EndFrame.of_noteFlush _ _ _)).trans
      (from_sets (of_deliver _ _ _ _ _ _ _) rfl))

theorem of_serveBlocks (s : State) (ftz : Bool) (src : Nat) (dst : ExpPlace) (r : ExpRange) (l : List Nat) (epoch : Nat)
    (cleared : Bool) : RoundKept n s (serveBlocks s ftz src dst r l epoch cleared) := by
  unfold serveBlocks
  split
  · exact refl s
  · exact (of_touchCtx s _).trans (foldl (fun s i => of_serveBlock s _ _ _ _ i _ _) _ _)

theorem of_pushAhead (s : State) (cx : Nat) (l : List Nat) (epoch : Nat) (cleared : Bool) :
    RoundKept n s (pushAhead s cx l epoch cleared) := by
  unfold pushAhead
  split
  · exact refl s
  · split
    · exact (of_serveBlocks s _ _ _ _ _ _ _).trans (of_endFrame (EndFrame.of_putCmd _ cx _))
    · exact refl s

theorem of_endPush (s : State) (cx status : Nat) : RoundKept n s (endPush s cx status) := by
  unfold endPush
  split
  · exact refl s
  · exact of_awaitAcks s cx status _

theorem of_writeStatus (s : State) (k : Nat) : RoundKept n s (writeStatus s k) := by
  unfold writeStatus
  split
  · exact refl s
  · split
    · split
      · exact of_writeBytes s _ _
      · exact refl s
    · split
      · exact refl s
      · exact of_sendCounted s _
    · exact refl s

theorem of_statusDue (s : State) (k : Nat) (epoch : Word) : RoundKept n s (statusDue s k epoch) := by
  unfold statusDue
  split
  · exact refl s
  · exact from_sets (of_writeStatus (putSub s k _) k) rfl

theorem of_subPush (s : State) (k : Nat) (l : List Nat) (epoch : Nat) (cleared : Bool) :
    RoundKept n s (subPush s k l epoch cleared) := by
  unfold subPush
  split
  · exact refl s
  · split
    · exact refl s
    · split
      · exact refl s
      · exact from_sets (of_serveBlocks (putSub s k _) _ _ _ _ _ _ _) rfl

theorem of_subDone (s : State) (k epoch : Nat) : RoundKept n s (subDone s k epoch) := by
  unfold subDone
  split
  · exact of_sets rfl
  · exact of_statusDue s k _

/-! ### Pushes and subscriptions at the end of a round (R226, R232, R271, R273) -/

/-- The pushes of the new epoch end, and each subscription gets the rest of its range. -/
theorem of_exportCommit (s : State) (m : Nat) : RoundKept n s (exportCommit s m) := by
  unfold exportCommit
  split
  · exact refl s
  · refine (foldl (fun s a => ?push) _ s).trans (foldl (fun s k => ?subscription) _ _)
    case push => exact (of_pushAhead s _ _ _ _).trans (of_endPush _ _ _)
    case subscription =>
      split
      · exact refl s
      · dsimp only
        split
        · exact (of_subPush s k _ _ _).trans (from_sets (of_subDone (putSub _ k _) k _) rfl)
        · exact of_subPush s k _ _ _

theorem of_exportStop (s : State) (m : Nat) : RoundKept n s (exportStop s m) := by
  refine foldl (fun s a => ?_) _ s
  exact from_sets (of_endFrame (EndFrame.of_completeAcked _ _ _ _ _)) rfl

theorem of_dropAhead (s : State) (m : Nat) : RoundKept n s (dropAhead s m) := by
  refine foldl (fun s k => ?_) _ s
  split
  · exact of_sets rfl
  · exact refl s

/-! ### Recalls (R275, R276) -/

theorem of_sendRecall (s : State) (k : Nat) (u : Sub) (m : BitVec 128) : RoundKept n s (sendRecall s k u m) := by
  have hnoted : ∀ t : State, RoundKept n t
      (writeStatus (putSub (bump { t with snap := { t.snap with recalls := t.snap.recalls + 1 } } rExStat 15 0 1) k
        { u with recalls := u.recalls + 1 }) k) :=
    fun t => from_sets ((of_bump _ _ _ _ _).trans (from_sets (of_writeStatus (putSub _ k _) k) rfl)) rfl
  unfold sendRecall
  dsimp only
  split
  · exact (of_pilotPort s _ _ _).trans (hnoted _)
  · exact (of_sendPacket s _).trans (hnoted _)
  · exact hnoted s

/-- A recall counts the consignment's reissue and tells whom its blocks have reached. -/
theorem of_recallCon (s : State) (m c : Nat) : RoundKept n s (recallCon s m c) := by
  unfold recallCon
  split
  · exact refl s
  · next x hx =>
    have hcounted : RoundKept n (cancelPushes s m c x)
        (putSet (cancelPushes s m c x) m (x.setCon c { x.con c with reissue := (x.con c).reissue + 1 })) :=
      of_putSet hx ⟨rfl, id⟩
    refine from_sets (hcounted.trans ((foldl (fun s k => ?subscription) _ _).trans (foldl (fun s a => ?push) _ _))) rfl
    case subscription =>
      split
      · dsimp only
        split
        · exact refl s
        · exact of_sendRecall s k _ _
      · exact refl s
    case push =>
      split
      · split
        · exact of_endFrame (EndFrame.of_putCmd s _ _)
        · exact refl s
      · exact refl s

theorem of_recallServed (s : State) (m k : Nat) : RoundKept n s (recallServed s m k) :=
  (of_recallCon s m k).trans ((of_bump _ _ _ _ _).trans (of_modSet _ m fun _ => ⟨rfl, id⟩))

/-- A swept consignment is staged anew from the active slip (R232). -/
theorem of_unstageCon (s : State) (m k : Nat) : RoundKept n s (unstageCon s m k) := by
  have hserved : RoundKept n s (if servedAhead s m k then recallServed s m k else s) := by
    split
    · exact of_recallServed s m k
    · exact refl s
  refine hserved.trans ?_
  unfold unstageCon
  dsimp only
  generalize (if servedAhead s m k then recallServed s m k else s) = t
  split
  · exact refl t
  · next x hx =>
    refine (of_putSet hx ?_).trans (of_endFrame (EndFrame.of_noteFlush _ _ _))
    exact ⟨rfl, id⟩

end RoundKept

end Sys2Proof.Machine
end

section
/-!
SUPPORT. What the landing engine performs for a packet leaves the round of every set (R103, R104, R174-R177, R181-R183,
R197-R199).
-/
namespace Sys2Proof.Machine

open Sys2Proof

/-- An attempt leaves what it does, or the wakes it has started. -/
theorem attempt_cases (s : State) (f : State → State) :
    (attempt s f).1 = f s ∨ (attempt s f).1 = keepWakes s (f s) := (whole_cases s f).imp And.right And.right

namespace RoundKept

variable {n : Nat}

/-! ### Landed writes and their notices (R109, R147) -/

theorem of_poisonRange (s : State) (a k : Nat) : RoundKept n s (poisonRange s a k) :=
  foldl (fun _ _ => of_endFrame (EndFrame.of_storeWord _ _ _)) _ s

/-- A grain of a descriptor's window is converted into its tensor. -/
theorem of_cosWriteGrain (s : State) (k : Nat) (d : TDesc) (home : Nat) (w : Codeword) :
    RoundKept n s (cosWriteGrain s k d home w) := by
  have hconverted : ∀ (a b fl : Nat) (bs cs : List Byte) (e : TDesc), RoundKept n s
      (noteFlush { writeBytes (writeBytes s a bs) b cs with
        tds := tset (writeBytes (writeBytes s a bs) b cs).tds k e } clTug fl) :=
    fun a b fl bs cs e => (of_writeBytes s a bs).trans ((of_writeBytes _ b cs).trans
      (from_sets (of_endFrame (EndFrame.of_noteFlush _ _ _)) rfl))
  unfold cosWriteGrain
  dsimp only
  split
  · exact refl s
  · split
    · exact of_poisonRange s _ _
    · exact of_poisonRange s _ _
    · split
      · exact (hconverted _ _ _ _ _ _).trans (foldl (fun t bs => of_writeBytes t _ bs) _ _)
      · exact hconverted _ _ _ _ _ _

theorem of_writeGrains (s : State) (a : Nat) (ws : List Codeword) : RoundKept n s (writeGrains s a ws) := by
  induction ws generalizing s a with
  | nil => exact refl s
  | cons c ws ih =>
    refine trans ?_ (ih (writeGrain s a c) (a + 32))
    unfold writeGrain
    dsimp only
    split
    · exact of_cosWriteGrain s _ _ _ c
    · exact of_endFrame (EndFrame.of_storeWord s _ c)

theorem of_sendNotice (s : State) (w a k : Nat) (sub : Nat × Nat) : RoundKept n s (sendNotice s w a k sub).1 := by
  unfold sendNotice
  dsimp only
  split
  · split
    · exact of_sets rfl
    · exact refl s
  · exact of_sendPort s _ _ _

theorem of_watchNotices (s : State) (w : Nat) (x : Watch) (a k : Nat) : RoundKept n s (watchNotices s w x a k) := by
  have hsent : ∀ (l : List (Nat × Nat)) (p : State × Nat), RoundKept n p.1 (l.foldl (fun (p : State × Nat) sub =>
      ((sendNotice p.1 w a k sub).1, p.2 + b2n (sendNotice p.1 w a k sub).2)) p).1 := by
    intro l
    induction l with
    | nil => exact fun p => refl p.1
    | cons sub l ih =>
      intro p
      exact (of_sendNotice p.1 w a k sub).trans
        (ih ((sendNotice p.1 w a k sub).1, p.2 + b2n (sendNotice p.1 w a k sub).2))
  exact (hsent x.subs (s, 0)).trans (of_sets rfl)

theorem of_noticeAt (s : State) (a k : Nat) : RoundKept n s (noticeAt s a k) := by
  refine foldl (fun s e => ?_) _ s
  split
  · exact of_watchNotices s _ _ _ _
  · exact refl s

theorem of_landWrite (s : State) (a : Nat) (ws : List Codeword) : RoundKept n s (landWrite s a ws) :=
  (of_writeGrains s a ws).trans ((of_endFrame (EndFrame.of_beaconsWritten _ a _)).trans (of_noticeAt _ a _))

/-! ### Acknowledgements and FINAL writes (R103, R104, R171, R177) -/

theorem of_refuse (s : State) (h : PktHdr) (status : Nat) : RoundKept n s (refuse s h status) := by
  unfold refuse
  split
  · exact refl s
  · exact of_refusePkt s h status

theorem of_ackOk (s : State) (h : PktHdr) : RoundKept n s (ackOk s h) := by
  unfold ackOk
  dsimp only
  split
  · exact of_sets rfl
  · exact from_sets (of_sendAck _ h _) rfl

theorem of_performFinal (s : State) (p : Packet) (ok : Bool) : RoundKept n s (performFinal s p ok) := by
  unfold performFinal
  dsimp only
  split
  · exact of_refuse s _ _
  · exact (of_landWrite s _ _).trans (of_ackOk _ _)

/-- What is attempted happens, or leaves nothing but wakes. -/
theorem of_attempt {s : State} {f : State → State} (hf : RoundKept n s (f s)) : RoundKept n s (attempt s f).1 := by
  rcases attempt_cases s f with hdone | hheld
  · rwa [hdone]
  · rw [hheld]
    exact of_sets (keepWakes_sets s (f s))

theorem of_dueFinal (s : State) (e : AnchEntry) (ok : Bool) : RoundKept n s (dueFinal s e ok) := by
  unfold dueFinal
  split
  · exact of_sets rfl
  · next p _ =>
    have htried : RoundKept n s (if landBlocked s p.target (32 * p.hdr.len) then (s, false)
        else attempt s fun t => performFinal (dropEntry t e.id) p ok).1 := by
      split
      · exact refl s
      · exact of_attempt (from_sets (of_performFinal (dropEntry s e.id) p ok) rfl)
    dsimp only
    generalize (if landBlocked s p.target (32 * p.hdr.len) then (s, false)
      else attempt s fun t => performFinal (dropEntry t e.id) p ok) = r at htried ⊢
    split
    · exact htried
    · exact htried.trans (of_sets rfl)

theorem of_runFinals (s : State) (m g : Nat) (ok : Bool) : RoundKept n s (runFinals s m g ok) :=
  foldl (fun s e => of_dueFinal s e ok) _ s

/-! ### Manifests (R174, R176) -/

theorem of_closeMan (s : State) (m : Nat) (x : Manifest) : RoundKept n s (closeMan s m x) := by
  unfold closeMan
  split
  · exact of_sets rfl
  · exact from_sets (of_runFinals (setMan s m _) m _ _) rfl

theorem of_countLanded (s : State) (m k : Nat) : RoundKept n s (countLanded s m k) := by
  unfold countLanded
  dsimp only
  split
  · exact refl s
  · split
    · exact from_sets (of_closeMan (noteMan s m _) m _) rfl
    · exact of_sets rfl

theorem of_countUnnamed (s : State) (a k : Nat) : RoundKept n s (countUnnamed s a k) := by
  refine foldl (fun s e => ?_) _ s
  dsimp only
  split
  · exact of_countLanded s _ _
  · exact refl s

/-! ### The anchorage and tokens (R186, R197-R199) -/

theorem noteHigh_sets (s : State) : (noteHigh s).sets = s.sets := by
  unfold noteHigh
  split
  · exact setFld_sets s _ _ _ _
  · rfl

theorem of_addEntry (s : State) (kind : AnchKind) (man gen addr grains : Nat) (pkt : Option Packet) :
    RoundKept n s (addEntry s kind man gen addr grains pkt) := by
  refine of_sets ?_
  rw [addEntry, noteHigh_sets]

theorem of_writeLading (s : State) (x : Manifest) (t : OpenTok) (incomplete : Bool) :
    RoundKept n s (writeLading s x t incomplete) := of_endFrame (EndFrame.of_storeGrain s _ _)

/-- Dropped and spilled tokens are counted in the set of their manifest. -/
theorem of_countTok (s : State) (x : Manifest) (place : TokPlace) : RoundKept n s (countTok s x place) := by
  unfold countTok
  split
  · exact refl s
  · dsimp only
    split
    · exact of_bump s _ _ _ _
    · exact (of_bump s _ _ _ _).trans (of_modSet _ _ fun _ => ⟨rfl, id⟩)
  · dsimp only
    split
    · exact of_bump s _ _ _ _
    · exact (of_bump s _ _ _ _).trans (of_modSet _ _ fun _ => ⟨rfl, id⟩)

theorem spillPlace_sets (s : State) (k : Nat) : (spillPlace s k).1.sets = s.sets := by
  unfold spillPlace
  split
  · rfl
  · dsimp only
    split <;> rfl

theorem of_openToken {s t : State} {m : Nat} {x : Manifest} {p : Packet} {h : TokHdr} {tok : OpenTok}
    (hopened : openToken s m x p h = some (t, tok)) : RoundKept n s t := by
  have hplaced := spillPlace_sets s (x.twidth + 1)
  rcases hplace : spillPlace s (x.twidth + 1) with ⟨s1, place⟩
  rw [hplace] at hplaced
  simp only [openToken, hplace] at hopened
  split at hopened
  · cases hopened
    exact of_sets rfl
  · split at hopened
    · cases hopened
      exact from_sets (of_countTok (setMan s m _) x _) rfl
    · split at hopened
      · next heq =>
        cases heq
        cases hopened
        exact from_sets ((of_addEntry _ _ _ _ _ _ _).trans (from_sets (of_countTok (setMan _ m _) x _) rfl)) hplaced
      · cases hopened

theorem of_placePart (s : State) (x : Manifest) (t : OpenTok) (h : TokHdr) (ws : List Codeword) :
    RoundKept n s (placePart s x t h ws) := by
  unfold placePart
  split
  · exact of_landWrite s _ ws
  · exact refl s
  · exact of_writeGrains s _ ws

theorem of_settleToken (s : State) (x : Manifest) (t : OpenTok) : RoundKept n s (settleToken s x t) := by
  unfold settleToken
  split
  · exact of_writeLading s x t false
  · exact of_sets rfl

/-! ### Contributions (R181) -/

theorem of_tallyNotices (s : State) (m : Nat) (x : Pset) (k : Nat) (parcels : List Nat) :
    RoundKept n s (tallyNotices s m x k parcels) := by
  unfold tallyNotices
  split
  · exact refl s
  · exact foldl (fun s j => of_noticeAt s _ _) _ s

/-- A contribution adds to the tallies of one consignment. -/
theorem of_addContrib {s : State} {p : Packet} {x : Pset} (hx : setOf? s p.hdr.tallySet = some x) :
    RoundKept n s (addContrib s p x) := by
  have hroused : EndFrame s (bump (rouse (wakeQuay s (homeQuay s p.hdr.consign)) (0x10 + homeQuay s p.hdr.consign))
      (rInEccStat (homeQuay s p.hdr.consign)) 47 32 (x.tallyBad p.hdr.consign ((contribWords p).map (·.1)))) :=
    ((EndFrame.of_wakeQuay s _).trans (EndFrame.of_rouse _ _)).trans (EndFrame.of_bump _ _ 47 32 _)
  have hfound := (congrArg (tget? · p.hdr.tallySet) hroused.sets).trans hx
  exact (of_endFrame hroused).trans ((of_putSet hfound (sameRound_contribute x _ _)).trans
    ((of_bump _ _ _ _ _).trans (from_sets (of_tallyNotices _ _ x _ _) rfl)))

end RoundKept

/-! ### Bulk packets (R174, R175, R177, R183, R197) -/

/-- Where a packet is dealt with, the round of set n is kept. -/
def Landed.RoundKept (n : Nat) (s : State) : Landed → Prop
  | .done t => Machine.RoundKept n s t
  | .stall _ => True

namespace RoundKept

variable {n : Nat}

theorem of_park (s : State) (p : Packet) (g : Nat) : (park s p g).RoundKept n s := by
  unfold park
  split
  · exact of_addEntry s _ _ _ _ _ _
  · trivial

theorem of_notOpen (s : State) (p : Packet) (c : GenCase) : (notOpen s p c).RoundKept n s := by
  cases c with
  | newer => exact of_park s p _
  | failed | finalising | opened | closed | older => exact of_refuse s _ _

theorem of_landPlain (s : State) (p : Packet) : (landPlain s p).RoundKept n s := by
  -- Unfolded at its arguments, the match on the target's fault would have the kernel evaluate it for a target it does not know.
  generalize hplain : landPlain = f
  delta landPlain at hplain
  subst hplain
  dsimp only
  split
  · exact of_refuse s _ _
  · split
    · split
      · split
        · exact of_refuse s _ _
        · split
          · trivial
          · exact (of_landWrite s _ _).trans ((of_countLanded _ _ _).trans (of_ackOk _ _))
      · exact of_notOpen s p _
    · split
      · trivial
      · exact (of_landWrite s _ _).trans ((of_countUnnamed _ _ _).trans (of_ackOk _ _))

theorem of_landFinal (s : State) (p : Packet) : (landFinal s p).RoundKept n s := by
  have hkept : ∀ g, Landed.RoundKept n s
      (if anchFits s p.grains then .done (addEntry s .finalHeld p.hdr.manifest g 0 p.grains (some p)) else .stall true) := by
    intro g
    split
    · exact of_addEntry s _ _ _ _ _ _
    · trivial
  have hperformed : ∀ ok, Landed.RoundKept n s
      (if landBlocked s p.target (32 * p.hdr.len) then .stall false else .done (performFinal s p ok)) := by
    intro ok
    split
    · trivial
    · exact of_performFinal s p ok
  unfold landFinal
  dsimp only
  split
  · exact hkept _
  · exact hkept _
  · exact of_park s p _
  · exact hperformed true
  · exact hperformed false
  · exact of_refuse s _ _

theorem of_landWritePkt (s : State) (p : Packet) : (landWritePkt s p).RoundKept n s := by
  unfold landWritePkt
  split
  · exact of_refuse s _ _
  · split
    · exact of_landFinal s p
    · exact of_landPlain s p

/-- A part of a token is placed, and its token is settled. -/
theorem of_landPart (s : State) (m : Nat) (x : Manifest) (p : Packet) (h : TokHdr) : (landPart s m x p h).RoundKept n s := by
  have hput : ∀ (t : State) (y z : Manifest) (o o' : OpenTok) (toks : List OpenTok), RoundKept n t
      (ackOk (countLanded (settleToken { placePart t y o h (p.words.drop 1) with
        land := { (placePart t y o h (p.words.drop 1)).land with openToks := toks } } z o') m (32 * p.hdr.len)) p.hdr) :=
    fun t y z o o' toks => (of_placePart t y o h _).trans
      (from_sets ((of_settleToken _ z o').trans ((of_countLanded _ m _).trans (of_ackOk _ p.hdr))) rfl)
  unfold landPart
  dsimp only
  cases s.land.openToks.find? fun t => t.isOf m x.gen p.hdr.orig h.index with
  | some o =>
    dsimp only
    split
    · trivial
    · exact hput s _ _ o _ _
  | none =>
    dsimp only
    split
    · trivial
    · split
      · trivial
      · split
        · next hopened => exact (of_openToken hopened).trans (hput _ _ _ _ _ _)
        · trivial

theorem of_landToken (s : State) (p : Packet) : (landToken s p).RoundKept n s := by
  unfold landToken
  split
  · exact of_refuse s _ _
  · split
    · split
      · exact of_refuse s _ _
      · exact of_landPart s _ _ p _
    · exact of_notOpen s p _

theorem of_landContrib (s : State) (p : Packet) : (landContrib s p).RoundKept n s := by
  unfold landContrib
  dsimp only
  split
  · exact of_refuse s _ _
  · split
    · exact of_refuse s _ _
    · next hx =>
      split
      · exact of_refuse s _ _
      · split
        · exact of_refuse s _ _
        · split
          · split
            · exact of_refuse s _ _
            · split
              · split
                · exact of_addEntry s _ _ _ _ _ _
                · trivial
              · exact (of_addContrib hx).trans ((of_countLanded _ _ _).trans (of_ackOk _ _))
          · exact of_notOpen s p _

theorem of_landBulk (s : State) (p : Packet) : (landBulk s p).RoundKept n s := by
  unfold landBulk
  split
  · exact of_landToken s p
  · split
    · exact of_landContrib s p
    · exact of_landWritePkt s p

/-! ### What waits for a release (R182, R183) -/

theorem of_performOne (s : State) (w : Released) : RoundKept n s (performOne s w) := by
  cases w with
  | contrib e =>
    unfold performOne
    dsimp only
    split
    · next hlanded =>
      obtain ⟨p, -, hdone⟩ := Option.map_eq_some_iff.1 hlanded
      have hkept : (landBulk (dropEntry s e.id) p).RoundKept n (dropEntry s e.id) := of_landBulk _ p
      rw [hdone] at hkept
      exact from_sets hkept rfl
    · exact refl s
  | zero m first count => exact of_modSet s m (sameRound_foldl sameRound_markZero _)

theorem of_performReleased (s : State) (m : Nat) : RoundKept n s (performReleased s m) :=
  from_sets (foldl of_performOne _ _) rfl

end RoundKept

end Sys2Proof.Machine
end

section
/-!
PROOFS. The commit of a set (R216, R228-R230): the epoch word that it writes, and that nothing which follows it writes that word
again, the judgement of replicas among it (R363-R366).
-/
namespace Sys2Proof.Machine

open Sys2Proof

/-- The set that a report leaves: its sweep record has ended. -/
def reported (x y : Pset) : Pset := { y with sw := y.sw.ended x.sw.report.isNone, drops := 0, spills := 0 }

namespace RoundKept

variable {n : Nat}

/-! ### What a round's end brings with it -/

/-- The release empties the round's buckets and performs what waited for it. -/
theorem of_releaseRound (s : State) (m : Nat) : RoundKept n s (releaseRound s m) :=
  after (of_performReleased _ m) (of_modSet s m fun _ => ⟨rfl, id⟩)

theorem of_turnTd (s : State) (k : Nat) : RoundKept n s (turnTd s k) := by
  unfold turnTd
  split
  · exact refl s
  · dsimp only
    split
    · exact from_sets (of_writeBytes _ _ _) rfl
    · exact of_sets rfl

theorem of_turnSet (s : State) (m : Nat) : RoundKept n s (turnSet s m) :=
  foldl (f := fun s (e : Nat × TDesc) => turnTd s e.1) (fun s e => of_turnTd s e.1) _ s

theorem of_freeCrane (s : State) (m : Nat) : RoundKept n s (freeCrane s m) := by
  refine of_sets ?_
  unfold freeCrane
  split <;> rfl

theorem of_writeReport_ended {s : State} {m : Nat} {y : Pset} (hy : setOf? s m = some y) (x : Pset) (how : RoundEnd) :
    RoundKept n (putSet s m (reported x y)) (writeReport s m x how) := by
  unfold writeReport
  simp only [hy]
  split
  · exact refl _
  · refine (of_writeBytes _ _ _).after ?_
    split
    · split
      · exact of_writeBytes _ _ _
      · exact refl _
    · exact refl _

theorem of_writeReport (s : State) (m : Nat) (x : Pset) (how : RoundEnd) : RoundKept n s (writeReport s m x how) := by
  cases hy : setOf? s m with
  | none =>
    unfold writeReport
    simp only [hy]
    exact refl s
  | some y => exact (of_writeReport_ended hy x how).after (of_putSet hy ⟨rfl, fun _ => rfl⟩)

/-! ### Digests (R363, R364) -/

theorem of_endMissing (s : State) (m : Nat) : RoundKept n s (endMissing s m) := by
  refine of_modSet s m fun x => ?_
  split
  · exact ⟨rfl, id⟩
  · exact ⟨rfl, id⟩

theorem of_sendDigest (s : State) (m step : Nat) : RoundKept n s (sendDigest s m step) := by
  unfold sendDigest
  split
  · exact refl s
  · split
    · exact refl s
    · refine (foldl (fun s r => of_sendCounted s _) _ _).after ?_
      refine (of_endFrame ((EndFrame.of_storeGrain _ _ _).trans (EndFrame.of_beaconsWritten _ _ _))).after ?_
      exact after (of_modSet _ m fun _ => ⟨rfl, id⟩) (of_endMissing s m)

theorem of_commitDigest (s : State) (m : Nat) (x : Pset) : RoundKept n s (commitDigest s m x) := by
  unfold commitDigest
  dsimp only
  split
  · exact refl s
  · exact (of_sendDigest _ m _).after (of_modSet s m fun _ => ⟨rfl, id⟩)

/-! ### The abandon of another set's round (R232, R366) -/

theorem of_afterAbandon (s : State) (m : Nat) (x : Pset) : RoundKept n s (afterAbandon s m x) :=
  (of_releaseRound s m).trans ((of_writeReport _ m x _).trans (of_freeCrane _ m))

theorem of_abandonRound_other {m : Nat} (h : m ≠ n) (s : State) : RoundKept n s (abandonRound s m).1 := by
  unfold abandonRound
  split
  · exact refl s
  · dsimp only
    refine after (of_afterAbandon _ m _) (after (of_writeEpoch_other h _ _ _) (after (of_dropAhead _ m) ?_))
    have hrestaged : ∀ l : List Nat, RoundKept n s (l.foldl (fun t k => unstageCon t m k) s) :=
      fun l => foldl (fun t k => of_unstageCon t m k) l s
    split
    · exact after (of_exportStop _ m) (hrestaged _)
    · exact hrestaged _

theorem of_afterDiffer (s : State) {m : Nat} {x : Pset} (disputed : Bool) (h : m = n → x.sw.phase = .idle) :
    RoundKept n s (afterDiffer s m x disputed) := by
  have halert : RoundKept n s (raiseAlert s 3) := of_endFrame (EndFrame.of_raiseAlert s 3)
  unfold afterDiffer
  dsimp only
  split
  · exact halert
  · next hbusy =>
    have hother : m ≠ n := fun heq => hbusy (h heq)
    exact after (of_endSweepCmd _ m _ _) (after (of_abandonRound_other hother _) halert)

/-- EXPELLED and DISPUTED do not end the round of a set that is IDLE, nor that of another set. -/
theorem of_expel (s : State) (m : Nat) (disputed : Bool)
    (hidle : m = n → ∀ x, setOf? s n = some x → x.sw.phase = .idle) : RoundKept n s (expel s m disputed) := by
  have hbit : ∀ e : Epoch, (if disputed then { e with disputed := true } else { e with expelled := true }).round = e.round := by
    cases disputed <;> exact fun _ => rfl
  unfold expel
  split
  · exact refl s
  · next x hx =>
    exact after (of_afterDiffer _ disputed fun heq => hidle heq x (heq ▸ hx)) (of_writeEpoch s m .differ hbit)

end RoundKept

/-! ### A set whose round has ended -/

/-- Set n is IDLE, with `w` as the round of its epoch word. -/
def RoundOver (n : Nat) (w : Epoch) (s : State) : Prop :=
  ∃ x, setOf? s n = some x ∧ x.ep.round = w ∧ x.sw.phase = .idle

namespace RoundOver

variable {n : Nat} {w : Epoch}

theorem of_kept {s t : State} (h : RoundOver n w s) (hkept : RoundKept n s t) : RoundOver n w t := by
  obtain ⟨x, hx, hword, hidle⟩ := h
  obtain ⟨y, hy, hxy⟩ := hkept x hx
  exact ⟨y, hy, hxy.word.trans hword, hxy.idle hidle⟩

theorem of_modSet {s : State} (h : RoundOver n w s) (m : Nat) {f : Pset → Pset} (hf : ∀ x, SameRound x (f x)) :
    RoundOver n w (modSet s m f) := h.of_kept (.of_modSet s m hf)

theorem foldl {α : Type} {f : State → α → State} {s : State} (h : RoundOver n w s)
    (hf : ∀ t a, RoundOver n w t → RoundOver n w (f t a)) (l : List α) : RoundOver n w (l.foldl f s) := by
  induction l generalizing s with
  | nil => exact h
  | cons a l ih => exact ih (hf s a h)

theorem idle {s : State} (h : RoundOver n w s) : ∀ x, setOf? s n = some x → x.sw.phase = .idle := by
  obtain ⟨y, hy, -, hidle⟩ := h
  intro x hx
  rw [hy] at hx
  exact Option.some.inj hx ▸ hidle

/-- A report ends the round that its set stands in. -/
theorem of_writeReport {s t : State} {x : Pset} (hx : setOf? s n = some x) (hkept : RoundKept n s t) (y : Pset)
    (how : RoundEnd) : RoundOver n x.ep.round (writeReport t n y how) := by
  obtain ⟨z, hz, hxz⟩ := hkept x hx
  have hended : RoundOver n x.ep.round (putSet t n (reported y z)) := ⟨_, setOf?_putSet_same t n _, hxz.word, rfl⟩
  exact hended.of_kept (.of_writeReport_ended hz y how)

/-! ### Judgements (R364-R366) -/

theorem of_expel {s : State} (h : RoundOver n w s) (m : Nat) (disputed : Bool) : RoundOver n w (expel s m disputed) :=
  h.of_kept (.of_expel s m disputed fun _ => h.idle)

theorem of_modSet_expel {s : State} (h : RoundOver n w s) (m : Nat) (disputed : Bool) {f : Pset → Pset}
    (hf : ∀ x, SameRound x (f x)) : RoundOver n w (expel (modSet s m f) m disputed) := (h.of_modSet m hf).of_expel m disputed

/-- Every outcome of an exchange writes its registers, and the worse ones the bits of the epoch word as well. -/
theorem of_judgeValues {s : State} (h : RoundOver n w s) (m : Nat) (x : Pset) (l : List Nat) :
    RoundOver n w (judgeValues s m x l) := by
  unfold judgeValues
  dsimp only
  split
  · exact of_modSet h m fun _ => ⟨rfl, id⟩
  · split
    · split
      · exact of_modSet h m fun _ => ⟨rfl, id⟩
      · split
        · exact of_modSet_expel h m false fun _ => ⟨rfl, id⟩
        · exact of_modSet_expel h m true fun _ => ⟨rfl, id⟩
    · exact of_modSet_expel h m true fun _ => ⟨rfl, id⟩

theorem of_judgeSet {s : State} (h : RoundOver n w s) (m : Nat) : RoundOver n w (judgeSet s m) := by
  unfold judgeSet
  split
  · exact h
  · next x _ =>
    have hread : RoundOver n w (digestGrains s x).1 := h.of_kept (.of_endFrame (EndFrame.of_readGrains s _))
    split
    · exact h
    · dsimp only
      split
      · exact hread.of_kept (.of_endMissing _ m)
      · split
        · exact hread.of_judgeValues m x _
        · exact h

theorem of_attempt {s : State} {f : State → State} (h : RoundOver n w s) (hf : RoundOver n w (f s)) :
    RoundOver n w (attempt s f).1 := by
  rcases attempt_cases s f with hdone | hheld
  · rwa [hdone]
  · rw [hheld]
    exact h.of_kept (.of_sets (keepWakes_sets s (f s)))

theorem of_judgeAll {s : State} (h : RoundOver n w s) : RoundOver n w (judgeAll s) := by
  unfold judgeAll
  split
  · exact h
  · refine h.foldl (fun t e ht => ?_) _
    split
    · exact ht.of_attempt (ht.of_judgeSet e.1)
    · exact ht

end RoundOver

/-! ### The commit (R216, R228-R230) -/

/-- The epoch word after a commit (R216, R229). -/
def committedWord (x : Pset) : Epoch :=
  { x.ep with epoch := x.ep.epoch + 1, step := x.ep.step + 1, active := !x.ep.active, tround := (x.ep.tround + 1) % 65536,
              ls := (lsCommit x.pr x.ep).1, clean := (lsCommit x.pr x.ep).2 }

/-- What follows the epoch word of a commit ends the round and leaves its word. -/
theorem roundOver_afterCommit {s : State} {n : Nat} {y : Pset} (hy : setOf? s n = some y) (x : Pset) :
    RoundOver n y.ep.round (afterCommit s n x) := by
  unfold afterCommit
  dsimp only
  refine RoundOver.of_judgeAll (RoundOver.of_kept (RoundOver.of_writeReport hy ?_ _ _)
    (.after (.of_endSweepCmd _ n _ _) (.of_freeCrane _ n)))
  refine .after (.of_commitDigest _ n x) (.after (.of_turnSet _ n) (.after (.of_releaseRound _ n)
    (.after (.of_exportCommit _ n) (.with_sets (t := modSet s n _) ?_ rfl))))
  exact .of_modSet s n fun z => sameRound_mapCons z _

theorem roundOver_commitWalk {s : State} {n : Nat} {x : Pset} (hx : setOf? s n = some x) :
    RoundOver n (committedWord x).round (commitWalk s n x) :=
  roundOver_afterCommit (setOf?_writeEpoch_same hx _ _) x

/-- Settles O56: the commit writes its epoch word, and what follows it leaves the word's round. -/
theorem commitAdvancesTheEpoch : Obligations.CommitAdvancesTheEpoch := by
  unfold Obligations.CommitAdvancesTheEpoch
  intro s n x hx
  obtain ⟨y, hy, hword, -⟩ := roundOver_commitWalk hx
  have hscale : (y.ep.ls, y.ep.clean) = lsCommit x.pr x.ep :=
    Prod.ext (congrArg Epoch.ls hword) (congrArg Epoch.clean hword)
  exact ⟨y, hy, congrArg Epoch.epoch hword, congrArg Epoch.step hword, congrArg Epoch.active hword,
    congrArg Epoch.tround hword, hscale⟩

end Sys2Proof.Machine
end

section
/-!
PROOFS. Writes that name a place of this harbour: mode words and GO grains (R46, R280-R283).
-/
namespace Sys2Proof.Machine

open Sys2Proof

/-! ### Writes to a local address -/

/-- The request that a write of some words at a local address of this harbour makes at a port. -/
def localWrite (p : Nat) (hdr : BitVec 128) (a len : Nat) (data : List Codeword) : Request :=
  requestOf p (writeKind (writeHdr hdr a len)) (writeHdr hdr a len) data

section
variable {a len : Nat} (ha : a < 2 ^ 44) (hlen : len < 1024) (p : Nat) (hdr : BitVec 128) (data : List Codeword)
include ha hlen

theorem kindOf_writeHdr :
    kindOf (ReqHdr.ofBits (writeHdr hdr a len)).opc = some (writeKind (writeHdr hdr a len)) := by
  obtain ⟨hopc, -⟩ := ofBits_writeHdr (hdr := hdr) ha hlen
  rw [writeKind, hopc]
  rcases writeOpc_cases hdr with h | h <;> rw [h] <;> rfl

theorem localWrite_a : (localWrite p hdr a len data).a = a := by
  obtain ⟨-, haddr, -⟩ := ofBits_writeHdr (hdr := hdr) ha hlen
  rw [Request.a, localWrite, requestOf, haddr, gaLocal, bits, Nat.shiftRight_eq_div_pow]
  omega

theorem sentAway_localWrite (s : State) : sentAway s (localWrite p hdr a len data) = false := by
  obtain ⟨-, haddr, -⟩ := ofBits_writeHdr (hdr := hdr) ha hlen
  have hspace : gaSpace (localWrite p hdr a len data).hdr.addr.toNat = 1 := by
    rw [localWrite, requestOf, haddr, gaSpace_here ha]
  have hdelivery : deliveryOf s (localWrite p hdr a len data) = .here := by
    simp only [deliveryOf, hspace]
  rw [sentAway, hdelivery]

theorem localWrite_plain : (localWrite p hdr a len data).hdr.final = false := by
  obtain ⟨-, -, -, hfinal⟩ := ofBits_writeHdr (hdr := hdr) ha hlen
  exact hfinal

end

theorem localWrite_isWr (p : Nat) (hdr : BitVec 128) (a len : Nat) (data : List Codeword) :
    (localWrite p hdr a len data).isWr = true := by
  have hkind : (localWrite p hdr a len data).kind = writeKind (writeHdr hdr a len) := rfl
  rw [Request.isWr, hkind]
  rcases writeKind_cases (writeHdr hdr a len) with h | h <;> rw [h] <;> rfl

/-- A request that goes at this harbour lies in a region (R46). -/
theorem region_of_verdict_go {s : State} {h : HeldReq} {gap : Bool} (hgo : verdict s h gap = .go) (hfnl : h.req.kind ≠ .fnl)
    (hhere : sentAway s h.req = false) (hplain : h.req.isFinal = false) : ∃ g, regionOf s.part h.req.a = some g := by
  by_contra hnone
  have hreg : regionOf s.part h.req.a = none := Option.eq_none_iff_forall_not_mem.2 (not_exists.1 hnone)
  unfold verdict at hgo
  simp only [hfnl, hhere, hplain, hreg, Bool.false_eq_true, or_self, if_false] at hgo
  split at hgo
  · cases hgo
  · split at hgo
    · cases hgo
    · split at hgo <;> cases hgo

theorem waiting_part (s : State) (r : Request) : (waiting s r).part = s.part := rfl

/-- A write at a local address that lies in no region but one, taken by a port and free to go, is performed in that region. -/
theorem arrive_localWrite {s : State} {p : Nat} {hdr : BitVec 128} {a len : Nat} {data : List Codeword} {g : Region}
    (ha : a < 2 ^ 44) (hlen : len < 1024) (hacc : Accepts s p (writeHdr hdr a len))
    (hgo : Goes (taken s p (writeHdr hdr a len)) (localWrite p hdr a len data))
    (honly : ∀ g', inRegion s.part a g' = true → g' = g) :
    arrive s p (writeHdr hdr a len) data 0 0 =
      settle (serveWrite (taken s p (writeHdr hdr a len)) (localWrite p hdr a len data) g) := by
  have hwr := localWrite_isWr p hdr a len data
  have hfinal := localWrite_plain ha hlen p hdr data
  have hplain : (localWrite p hdr a len data).isFinal = false := by rw [Request.isFinal, hfinal, Bool.and_false]
  obtain ⟨-, hfnl, -, -⟩ := isWr_excludes hwr
  obtain ⟨g', hreg⟩ := region_of_verdict_go hgo.1 hfnl (sentAway_localWrite ha hlen p hdr data _) hplain
  rw [waiting_part, taken_part] at hreg
  have hin : inRegion s.part (localWrite p hdr a len data).a g' = true := List.find?_some hreg
  rw [localWrite_a ha hlen] at hin
  rw [honly g' hin] at hreg
  exact arrive_write hacc (kindOf_writeHdr ha hlen hdr) hwr hfinal hgo (sentAway_localWrite ha hlen p hdr data _) hreg 0 0

/-! ### Mode words -/

theorem modeWord_lt {b : Nat} (hb : b < 16384) : modeBase + 8 * b < 2 ^ 44 := by
  simp only [modeBase]
  omega

/-- The address of a mode word lies in no other region (Table 2-3). -/
theorem inRegion_modeWord {part : Part} {b : Nat} {g : Region} (hb : b < 16384)
    (hin : inRegion part (modeBase + 8 * b) g = true) : g = .modeWords := by
  have hplace := of_decide_eq_true hin
  have hquays : quays part ≤ 16 := by cases part <;> decide
  cases g <;>
    simp only [regionBase, regionSize, capacity, banksOf, apertureBase, modeBase, berthBase, qsramBase, hsramBase,
      regBase] at hplace ⊢ <;>
    omega

/-- The request that a write of a bank's mode word makes. -/
def modeWordReq (p : Nat) (hdr : BitVec 128) (b : Nat) (v : Word) : Request :=
  localWrite p hdr (modeBase + 8 * b) 1 [codewordOf (bytesGrain (leBytes 8 v.toNat))]

theorem exec_modeWordWrite {b : Nat} (hb : b < 16384) (s : State) (p : Nat) (hdr : BitVec 128) (v : Word) :
    exec (.modeWordWrite p hdr b v) s =
      .next (arrive s p (writeHdr hdr (modeBase + 8 * b) 1) [codewordOf (bytesGrain (leBytes 8 v.toNat))] 0 0) :=
  congrArg Host.Outcome.next (if_pos hb)

/-- A mode word in the mode that it orders is answered at once (R280). -/
theorem exec_modeWordWrite_of_goes {s : State} {p : Nat} {hdr : BitVec 128} {b : Nat} (hb : b < 16384) (v : Word)
    (hacc : Accepts s p (writeHdr hdr (modeBase + 8 * b) 1))
    (hgo : Goes (taken s p (writeHdr hdr (modeBase + 8 * b) 1)) (modeWordReq p hdr b v)) :
    exec (.modeWordWrite p hdr b v) s =
      .next (settle (answer (taken s p (writeHdr hdr (modeBase + 8 * b) 1)) (modeWordReq p hdr b v) .ok [])) := by
  rw [exec_modeWordWrite hb,
    arrive_localWrite (g := .modeWords) (modeWord_lt hb) (by decide) hacc hgo fun _ => inRegion_modeWord hb]
  rfl

/-- A mode word that orders another mode starts the change, and waits for its end (R281). -/
theorem exec_modeWordWrite_of_start {s : State} {p : Nat} {hdr : BitVec 128} {b : Nat} (hb : b < 16384) (v : Word)
    (hacc : Accepts s p (writeHdr hdr (modeBase + 8 * b) 1))
    (hstart : verdict (waiting (taken s p (writeHdr hdr (modeBase + 8 * b) 1)) (modeWordReq p hdr b v))
      (heldReq (modeWordReq p hdr b v)) false = .start) :
    exec (.modeWordWrite p hdr b v) s =
      .next (settle (setWhy (startModes (waiting (taken s p (writeHdr hdr (modeBase + 8 * b) 1)) (modeWordReq p hdr b v))
        (modeWordReq p hdr b v)) (modeWordReq p hdr b v) .modeChange)) := by
  have hkind := kindOf_writeHdr (modeWord_lt hb) (len := 1) (by decide) hdr
  obtain ⟨-, -, -, hplt⟩ := isWr_excludes (localWrite_isWr p hdr (modeBase + 8 * b) 1
    [codewordOf (bytesGrain (leBytes 8 v.toNat))])
  rw [exec_modeWordWrite hb, arrive_of_accepts hacc hkind hplt]
  rw [modeWordReq, localWrite] at hstart ⊢
  rw [hstart]
  rfl

/-! ### GO grains -/

theorem goGrain_lt {b : Nat} (hb : b < 16384) : berthBase + b * 0x400000 + 0x200 < 2 ^ 44 := by
  simp only [berthBase]
  omega

/-- The address of a GO grain lies in no region but the berth windows (Table 2-3). -/
theorem inRegion_goGrain {part : Part} {b : Nat} {g : Region} (hb : b < 16384)
    (hin : inRegion part (berthBase + b * 0x400000 + 0x200) g = true) : g = .berth := by
  have hplace := of_decide_eq_true hin
  have hquays : quays part ≤ 16 := by cases part <;> decide
  cases g <;>
    simp only [regionBase, regionSize, capacity, banksOf, apertureBase, modeBase, berthBase, qsramBase, hsramBase,
      regBase] at hplace ⊢ <;>
    omega

theorem exec_goWrite {b : Nat} (hb : b < 16384) (s : State) (p : Nat) (hdr : BitVec 128) (go : Codeword) :
    exec (.goWrite p hdr b go) s = .next (arrive s p (writeHdr hdr (berthBase + b * 0x400000 + 0x200) 4) [go] 0 0) :=
  congrArg Host.Outcome.next (if_pos hb)

/-- The request that a write of a bank's GO grain makes. -/
def goGrainReq (p : Nat) (hdr : BitVec 128) (b : Nat) (go : Codeword) : Request :=
  localWrite p hdr (berthBase + b * 0x400000 + 0x200) 4 [go]

/-- A write at the GO grain of a bank is performed in that bank's window (R282). -/
theorem serveWrite_goGrain (s : State) (p : Nat) (hdr : BitVec 128) {b : Nat} (go : Codeword) (hb : b < 16384) :
    serveWrite s (goGrainReq p hdr b go) .berth =
      answer (writeWindow s b 0x200 p (goGrainReq p hdr b go).words) (goGrainReq p hdr b go) .ok [] := by
  have ha : (goGrainReq p hdr b go).a = berthBase + b * 0x400000 + 0x200 := localWrite_a (goGrain_lt hb) (by decide) p hdr [go]
  have hbank : ((goGrainReq p hdr b go).a - berthBase) / 0x400000 = b := by omega
  have hoff : ((goGrainReq p hdr b go).a - berthBase) % 0x400000 = 0x200 := by omega
  have hport : (goGrainReq p hdr b go).port = p := rfl
  simp only [serveWrite, hbank, hoff, hport]

/-- A GO grain is written to its bank's window and answered (R282). -/
theorem exec_goWrite_of_goes {s : State} {p : Nat} {hdr : BitVec 128} {b : Nat} (hb : b < 16384) (go : Codeword)
    (hacc : Accepts s p (writeHdr hdr (berthBase + b * 0x400000 + 0x200) 4))
    (hgo : Goes (taken s p (writeHdr hdr (berthBase + b * 0x400000 + 0x200) 4)) (goGrainReq p hdr b go)) :
    exec (.goWrite p hdr b go) s =
      .next (settle (answer (writeWindow (taken s p (writeHdr hdr (berthBase + b * 0x400000 + 0x200) 4)) b 0x200 p
        (goGrainReq p hdr b go).words) (goGrainReq p hdr b go) .ok [])) := by
  rw [exec_goWrite hb, ← serveWrite_goGrain _ p hdr go hb]
  exact next_congr (arrive_localWrite (g := .berth) (goGrain_lt hb) (by decide) hacc hgo fun _ => inRegion_goGrain hb)

/-- Settles O14: a write that goes is performed in the one region where it lies (`arrive_localWrite`), and one that starts a
change is the verdict of a write that is taken. -/
theorem berthWriteRowsComplete : Obligations.BerthWriteRowsComplete := by
  unfold Obligations.BerthWriteRowsComplete
  intro s p hdr b hb
  constructor
  · intro v w r hacc
    exact ⟨exec_modeWordWrite_of_goes hb v hacc, exec_modeWordWrite_of_start hb v hacc⟩
  · intro go w r hacc hgo _
    exact exec_goWrite_of_goes hb go hacc hgo

end Sys2Proof.Machine
end

section
/-!
PROOFS. The twelve berth operations (R288, R291-R295, R297, R315, R337).
-/
namespace Sys2Proof.Machine

open Sys2Proof

/-- The row of an operation runs it and serves what it held. -/
theorem exec_of_berthRow {i : Instr} {op b : Nat} {older : List Nat} {flips : List Flip}
    (h : berthRow i = some (op, b, older, flips)) (s : State) : exec i s = .next (settle (runOp s b op older flips)) := by
  cases i with
  | matvec | dot | scale | add | mul | act | reduce | normStat | normApply | smaxStat | smaxApply | attn =>
    cases h
    rfl
  | _ => nomatch h

/-- Operation o holds the running place of bank b with its permit, in a quay that is awake and whose pool is not 0 (R297, R311,
R374). -/
structure RunsNow (s : State) (b : Nat) (o : BOp) : Prop where
  running : (bankOf s b).run = some o
  granted : o.phase = .granted
  pool : (permitsOf s (b / 1024)).pool ≠ 0
  awake : bankAwake s b = true

/-- An operation that was not selected ends with its counts (R297). -/
theorem runOp_of_unselected {s : State} {b : Nat} {o : BOp} (h : RunsNow s b o) (hsel : o.selected = false) (older : List Nat)
    (flips : List Flip) :
    runOp s b o.op older flips =
      let r := advanceOp s b o older flips none
      endRun r.1 b r.2 r.2.code r.2.nelem r.2.nsat r.2.nflush true := by
  obtain ⟨hrun, hgranted, hpool, hawake⟩ := h
  rw [runOp, hrun]
  simp only [hgranted, hawake, hsel, ne_eq, hpool, not_false_eq_true, and_self, if_true, Bool.false_eq_true, if_false]

/-- A selected operation asks for its duplicate's permit and waits (R337). -/
theorem runOp_of_selected {s : State} {b : Nat} {o : BOp} (h : RunsNow s b o) (hsel : o.selected = true) (older : List Nat)
    (flips : List Flip) :
    runOp s b o.op older flips =
      let r := advanceOp s b o older flips none
      let p := permitsOf r.1 (b / 1024)
      let s1 := setPermits r.1 (b / 1024) { p with waiting := p.waiting ++ [b + 65536] }
      setBank s1 b { bankOf s1 b with run := some { r.2 with phase := .computed } } := by
  obtain ⟨hrun, hgranted, hpool, hawake⟩ := h
  rw [runOp, hrun]
  simp only [hgranted, hawake, hsel, ne_eq, hpool, not_false_eq_true, and_self, if_true]

/-- Settles O38: the row runs its operation (`exec_of_berthRow`), which ends, or waits where it was selected. -/
theorem berthOperationsComplete : Obligations.BerthOperationsComplete := by
  unfold Obligations.BerthOperationsComplete
  rintro s i op b older flips o hrow hrun rfl hgranted hpool hawake r
  have hnow : RunsNow s b o := ⟨hrun, hgranted, hpool, hawake⟩
  rw [exec_of_berthRow hrow]
  constructor
  · intro hsel
    rw [runOp_of_unselected hnow hsel]
  · intro hsel p s1
    rw [runOp_of_selected hnow hsel]

end Sys2Proof.Machine
end

section
/-!
PROOFS. The events of banks: the end of a mode change, permits, duplicates and gaps (R281, R297, R311, R313, R314, R337, R338).
-/
namespace Sys2Proof.Machine

open Sys2Proof

/-! ### Mode changes and permits -/

/-- A mode change ends in the mode ordered, with the unit's registers cleared (R281). -/
theorem endChange_of_changing {s : State} {b : Nat} {m : Bool} (h : (bankOf s b).changing = some m) :
    endChange s b = setBank s b { bankOf s b with compute := m, changing := none, lanes := LaneRegs.zero } := by
  rw [endChange]
  simp only [h]

theorem exec_modeChange_of_changing {s : State} {b : Nat} {m : Bool} (h : (bankOf s b).changing = some m) :
    exec (.modeChange b) s = .next (settle (endChange s b)) := by
  refine next_congr (if_pos ?_)
  rw [h, Option.isSome_some]

/-- The oldest request of a queue takes a permit while its quay is awake and the pool has room; that of an operation lets it
run (R297, R311). -/
theorem grantNext_of_room {s : State} {q b : Nat} {t : List Nat} (hwait : (permitsOf s q).waiting = b :: t)
    (hroom : (permitsOf s q).holders.length < (permitsOf s q).pool) (hawake : q ∉ asleep s) :
    grantNext s q =
      let s1 := setPermits s q { permitsOf s q with waiting := t, holders := (permitsOf s q).holders ++ [b] }
      if b < 65536 then grantOp s1 b else s1 := by
  unfold grantNext
  simp only [hwait, hroom, hawake, not_false_eq_true, and_self, if_true]

/-! ### Duplicates (R337, R338) -/

@[simp] theorem unitRetired_rouseBerth (s : State) (b c : Nat) : unitRetired (rouseBerth s b) c = unitRetired s c := by
  rw [rouseBerth_eq, unitRetired, unitRetired]

/-- Operation o of bank b has computed its results in a quay that is awake and whose pool is not 0, and the unit that makes its
duplicate is free (R337, R338). -/
structure DuplicateDue (s : State) (b : Nat) (o : BOp) : Prop where
  running : (bankOf s b).run = some o
  computed : o.phase = .computed
  partner : partnerFree s b = true
  pool : (permitsOf s (b / 1024)).pool ≠ 0
  awake : bankAwake s b = true

/-- A first run under its permit settles the operation, or where the partner is retired is followed by a second run. -/
theorem duplicateOp_of_first {s : State} {b : Nat} {o : BOp} (h : DuplicateDue s b o) (hdup : o.dup = none)
    (hpermit : b + 65536 ∈ (permitsOf s (b / 1024)).holders) (first second : List Flip) :
    duplicateOp s b first second =
      let s1 := rouseBerth (rouseBerth s b) (b ^^^ 1)
      if unitRetired s (b ^^^ 1) then secondRun s1 b o first else settleDuplicate s1 b o first second := by
  obtain ⟨hrun, hcomputed, hfree, hpool, hawake⟩ := h
  rw [duplicateOp, hrun]
  simp only [hcomputed, hfree, hawake, hdup, hpermit, ne_eq, hpool, not_false_eq_true, and_self, if_true, not_true_eq_false,
    if_false, unitRetired_rouseBerth]

/-- The second run of a home unit settles the operation with the first. -/
theorem duplicateOp_of_second {s : State} {b : Nat} {o : BOp} {f : List Flip} (h : DuplicateDue s b o) (hdup : o.dup = some f)
    (hpermit : b + 131072 ∈ (permitsOf s (b / 1024)).holders) (first second : List Flip) :
    duplicateOp s b first second = settleDuplicate (rouseBerth (rouseBerth s b) (b ^^^ 1)) b o f second := by
  obtain ⟨hrun, hcomputed, hfree, hpool, hawake⟩ := h
  rw [duplicateOp, hrun]
  simp only [hcomputed, hfree, hawake, hdup, hpermit, ne_eq, hpool, not_false_eq_true, and_self, if_true]

/-! ### The rows -/

/-- A gap of a bank whose operation runs serves what waits, in order of arrival (R313). -/
theorem exec_busyBankAccess_of_runs {s : State} {b : Nat} (hruns : bankRuns s b = true) (hawake : bankAwake s b = true)
    (n : Nat) (older : List Nat) :
    exec (.busyBankAccess b ⟨n, older⟩) s =
      .next (settle (serveGap b (writeAhead s b n older).host.reqs 0 (writeAhead s b n older))) := by
  refine next_congr (if_pos ?_)
  rw [hruns, hawake, Bool.and_self]

theorem exec_permitGrant (q : Nat) (s : State) : exec (.permitGrant q) s = .next (settle (grantNext s q)) := rfl

theorem exec_berthDuplicate (b : Nat) (first second : List Flip) (s : State) :
    exec (.berthDuplicate b first second) s = .next (settle (duplicateOp s b first second)) := rfl

/-- Settles O37: a permit is granted by `grantNext_of_room`, to an operation or to a duplicate; a duplicate that is due is a first
run, with a partner or without, or a second. -/
theorem bankEventsComplete : Obligations.BankEventsComplete := by
  unfold Obligations.BankEventsComplete
  refine ⟨?changed, ?granted, ?grantedDuplicate, ?settled, ?runAgain, ?settledAlone, ?served⟩
  case changed =>
    intro s b m hchange
    rw [exec_modeChange_of_changing hchange, endChange_of_changing hchange]
  case granted =>
    intro s q b t hwait hroom hawake hop
    rw [exec_permitGrant, grantNext_of_room hwait hroom hawake]
    exact next_congr (congrArg settle (if_pos hop))
  case grantedDuplicate =>
    intro s q b t hwait hroom hawake hdup
    rw [exec_permitGrant, grantNext_of_room hwait hroom hawake]
    exact next_congr (congrArg settle (if_neg (Nat.not_lt.2 hdup)))
  case settled =>
    intro s b first second o hrun hcomputed hdup hpartner hpermit hfree hpool hawake
    rw [exec_berthDuplicate, duplicateOp_of_first ⟨hrun, hcomputed, hfree, hpool, hawake⟩ hdup hpermit, hpartner,
      if_neg Bool.false_ne_true]
  case runAgain =>
    intro s b first second o hrun hcomputed hdup hretired hpermit hfree hpool hawake
    rw [exec_berthDuplicate, duplicateOp_of_first ⟨hrun, hcomputed, hfree, hpool, hawake⟩ hdup hpermit, hretired, if_pos rfl]
  case settledAlone =>
    intro s b first second f o hrun hcomputed hdup hpermit hfree hpool hawake
    rw [exec_berthDuplicate, duplicateOp_of_second ⟨hrun, hcomputed, hfree, hpool, hawake⟩ hdup hpermit]
  case served =>
    intro s b n older hruns hawake
    exact exec_busyBankAccess_of_runs hruns hawake n older

end Sys2Proof.Machine
end

section
/-!
PROOFS. Batches: their start, their withdrawal and the merge of their partials (R296, R299-R301).
-/
namespace Sys2Proof.Machine

open Sys2Proof

/-! ### BERTH_BATCH (R299) -/

/-- The image that a BERTH_BATCH reads; one of too many slots is not read. -/
def imageTable (s : State) (p : CmdPkt) : State × List (Option Byte) :=
  if 8 < p.at 69 1 then (s, []) else readTable s (p.at 72 8 % 2 ^ 44) (64 * p.at 69 1)

/-- The list that a BERTH_BATCH reads after its image; one of too many entries is not read. -/
def entryTable (s : State) (p : CmdPkt) : State × List (Option Byte) :=
  if 16384 < p.at 64 4 then ((imageTable s p).1, [])
  else readTable (imageTable s p).1 (p.at 80 8 % 2 ^ 44) (8 * p.at 64 4)

/-- The entries of that list that can be read. -/
def batchEntries (s : State) (p : CmdPkt) : List Nat := (tableEntries (entryTable s p).2 8 (p.at 64 4)).filterMap id

/-- Where its checks pass, a BERTH_BATCH that has entries and slots, which can be read, starts once each of its banks has a
free place. -/
theorem exec_berthBatch_of_pass {s : State} {cx : Nat} {r : Running} (hturn : turnOf s cx 0x0601 = some r)
    (hop : batchOpBad s (r.pkt.at 69 1) (imageReads (imageTable s r.pkt).2) (batchImage r.pkt (imageTable s r.pkt).2) = false)
    (hclear : Clear r.pkt batchLayout)
    (hparams : AllPass (batchParams s r.pkt (imageReads (imageTable s r.pkt).2) (batchImage r.pkt (imageTable s r.pkt).2)
      (batchEntries s r.pkt)))
    (hright : batchDenied s r.pkt (imageReads (imageTable s r.pkt).2) (batchImage r.pkt (imageTable s r.pkt).2)
      (batchEntries s r.pkt) = false)
    (hentries : r.pkt.at 64 4 ≠ 0) (hslots : r.pkt.at 69 1 ≠ 0) (himage : tableBad (imageTable s r.pkt).2 = false)
    (hlist : tableBad (entryTable s r.pkt).2 = false) :
    exec (.berthBatch cx) s = .next (whole s fun _ =>
      if (batchEntries s r.pkt).all (fun v => placeFree s (entryBank v)) then
        settle (startBatch (entryTable s r.pkt).1 cx r (batchImage r.pkt (imageTable s r.pkt).2).slots (batchEntries s r.pkt))
      else s) := by
  have hrow : exec (.berthBatch cx) s = execBerthBatch cx s := rfl
  have hcheck := checkFail_of_granted hclear hparams (List.forall_mem_nil _) hright
  rw [hrow, execBerthBatch]
  refine next_whole_congr ?_
  simp only [hturn]
  rw [← imageTable, ← entryTable, ← batchEntries]
  simp only [hop, hcheck, hentries, hslots, himage, hlist, or_self, Bool.false_eq_true, if_false]

/-! ### BERTH_CANCEL (R301) -/

/-- BERTH_CANCEL withdraws what does not run yet of the batch that it names, and reports how many entries that were. -/
theorem exec_berthCancel_of_found {s : State} {cx : Nat} {r : Running} {b : Nat × Running} (hturn : turnOf s cx 0x0602 = some r)
    (hclear : Clear r.pkt [(8, 7, 0), (8, 31, 16)]) (hfound : findBatch s (r.pkt.at 64 1) (r.pkt.at 66 2) = some b) :
    exec (.berthCancel cx) s =
      .next (settle (complete (cancelBatch s b.1 b.2).1 cx stDONE (cancelBatch s b.1 b.2).2)) := by
  have hrow : exec (.berthCancel cx) s = execBerthCancel cx s := rfl
  have hcheck : checkFail r.pkt [(8, 7, 0), (8, 31, 16)] [] [] false = none := hclear
  rw [hrow, execBerthCancel]
  simp only [hturn, hcheck, hfound]

/-! ### BERTH_MERGE (R296, R300) -/

/-- The operation that a batch runs, as its merge reads it. -/
def mergedOp (s : State) (cx : Nat) (r : Running) : BOp := entryOp r.pkt (tget s.berth.images cx []) cx 0 0

/-- What the merge of a batch reads of its entries. -/
def mergeReads (s : State) (cx : Nat) (r : Running) : State × List (List Byte) × Bool :=
  readPartials (mergedOp s cx r) (tget s.berth.batches cx []) s

/-- The state in which a merge writes: its reads are made and it is counted at the quay of its first entry. -/
def mergeNoted (s : State) (cx : Nat) (r : Running) : State :=
  noteMerge (mergeReads s cx r).1 ((((tget s.berth.batches cx [])[0]?).map (·.bank)).getD 0 / 1024) r.pkt

/-- The merged bytes, and the replacements made on the way. -/
def mergeResult (s : State) (cx : Nat) (r : Running) : List Byte × Nat :=
  (mergeBytes (ftzAt r.ftz clBerth) (mergedOp s cx r) (r.pkt.at 70 1) (bit (r.pkt.at 68 1) 1) (mergeReads s cx r).2.1).run 0

/-- A merge writes its result at MDST and ends its batch. -/
def endMerge (s : State) (cx : Nat) (r : Running) (t : State) (result : Option (List Byte)) : State :=
  settle (completeBatch (writeMerge t (r.pkt.at 88 8 % 2 ^ 44)
    (mergedBytes (mergedOp s cx r) (r.pkt.at 70 1) (bit (r.pkt.at 68 1) 1)) result) cx r result.isNone)

/-- A batch whose entries have all ended and that has a partial writes what they merge to, or poison where one of them is
poisoned. -/
theorem exec_berthMerge_of_partials {s : State} {cx : Nat} {r : Running} (hbatch : batchCmd s cx = some r)
    (hdone : batchDone s cx = true) (hmerges : batchMerges s cx r = true) (hpartials : (mergeReads s cx r).2.1 ≠ []) :
    exec (.berthMerge cx) s = .next (whole s fun _ =>
      if (mergeReads s cx r).2.2 then endMerge s cx r (mergeNoted s cx r) none
      else endMerge s cx r (noteFlush (mergeNoted s cx r) clBerth (mergeResult s cx r).2) (some (mergeResult s cx r).1)) := by
  have hrow : exec (.berthMerge cx) s = execBerthMerge cx s := rfl
  have hsome : (mergeReads s cx r).2.1.isEmpty = false := by simpa using hpartials
  rw [mergeReads, mergedOp] at hsome
  rw [hrow, execBerthMerge]
  refine next_whole_congr ?_
  simp only [hbatch, hdone, hmerges, hsome, Bool.and_self, Bool.not_true, Bool.false_eq_true, if_false]
  rfl

/-- Settles O23: a batch whose checks pass starts where its banks have places, BERTH_CANCEL withdraws the batch that it finds,
and the merge of partials that can be read differs from that of poisoned ones. -/
theorem berthCommandsComplete : Obligations.BerthCommandsComplete := by
  unfold Obligations.BerthCommandsComplete
  refine ⟨?started, ?cancelled, ?merged, ?poisoned⟩
  case started =>
    rintro s cx r i t hturn rfl rfl hop hclear hparams hright hentries hslots himage hlist hplaces
    rw [exec_berthBatch_of_pass hturn hop hclear hparams hright hentries hslots himage hlist]
    exact next_whole_congr (if_pos hplaces)
  case cancelled =>
    intro s cx r b hturn hclear hfound
    exact exec_berthCancel_of_found hturn hclear hfound
  case merged =>
    intro s cx r hbatch hdone hmerges hpartials hread
    rw [exec_berthMerge_of_partials hbatch hdone hmerges hpartials]
    refine next_whole_congr ((if_neg ?_).trans rfl)
    exact ne_true_of_eq_false hread
  case poisoned =>
    intro s cx r hbatch hdone hmerges hpartials hpoison
    rw [exec_berthMerge_of_partials hbatch hdone hmerges hpartials]
    exact next_whole_congr ((if_pos hpoison).trans rfl)

end Sys2Proof.Machine
end

section
/-!
SUPPORT. What every row keeps (R412, R432): the canonical form of memory, the fuses, and a lock that is set. `Kept` says it of
two states; one lemma for each operation of the model carries it on.
-/
namespace Sys2Proof.Machine

open Sys2Proof

/-- The fields that a set lock guards read alike: the protection map, SELF and SIZE_GIB (R412). -/
structure MapSame (s t : State) : Prop where
  map : ∀ off, 0x8000 ≤ off → off < 0x9800 → regW t off = regW s off
  self : fld t rHbRoadstead 17 0 = fld s rHbRoadstead 17 0
  size : fld t rLdAnch 6 0 = fld s rLdAnch 6 0

/-- What is kept from a state to a later one; `m` says whether the guarded fields are too, which a Warm reset may clean of bits
that no field names. -/
structure Kept (m : Bool) (s t : State) : Prop where
  form : s.memOk → t.memOk
  fuses : t.fuses = s.fuses
  blown : t.blown = s.blown
  lock : locked s = true → locked t = true
  map : m = true → locked s = true → MapSame s t

/-- The register at an offset is none that a set lock guards; without `m`, none but HB_PROT_LOCK counts. -/
def Unguarded (m : Bool) (off : Nat) : Prop :=
  off ≠ 8 ∧ (m = true → off ≠ 0x10 ∧ off ≠ 0x300008 ∧ (off < 0x8000 ∨ 0x9800 ≤ off))

theorem regW_setRegW_other (s : State) {off off' : Nat} (v : Nat) (h : off ≠ off') :
    regW (setRegW s off v) off' = regW s off' := by
  simp [regW, setRegW, tget_tput, h]

theorem fld_setFld_other (s : State) {off off' : Nat} (hi lo v hi' lo' : Nat) (h : off ≠ off') :
    fld (setFld s off hi lo v) off' hi' lo' = fld s off' hi' lo' := congrArg (bits · hi' lo') (regW_setRegW_other s _ h)

/-- A field put into a number leaves the bits below it. -/
theorem bits_putBits_below (v x : Nat) {hi lo hi' lo' : Nat} (h : hi' < lo) :
    bits (putBits v hi lo x) hi' lo' = bits v hi' lo' := by
  have hlow : ∀ w, bits (w % 2 ^ lo) hi' lo' = bits w hi' lo' := by
    intro w
    refine Nat.eq_of_testBit_eq fun i => ?_
    simp only [bits, Nat.testBit_mod_two_pow, Nat.testBit_shiftRight]
    by_cases hi'' : i < hi' + 1 - lo'
    · simp [hi'', show lo' + i < lo by omega]
    · simp [hi'']
  have hput : putBits v hi lo x % 2 ^ lo = v % 2 ^ lo := by
    have hle : bits v hi lo * 2 ^ lo ≤ v := by
      rw [bits_eq]
      exact (Nat.mul_le_mul_right _ (Nat.mod_le _ _)).trans (Nat.div_mul_le_self v _)
    rw [putBits, Nat.add_mul_mod_self_right]
    conv_rhs => rw [← Nat.sub_add_cancel hle, Nat.add_mul_mod_self_right]
  rw [← hlow, hput, hlow]

/-- A field of a register is left by a write of one above it. -/
theorem fld_setFld_below (s : State) (off v : Nat) {hi lo hi' lo' : Nat} (h : hi' < lo) (hhi : hi' < 64) :
    fld (setFld s off hi lo v) off hi' lo' = fld s off hi' lo' := by
  rw [fld, setFld, regW_setRegW, bits_mod_two_pow_64 _ hhi, bits_putBits_below _ _ h, fld]

namespace MapSame

theorem of_regs {s t : State} (h : t.regs = s.regs) : MapSame s t := by
  have hword : ∀ off, regW t off = regW s off := fun off => congrArg (fun l => (tget l off 0).toNat) h
  exact ⟨fun off _ _ => hword off, congrArg (bits · 17 0) (hword _), congrArg (bits · 6 0) (hword _)⟩

theorem trans {s t u : State} (h : MapSame s t) (h' : MapSame t u) : MapSame s u :=
  ⟨fun off hlo hhi => (h'.map off hlo hhi).trans (h.map off hlo hhi), h'.self.trans h.self, h'.size.trans h.size⟩

end MapSame

/-- The part of a state that `Kept` speaks of. -/
def State.core (s : State) : Mem × Table Word × Fuses × Fuses := (s.mem, s.regs, s.fuses, s.blown)

theorem locked_of_regs {s t : State} (h : t.regs = s.regs) : locked t = locked s := by
  rw [locked, locked, fld, fld, regW, regW, h]

/-- What an answer's next state has kept. -/
def AnswerKept (m : Bool) (s : State) : Answer → Prop
  | .next t => Kept m s t
  | _ => True

namespace Kept

variable {m : Bool} {s t u : State}

theorem refl (s : State) : Kept m s s := ⟨id, rfl, rfl, id, fun _ _ => .of_regs rfl⟩

theorem trans (h : Kept m s t) (h' : Kept m t u) : Kept m s u where
  form := h'.form ∘ h.form
  fuses := h'.fuses.trans h.fuses
  blown := h'.blown.trans h.blown
  lock := h'.lock ∘ h.lock
  map hm hl := (h.map hm hl).trans (h'.map hm (h.lock hl))

/-- What changes nothing of the core keeps all of it. -/
theorem with_core (h : Kept m s t) (hcore : u.core = t.core) : Kept m s u := by
  simp only [State.core, Prod.mk.injEq] at hcore
  obtain ⟨hmem, hregs, hfuses, hblown⟩ := hcore
  refine h.trans ⟨fun hok => ?_, hfuses, hblown, fun hl => (locked_of_regs hregs).trans hl, fun _ _ => .of_regs hregs⟩
  rwa [State.memOk, hmem]

theorem with_integ (h : Kept m s t) (g : IntegSt) : Kept m s { t with integ := g } := h.with_core rfl

theorem with_boot (h : Kept m s t) (b : BootSt) : Kept m s { t with boot := b } := h.with_core rfl

theorem with_snap (h : Kept m s t) (g : SnapSt) : Kept m s { t with snap := g } := h.with_core rfl

theorem with_pow (h : Kept m s t) (p : PowSt) : Kept m s { t with pow := p } := h.with_core rfl

theorem with_walk (h : Kept m s t) (w : WalkSt) : Kept m s { t with walk := w } := h.with_core rfl

theorem with_land (h : Kept m s t) (l : LandSt) : Kept m s { t with land := l } := h.with_core rfl

theorem with_tds (h : Kept m s t) (l : Table TDesc) : Kept m s { t with tds := l } := h.with_core rfl

theorem of_ite {c : Prop} [Decidable c] {v : State} (ht : Kept m s t) (hv : Kept m s v) : Kept m s (if c then t else v) := by
  split
  · exact ht
  · exact hv

theorem of_ite_fst {α : Type} {c : Prop} [Decidable c] {p q : State × α} (hp : Kept m s p.1) (hq : Kept m s q.1) :
    Kept m s (if c then p else q).1 := by
  split
  · exact hp
  · exact hq

/-- What an operation that also answers a value keeps. -/
theorem of_pair {α : Type} {p : State × α} {a : α} (hp : p = (u, a)) (h : Kept m s p.1) : Kept m s u := by
  subst hp
  exact h

theorem foldl_fst {α β : Type} {f : State × β → α → State × β} (hf : ∀ p a, Kept m s p.1 → Kept m s (f p a).1) (l : List α)
    {p : State × β} (h : Kept m s p.1) : Kept m s (l.foldl f p).1 := by
  induction l generalizing p with
  | nil => exact h
  | cons a l ih => exact ih (hf p a h)

theorem foldl {α : Type} {f : State → α → State} (hf : ∀ t a, Kept m s t → Kept m s (f t a)) (l : List α) (h : Kept m s t) :
    Kept m s (l.foldl f t) := by
  induction l generalizing t with
  | nil => exact h
  | cons a l ih => exact ih (hf t a h)

/-! ### Registers -/

/-- A write of a register that no set lock guards. -/
theorem of_setRegW {off v : Nat} (h : Kept m s t) (hoff : Unguarded m off := by exact ⟨by grind, fun _ => by grind⟩) :
    Kept m s (setRegW t off v) := by
  obtain ⟨hlock, hmap⟩ := hoff
  refine h.trans ⟨id, rfl, rfl, fun hl => ?_, fun hm _ => ?_⟩
  · have hword := regW_setRegW_other t v hlock
    rw [locked, fld, hword]
    exact hl
  · obtain ⟨hself, hsize, hrgn⟩ := hmap hm
    exact ⟨fun off' hlo hhi => regW_setRegW_other t v (by omega), congrArg (bits · 17 0) (regW_setRegW_other t v hself),
      congrArg (bits · 6 0) (regW_setRegW_other t v hsize)⟩

theorem of_setFld {off hi lo v : Nat} (h : Kept m s t) (hoff : Unguarded m off := by exact ⟨by grind, fun _ => by grind⟩) :
    Kept m s (setFld t off hi lo v) := h.of_setRegW hoff

/-- A write of a field beside SIZE_GIB (R193). -/
theorem of_setFld_above {off hi lo v : Nat} (h : Kept m s t) (hlo : 6 < lo) (hlock : off ≠ rHbProtLock)
    (hself : off ≠ rHbRoadstead) (hmap : 0x9800 ≤ off) : Kept m s (setFld t off hi lo v) := by
  refine h.trans ⟨id, rfl, rfl, fun hl => ?_, fun _ _ => ⟨fun off' _ hhi => ?_, ?_, ?_⟩⟩
  · rw [locked, fld_setFld_other t hi lo v 0 0 hlock]
    exact hl
  · exact regW_setRegW_other t _ (by omega)
  · exact fld_setFld_other t hi lo v 17 0 hself
  · by_cases hsize : off = rLdAnch
    · subst hsize
      exact fld_setFld_below t _ v hlo (by decide)
    · exact fld_setFld_other t hi lo v 6 0 hsize

theorem of_bump {off hi lo n : Nat} (h : Kept m s t) (hoff : Unguarded m off := by exact ⟨by grind, fun _ => by grind⟩) :
    Kept m s (bump t off hi lo n) := by
  unfold bump
  split
  · exact h
  · exact h.of_setFld hoff

theorem of_bumpMirror {off hi lo n : Nat} (h : Kept m s t) (hoff : Unguarded m off := by exact ⟨by grind, fun _ => by grind⟩) :
    Kept m s (bumpMirror t off hi lo n) := by
  unfold bumpMirror
  split
  · exact h
  · exact (h.of_bump hoff).with_core rfl

end Kept

end Sys2Proof.Machine
end

section
/-!
SUPPORT. What `Kept` says through the shared operations: stores, reads, wakes, counters and alerts (R10, R321, R326, R388, R414).
-/
namespace Sys2Proof.Machine

open Sys2Proof

-- One after another: hundreds of short proofs begun at once would each hold a thread.
set_option Elab.async false

namespace Kept

variable {m : Bool} {s t u : State}

theorem of_addWrap (h : Kept m s t) : Kept m s (addWrap t) := .with_core h rfl

theorem of_watchTick (h : Kept m s t) : Kept m s (watchTick t) :=
  .of_ite h (.of_ite (.of_addWrap (.of_setFld h)) (.of_setFld h))

theorem of_emit {o : Out} (h : Kept m s t) : Kept m s (emit t o) := .with_core h rfl

theorem of_alertEdge {s' : State} (h : Kept m s t) : Kept m s (alertEdge s' t) := by
  unfold alertEdge
  split
  · exact h
  · exact .of_emit h

theorem of_raiseAlert {i : Nat} (h : Kept m s t) : Kept m s (raiseAlert t i) :=
  .of_ite h (.of_ite (.of_emit (.of_alertEdge (.of_setFld h))) (.of_alertEdge (.of_setFld h)))

theorem of_takeReused {p t' : Nat} (h : Kept m s t) : Kept m s (takeReused t p t') := .with_core h rfl

theorem of_leave {e : Egress} (h : Kept m s t) : Kept m s (leave t e) := by
  unfold leave
  dsimp only
  split
  · exact .of_takeReused (.with_core h rfl)
  · exact .of_emit h

theorem of_sendOne {p : Nat} {ch : Channel} (h : Kept m s t) : Kept m s (sendOne t p ch) := by
  unfold sendOne
  refine .of_ite h ?_
  dsimp only
  split
  · exact h
  · exact .of_leave (.with_core h rfl)

theorem of_pumpOne {p : Nat} {done : Credits} (h : Kept m s t) : Kept m s (pumpOne t p done).1 := by
  unfold pumpOne
  dsimp only
  split
  · exact .of_sendOne h
  · split
    · exact h
    · split
      · exact .with_core h rfl
      · exact .of_sendOne (.with_core h rfl)

theorem of_pump {p n : Nat} {done : Credits} (h : Kept m s t) : Kept m s (pump t p done n) := by
  induction n generalizing t done with
  | zero => exact h
  | succ n ih => exact ih (.of_pumpOne h)

theorem of_pumpPort {p : Nat} (h : Kept m s t) : Kept m s (pumpPort t p) := .of_pump h

theorem of_sendPort {p : Nat} {ch : Channel} {m' : PortMsg} (h : Kept m s t) : Kept m s (sendPort t p ch m') :=
  .of_pumpPort (.with_core h rfl)

theorem of_respond {p : Nat} {ch : Channel} {tag : Nat} {st : Resp} {data : List Codeword} (h : Kept m s t) : Kept m s
    (respond t p ch tag st data) :=
  .of_pumpPort (.with_core h rfl)

theorem of_wakeQuay {q : Nat} (h : Kept m s t) : Kept m s (wakeQuay t q) :=
  .of_ite (.with_core h rfl) (.of_ite (.with_core h rfl) h)

theorem of_rouse {e : Nat} (h : Kept m s t) : Kept m s (rouse t e) := .of_ite h (.with_core h rfl)

theorem of_rouseBerth {b : Nat} (h : Kept m s t) : Kept m s (rouseBerth t b) := .of_ite h (.with_core h rfl)

theorem of_rouseUnits {qs : List Nat} (h : Kept m s t) : Kept m s (rouseUnits t qs) := .of_ite h (.with_core h rfl)

theorem of_startWake {home : Nat} (h : Kept m s t) : Kept m s (startWake t home) := by
  unfold startWake
  refine .of_ite h ?_
  split
  · exact .of_wakeQuay h
  · exact h

theorem of_storeRaw {home : Nat} {c : Codeword} (h : Kept m s t) : Kept m s (storeRaw t home c) := by
  have hregs := storeRaw_regs t home c
  exact h.trans ⟨storeRaw_memOk home c, storeRaw_fuses t home c, storeRaw_blown t home c,
    fun hl => (locked_of_regs hregs).trans hl, fun _ _ => .of_regs hregs⟩

theorem of_setBank {b : Nat} {x : Bank} (h : Kept m s t) : Kept m s (setBank t b x) := .with_core h rfl

theorem of_holdWrite {w : HeldWrite} (h : Kept m s t) : Kept m s (holdWrite t w) :=
  .with_core (.foldl (fun _ _ h => .of_startWake h) _ h) rfl

theorem of_shadowGrain {home : Nat} (h : Kept m s t) : Kept m s (shadowGrain t home) := by
  unfold shadowGrain
  dsimp only
  split
  · exact h
  · split
    · exact .of_ite h (.of_setBank h)
    · exact h

theorem of_storeOpen {home : Nat} {c : Codeword} (h : Kept m s t) : Kept m s (storeOpen t home c) :=
  .of_storeRaw (.of_shadowGrain (.of_startWake h))

theorem of_storeWord {home : Nat} {c : Codeword} (h : Kept m s t) : Kept m s (storeWord t home c) :=
  .of_ite (.of_holdWrite h) (.of_storeOpen h)

theorem of_storeGrain {home : Nat} {g : Grain} (h : Kept m s t) : Kept m s (storeGrain t home g) := .of_storeWord h

theorem of_storePoison {home : Nat} (h : Kept m s t) : Kept m s (storePoison t home) := .of_storeWord h

theorem of_recordBad {home : Nat} (h : Kept m s t) : Kept m s (recordBad t home) := .with_core h rfl

theorem of_noteCorrection {home : Nat} (h : Kept m s t) : Kept m s (noteCorrection t home) := .of_ite (.with_core h rfl) h

theorem unguarded_eccEntry (s : State) (home : Nat) : Unguarded m (eccEntry s home) := by
  have hhigh : 0x901000 ≤ eccEntry s home := Nat.le_add_right 0x901000 _
  exact ⟨by omega, fun _ => by omega⟩

theorem of_readGrain {home : Nat} (h : Kept m s t) : Kept m s (readGrain t home).1 := by
  unfold readGrain
  dsimp only
  split
  · exact .of_startWake h
  · exact .of_noteCorrection (.of_bump (.of_storeRaw (.of_startWake h)) (unguarded_eccEntry _ home))
  · exact .of_recordBad (.of_bumpMirror (.of_startWake h) (unguarded_eccEntry _ home))
  · dsimp only
    exact .of_bump (.of_startWake h) (unguarded_eccEntry _ home)

theorem of_readGrains {l : List Nat} (h : Kept m s t) : Kept m s (readGrains t l).1 := by
  induction l generalizing t with
  | nil => exact h
  | cons a l ih => exact ih (.of_readGrain h)

theorem of_readBytes {a n : Nat} (h : Kept m s t) : Kept m s (readBytes t a n).1 := .of_readGrains h

theorem of_writeGrainPart {local0 off : Nat} {bs : List Byte} (h : Kept m s t) : Kept m s (writeGrainPart t local0 off bs) :=
  .of_ite (.of_storeOpen h) (.of_ite (.of_storeOpen (.of_readGrain h)) (.of_storeOpen (.of_readGrain h)))

theorem of_writeBytesN {fuel a : Nat} {bs : List Byte} (h : Kept m s t) : Kept m s (writeBytesN fuel t a bs) := by
  induction fuel generalizing t a bs with
  | zero => exact h
  | succ fuel ih =>
    unfold writeBytesN
    split
    · exact h
    · exact ih (.of_writeGrainPart h)

theorem of_writeBytes {a : Nat} {bs : List Byte} (h : Kept m s t) : Kept m s (writeBytes t a bs) :=
  .of_ite (.of_holdWrite h) (.of_writeBytesN h)

theorem of_writeWords {a : Nat} {ws : List Codeword} (h : Kept m s t) : Kept m s (writeWords t a ws) :=
  .of_ite (.of_holdWrite h) (.foldl (fun _ _ h => .of_storeOpen h) _ h)

theorem of_applyHeld (h : Kept m s t) : Kept m s (applyHeld t) :=
  .foldl (fun _ _ h => .of_ite (.of_writeBytes h) (.of_writeWords h)) _ (.with_core h rfl)

theorem of_keepWakes (h : Kept m s t) : Kept m s (keepWakes t u) := .with_core h rfl

theorem of_attempt {f : State → State} (hf : ∀ u, Kept m s u → Kept m s (f u)) (h : Kept m s t) :
    Kept m s (attempt t f).1 := by
  rcases attempt_cases t f with hdone | hheld
  · rw [hdone]
    exact hf t h
  · rw [hheld]
    exact .of_keepWakes h

theorem of_whole {f : State → State} (hf : ∀ u, Kept m s u → Kept m s (f u)) (h : Kept m s t) :
    Kept m s (whole t f) := .of_attempt hf h

theorem of_read64 {a : Nat} (h : Kept m s t) : Kept m s (read64 t a).1 := .of_readGrain h

theorem of_atomicWord {a : Nat} {f : Nat → Nat} (h : Kept m s t) : Kept m s (atomicWord t a f).1 := by
  unfold atomicWord
  dsimp only
  split
  · exact .of_readGrain h
  · exact .of_storeOpen (.of_readGrain h)

theorem of_drawByte (h : Kept m s t) : Kept m s (drawByte t).1 := .with_core h rfl

theorem of_drawBytes {n : Nat} (h : Kept m s t) : Kept m s (drawBytes n t).1 := by
  induction n generalizing t with
  | zero => exact h
  | succ n ih => exact ih (.of_drawByte h)

theorem of_setWin {w : Nat} {x : Window} (h : Kept m s t) : Kept m s (setWin t w x) := .with_core h rfl

theorem of_setGate {g : Nat} {x : Gate} (h : Kept m s t) : Kept m s (setGate t g x) := .with_core h rfl

theorem of_setPermits {q : Nat} {x : Permits} (h : Kept m s t) : Kept m s (setPermits t q x) := .with_core h rfl

theorem of_putSet {n : Nat} {x : Pset} (h : Kept m s t) : Kept m s (putSet t n x) := .with_core h rfl

theorem of_modSet {n : Nat} {f : Pset → Pset} (h : Kept m s t) : Kept m s (modSet t n f) := by
  unfold modSet
  split
  · exact .of_putSet h
  · exact h

end Kept

end Sys2Proof.Machine
end

section
/-!
SUPPORT. What `Kept` says through completions, detections, packets, watches and gates (R80, R108, R120, R168, R332).
-/
namespace Sys2Proof.Machine

open Sys2Proof

-- One after another: hundreds of short proofs begun at once would each hold a thread.
set_option Elab.async false

namespace Kept

variable {m : Bool} {s t u : State}

theorem of_ringWake {w : Window} (h : Kept m s t) : Kept m s (ringWake t w) := .of_ite h (.with_core (.of_startWake h) rfl)

theorem of_writeReply {r : Reply} (h : Kept m s t) : Kept m s (writeReply t r) :=
  .of_ite (.of_setWin h) (.of_storeGrain (.of_setWin h))

theorem of_addTag {task : Nat} {isGate : Bool} {num value : Nat} (h : Kept m s t) : Kept m s (addTag t task isGate num value) :=
  .with_core h rfl

theorem of_tagObject {task : Nat} {isGate : Bool} {num value : Nat} (h : Kept m s t) : Kept m s
    (tagObject t task isGate num value) :=
  .of_ite (.of_addTag h) h

theorem of_tagBeacon {task k : Nat} (h : Kept m s t) : Kept m s (tagBeacon t task k) := .of_ite (.of_addTag (.of_read64 h)) h

theorem of_attnPulse {k v : Nat} (h : Kept m s t) : Kept m s (attnPulse t k v) := .of_ite (.of_ite (.of_emit h) h) h

theorem of_putCmd {cx : Nat} {r : Running} (h : Kept m s t) : Kept m s (putCmd t cx r) := .with_core h rfl

theorem of_releaseBeacon {task : Nat} {r : Release} (h : Kept m s t) : Kept m s (releaseBeacon t task r).1 := by
  unfold releaseBeacon
  dsimp only
  split
  · exact .of_pair (by assumption) (.of_atomicWord (.of_tagBeacon h))
  · exact .of_pair (by assumption) (.of_atomicWord (.of_tagBeacon h))

theorem of_releaseOpt {task : Nat} {r : Option Release} (h : Kept m s t) : Kept m s (releaseOpt t task r).1 := by
  cases r with
  | none => exact h
  | some r => exact .of_releaseBeacon h

theorem of_postReply {r : Reply} (h : Kept m s t) : Kept m s (postReply t r).1 := by
  unfold postReply
  dsimp only
  split
  · exact .of_releaseOpt h
  · split
    · exact .of_setWin (.of_ringWake h)
    · exact .of_releaseOpt (.of_writeReply h)

theorem of_finishOne {cx status field result : Nat} (h : Kept m s t) : Kept m s (finishOne t cx status field result).1 := by
  unfold finishOne
  dsimp only
  split
  · exact h
  · exact .of_postReply (.with_core h rfl)

theorem of_keepLast {k v : Nat} (h : Kept m s t) : Kept m s (keepLast t k v) := .with_core h rfl

theorem of_runTodo {n : Nat} {l : List Todo} (h : Kept m s t) : Kept m s (runTodo n t l) := by
  induction n generalizing t l with
  | zero => exact h
  | succ n ih =>
    cases l with
    | nil => exact h
    | cons e l =>
      cases e with
      | fin cx st f r => exact ih (.of_finishOne h)
      | changed k v => exact ih (.of_keepLast (.of_attnPulse h))

theorem of_settleTodo {l : List Todo} (h : Kept m s t) : Kept m s (settleTodo t l) := .of_runTodo h

theorem of_complete {cx status result : Nat} (h : Kept m s t) : Kept m s (complete t cx status result) := .of_settleTodo h

theorem of_completeBad {cx status field : Nat} (h : Kept m s t) : Kept m s (completeBad t cx status field) :=
  .of_settleTodo h

theorem of_beaconAtomic {k : Nat} {f : Nat → Nat} (h : Kept m s t) : Kept m s (beaconAtomic t k f).1 := by
  unfold beaconAtomic
  split
  · exact .of_settleTodo (.of_pair (by assumption) (.of_atomicWord h))
  · exact .of_pair (by assumption) (.of_atomicWord h)

theorem of_beaconsWritten {a n : Nat} (h : Kept m s t) : Kept m s (beaconsWritten t a n) := .of_ite (.of_settleTodo h) h

theorem of_fullReply {w : Nat} {p : CmdPkt} (h : Kept m s t) : Kept m s (fullReply t w p) := .of_postReply (.of_setWin h)

theorem of_launch {w port L : Nat} (h : Kept m s t) : Kept m s (launch t w port L).1 := by
  unfold launch
  dsimp only
  split
  · exact .of_fullReply (.of_readGrains h)
  · exact .of_setWin (.with_core (.of_readGrains h) rfl)

theorem of_examine {n w port : Nat} {last : List Nat} (h : Kept m s t) : Kept m s (examine n t w port last) := by
  induction n generalizing t with
  | zero => exact h
  | succ n ih =>
    unfold examine
    dsimp only
    split
    · exact h
    · split
      · split
        · exact ih (.of_launch (.of_readGrain (.of_readGrain h)))
        · exact .of_launch (.of_readGrain (.of_readGrain h))
      · exact .of_readGrain (.of_readGrain h)

theorem of_windowsWritten {port a n : Nat} (h : Kept m s t) : Kept m s (windowsWritten t port a n) :=
  .of_ite (.foldl (fun _ _ h => .of_examine h) _ h) h

theorem of_answerBadOps (h : Kept m s t) : Kept m s (answerBadOps t) := .of_ite (.of_settleTodo h) h

theorem of_judge {u : UnitId} (h : Kept m s t) : Kept m s (judge t u) := by
  unfold judge
  refine .of_ite ?_ h
  dsimp only
  split
  · exact .of_ite (.of_raiseAlert (.with_core h rfl)) (.with_core h rfl)
  · exact .of_setBank (.with_core h rfl)
  · exact .with_core h rfl

theorem of_retireLink {q l : Nat} (h : Kept m s t) : Kept m s (retireLink t q l) :=
  .of_ite h (.of_ite (.of_raiseAlert (.with_core h rfl)) (.with_core h rfl))

theorem of_escalate {u : UnitId} (h : Kept m s t) : Kept m s (escalate t u) :=
  .of_ite (.of_ite (.with_core h rfl) (.with_core h rfl)) h

theorem of_charge {u : UnitId} {kind : Nat} {hash : BitVec 32} (h : Kept m s t) : Kept m s (charge t u kind hash) :=
  .of_judge (.of_bumpMirror (.with_integ h _))

theorem of_detect {u : UnitId} {kind : Nat} {hash : BitVec 32} (h : Kept m s t) : Kept m s (detect t u kind hash) :=
  .of_escalate (.of_charge h)

theorem of_walkThreshold (h : Kept m s t) : Kept m s (walkThreshold t).1 := by
  unfold walkThreshold
  dsimp only
  split
  · exact h
  · exact .with_core h rfl

theorem of_berthThreshold {q : Nat} (h : Kept m s t) : Kept m s (berthThreshold t q).1 := by
  unfold berthThreshold
  dsimp only
  split
  · exact h
  · exact .with_core h rfl

theorem of_countBadPkt (h : Kept m s t) : Kept m s (countBadPkt t) := .of_bumpMirror h

theorem of_sendPacket {p : Packet} (h : Kept m s t) : Kept m s (sendPacket t p) :=
  .of_ite (.with_core (.of_ite (.of_emit h) h) rfl) (.of_ite (.with_core h rfl) (.of_emit h))

theorem of_setSource {key : Nat} {x : Source} (h : Kept m s t) : Kept m s (setSource t key x) := .with_core h rfl

theorem of_countSent {source n : Nat} (h : Kept m s t) : Kept m s (countSent t source n) :=
  .of_ite (.of_setSource h) (.of_setSource h)

theorem of_countAck {source n : Nat} {refused : Bool} (h : Kept m s t) : Kept m s (countAck t source n refused) :=
  .of_ite (.of_countBadPkt (.of_setSource h)) (.of_setSource h)

theorem of_sendCounted {p : Packet} (h : Kept m s t) : Kept m s (sendCounted t p) := .of_sendPacket (.of_countSent h)

theorem of_sendAck {h' : PktHdr} {status : Nat} (h : Kept m s t) : Kept m s (sendAck t h' status) := .of_sendPacket h

theorem of_refusePkt {h' : PktHdr} {status : Nat} (h : Kept m s t) : Kept m s (refusePkt t h' status) :=
  .of_sendAck (.of_ite (.of_bump h) h)

theorem of_keepLate {src : LandSrc} {hdr : BitVec 256} {payload : List Codeword} (h : Kept m s t) : Kept m s
    (keepLate t src hdr payload) := by
  unfold keepLate
  dsimp only
  split
  · exact .of_ite h (.with_core h rfl)
  · exact h

theorem of_withPacket {src : LandSrc} {hdr : BitVec 256} {payload : List Codeword} {want : Packet → Bool}
    {f : State → Packet → State} (hf : ∀ u p, Kept m s u → Kept m s (f u p)) (h : Kept m s t) :
    Kept m s (withPacket t src hdr payload want f) := by
  unfold withPacket
  dsimp only
  split
  · split
    · exact .of_keepLate h
    · exact h
  · split
    · split
      · exact .of_rouse h
      · split
        · exact .of_countBadPkt (.of_rouse h)
        · split
          · exact hf _ _ (.of_rouse h)
          · exact .of_rouse h
    · split
      · exact .of_rouse h
      · split
        · exact .of_rouse h
        · split
          · exact .of_countBadPkt (.with_core (.of_rouse h) rfl)
          · exact hf _ _ (.with_core (.of_rouse h) rfl)

theorem of_pilotPort {port engine : Nat} {m' : BitVec 128} (h : Kept m s t) : Kept m s (pilotPort t port engine m') :=
  .of_ite (.of_sendPort h) h

theorem of_sendGateMsg {dest msg target slot round code cause sender : Nat} (h : Kept m s t) : Kept m s
    (sendGateMsg t dest msg target slot round code cause sender) :=
  .of_sendPacket h

theorem of_countStale {n : Nat} (h : Kept m s t) : Kept m s (countStale t n) := .of_bump h

theorem of_keepPilot {m' : BitVec 128} {qs : List Nat} {pin : Bool} {req : Option (Nat × Nat)} (h : Kept m s t) : Kept m s
    (keepPilot t m' qs pin req) :=
  .of_ite h (.with_core h rfl)

theorem of_tellMembers {g : Nat} {l : List Word} {kind code : Nat} (h : Kept m s t) : Kept m s (tellMembers t g l kind code) :=
  .foldl (fun _ _ h => .of_ite (.of_ite (.of_emit (.of_pilotPort h)) (.of_pilotPort h)) h) _
      (.of_keepPilot (.foldl (fun _ _ h => .of_rouse h) _ h))

theorem of_releaseGate {g : Nat} (h : Kept m s t) : Kept m s (releaseGate t g) :=
  .of_settleTodo (.foldl (fun _ _ h => .of_ite (.of_sendGateMsg h) h) _ (.of_tellMembers (.of_setGate h)))

theorem of_checkGate {g : Nat} (h : Kept m s t) : Kept m s (checkGate t g) :=
  .of_ite (.of_ite (.of_sendGateMsg (.of_setGate h)) (.of_releaseGate h)) h

theorem of_abortGate {g cause code : Nat} {src : AbortFrom} (h : Kept m s t) : Kept m s (abortGate t g cause code src) :=
  .of_ite h (.of_settleTodo (.foldl (fun _ _ h => .of_ite (.of_sendGateMsg h) h) _
      (.of_ite (.of_sendGateMsg (.of_tellMembers (.of_ite (.of_bump (.of_setGate h)) (.of_bump (.of_setGate h)))))
      (.of_tellMembers (.of_ite (.of_bump (.of_setGate h)) (.of_bump (.of_setGate h)))))))

theorem of_expireGate {g : Nat} (h : Kept m s t) : Kept m s (expireGate t g) := .of_ite (.of_abortGate h) h

theorem of_arriveSlot {g slot : Nat} (h : Kept m s t) : Kept m s (arriveSlot t g slot) := .of_checkGate (.of_setGate h)

theorem of_keepEarly {g slot r : Nat} {remote : Bool} (h : Kept m s t) : Kept m s (keepEarly t g slot r remote).1 := by
  unfold keepEarly
  dsimp only
  split
  · exact .of_setGate h
  · split
    · split
      · dsimp only
        exact .of_countStale h
      · exact .of_setGate h
    · split
      · exact .of_settleTodo (.of_countStale (.of_setGate h))
      · dsimp only
        exact .of_countStale h

theorem of_adoptEarly {g r : Nat} {counted : List Nat} (h : Kept m s t) : Kept m s (adoptEarly t g r counted) :=
  .with_core h rfl

theorem of_openGate {g : Nat} {members : List Word} {round code timeout task : Nat} {noTimeout : Bool} {parent : Word}
    (h : Kept m s t) : Kept m s (openGate t g members round code timeout task noTimeout parent).1 :=
  .of_settleTodo (.of_adoptEarly (.of_countStale (.of_setGate h)))

theorem of_execGateOpen {cx : Nat} (h : Kept m s t) : AnswerKept m s (execGateOpen cx t) := by
  unfold execGateOpen
  change Kept m s _
  dsimp only
  split
  · exact h
  · split
    · exact .of_completeBad h
    · exact .of_ite (.of_complete (.of_expireGate h))
          (.of_checkGate (.of_complete (.of_openGate (.of_tagObject (.of_expireGate h)))))

theorem of_gateArriveNow {cx : Nat} {r : Running} {g slot round : Nat} {wait : Bool} (h : Kept m s t) : Kept m s
    (gateArriveNow t cx r g slot round wait) := by
  unfold gateArriveNow
  dsimp only
  split
  · exact .of_completeBad h
  · exact .of_ite (.of_completeBad h) (.of_ite (.of_complete h) (.of_ite (.of_complete h)
        (.of_ite (.of_arriveSlot (.of_putCmd h)) (.of_arriveSlot (.of_complete h)))))

theorem of_execGateArrive {cx : Nat} (h : Kept m s t) : AnswerKept m s (execGateArrive cx t) := by
  unfold execGateArrive
  change Kept m s _
  dsimp only
  split
  · exact h
  · split
    · exact .of_completeBad h
    · split
      · exact .of_gateArriveNow (.of_expireGate h)
      · exact .of_ite (.of_complete (.of_keepEarly (.of_expireGate h))) (.of_ite (.of_putCmd (.of_keepEarly (.of_expireGate h)))
            (.of_complete (.of_keepEarly (.of_expireGate h))))
      · exact .of_complete (.of_expireGate h)
      · exact .of_complete (.of_expireGate h)
      · exact .of_complete (.of_countStale (.of_expireGate h))

theorem of_execGateAbort {cx : Nat} (h : Kept m s t) : AnswerKept m s (execGateAbort cx t) := by
  unfold execGateAbort
  change Kept m s _
  dsimp only
  split
  · exact h
  · split
    · exact .of_completeBad h
    · exact .of_complete (.of_abortGate (.of_expireGate h))

theorem of_execGateExpiry {g : Nat} (h : Kept m s t) : AnswerKept m s (execGateExpiry g t) := .of_expireGate h

theorem of_execEngineGateArrival {engine g : Nat} (h : Kept m s t) : AnswerKept m s (execEngineGateArrival engine g t) := by
  unfold execEngineGateArrival
  change Kept m s _
  refine .of_ite (.of_expireGate h) ?_
  split
  · exact .of_ite (.of_expireGate h) (.of_arriveSlot (.of_expireGate h))
  · exact .of_expireGate h

theorem of_execBeaconWait {cx : Nat} (h : Kept m s t) : AnswerKept m s (execBeaconWait cx t) := by
  unfold execBeaconWait
  change Kept m s _
  dsimp only
  split
  · exact h
  · split
    · exact .of_completeBad h
    · exact .of_ite (.of_complete (.of_readGrain (.of_tagBeacon h))) (.of_ite (.of_complete (.of_readGrain (.of_tagBeacon h)))
          (.of_ite (.of_complete (.of_readGrain (.of_tagBeacon h))) (.of_putCmd (.of_readGrain (.of_tagBeacon h)))))

theorem of_execBeaconWaitTimeout {cx : Nat} (h : Kept m s t) : AnswerKept m s (execBeaconWaitTimeout cx t) := by
  unfold execBeaconWaitTimeout
  change Kept m s _
  split
  · split
    · exact .of_ite (.of_complete h) h
    · exact h
  · exact h

theorem of_tagValues {l : List TaskTag} (h : Kept m s t) : Kept m s (tagValues t l).1 := by
  induction l generalizing t with
  | nil => exact h
  | cons x l ih =>
    unfold tagValues
    dsimp only
    split
    · exact ih h
    · exact ih (.of_read64 h)

theorem of_unrestored {task : Nat} (h : Kept m s t) : Kept m s (unrestored t task).1 := .of_tagValues h

theorem of_dropTags {task : Nat} (h : Kept m s t) : Kept m s (dropTags t task) := .with_core h rfl

theorem of_execTaskClose {cx : Nat} (h : Kept m s t) : AnswerKept m s (execTaskClose cx t) := by
  unfold execTaskClose
  change Kept m s _
  refine .of_whole (fun _ h => ?_) h
  dsimp only
  split
  · exact h
  · split
    · exact .of_completeBad h
    · exact .of_complete (.of_dropTags (.of_ite (.of_writeBytes (.of_unrestored h)) (.of_unrestored h)))

theorem of_execAttnLineEdge {die line : Nat} (h : Kept m s t) : AnswerKept m s (execAttnLineEdge die line t) :=
  .of_ite (.of_beaconAtomic h) h

theorem of_arrivalMsg {orig : Nat} {m' : GateMsg} (h : Kept m s t) : Kept m s (arrivalMsg t orig m') := by
  unfold arrivalMsg
  dsimp only
  split
  · split
    · exact .of_ite (.of_arriveSlot (.of_expireGate h)) (.of_countStale (.of_expireGate h))
    · exact .of_countStale (.of_expireGate h)
  · exact .of_keepEarly (.of_expireGate h)
  · exact .of_countStale (.of_expireGate h)

theorem of_releaseMsg {orig : Nat} {m' : GateMsg} (h : Kept m s t) : Kept m s (releaseMsg t orig m') :=
  .of_ite (.of_releaseGate (.of_expireGate h)) (.of_expireGate h)

theorem of_abortMsg {orig : Nat} {m' : GateMsg} (h : Kept m s t) : Kept m s (abortMsg t orig m') := by
  unfold abortMsg
  refine .of_ite (.of_countStale (.of_expireGate h)) ?_
  split
  · exact .of_abortGate (.of_expireGate h)
  · exact .of_expireGate h

theorem of_onGateMsg {src : LandSrc} {hdr : BitVec 256} {payload : List Codeword} {msg : Nat}
    {f : State → Nat → GateMsg → State} (hf : ∀ u n g, Kept m s u → Kept m s (f u n g)) (h : Kept m s t) :
    Kept m s (onGateMsg t src hdr payload msg f) := by
  unfold onGateMsg
  refine .of_withPacket (fun _ _ h => ?_) h
  split
  · exact hf _ _ _ h
  · exact h

theorem of_execGateArrivalMsg {src : LandSrc} {hdr : BitVec 256} {payload : List Codeword} (h : Kept m s t) : AnswerKept m s
    (execGateArrivalMsg src hdr payload t) :=
  .of_onGateMsg (fun _ _ _ h => .of_arrivalMsg h) h

theorem of_execGateReleaseMsg {src : LandSrc} {hdr : BitVec 256} {payload : List Codeword} (h : Kept m s t) : AnswerKept m s
    (execGateReleaseMsg src hdr payload t) :=
  .of_onGateMsg (fun _ _ _ h => .of_releaseMsg h) h

theorem of_execGateAbortMsg {src : LandSrc} {hdr : BitVec 256} {payload : List Codeword} (h : Kept m s t) : AnswerKept m s
    (execGateAbortMsg src hdr payload t) :=
  .of_onGateMsg (fun _ _ _ h => .of_abortMsg h) h

end Kept

end Sys2Proof.Machine
end

section
/-!
SUPPORT. What `Kept` says through descriptors, parameter sets, the landing engine, the crane and the arena (R143, R172, R210,
R224).
-/
namespace Sys2Proof.Machine

open Sys2Proof

-- One after another: hundreds of short proofs begun at once would each hold a thread.
set_option Elab.async false

namespace Kept

variable {m : Bool} {s t u : State}

theorem of_noteFlush {cl n : Nat} (h : Kept m s t) : Kept m s (noteFlush t cl n) := .of_ite h (.of_setFld h)

theorem of_pickFree {bound : Nat} {used : List Nat} (h : Kept m s t) : Kept m s (pickFree t bound used).1 := by
  unfold pickFree
  dsimp only
  split
  · exact h
  · exact .with_core h rfl

theorem of_turnTd {n : Nat} (h : Kept m s t) : Kept m s (turnTd t n) := by
  unfold turnTd
  dsimp only
  split
  · exact h
  · exact .of_ite (.of_writeBytes (.with_core h rfl)) (.with_core h rfl)

theorem of_turnSet {n : Nat} (h : Kept m s t) : Kept m s (turnSet t n) := .foldl (fun _ _ h => .of_turnTd h) _ h

theorem of_poisonRange {a n : Nat} (h : Kept m s t) : Kept m s (poisonRange t a n) :=
  .foldl (fun _ _ h => .of_storePoison h) _ h

theorem of_cosWriteGrain {n : Nat} {d : TDesc} {home : Nat} {w : Codeword} (h : Kept m s t) : Kept m s
    (cosWriteGrain t n d home w) := by
  unfold cosWriteGrain
  refine .of_ite h ?_
  dsimp only
  split
  · exact .of_poisonRange h
  · exact .of_poisonRange h
  · exact .of_ite (.foldl (fun _ _ h => .of_writeBytes h) _
        (.of_noteFlush (.with_core (.of_writeBytes (.of_writeBytes h)) rfl)))
        (.of_noteFlush (.with_core (.of_writeBytes (.of_writeBytes h)) rfl))

theorem of_cosReadable {d : TDesc} {i cnt : Nat} (h : Kept m s t) : Kept m s (cosReadable t d i cnt).1 :=
  .of_readBytes (.of_readBytes h)

theorem of_cosReadGrain {d : TDesc} {home : Nat} (h : Kept m s t) : Kept m s (cosReadGrain t d home).1 := by
  unfold cosReadGrain
  dsimp only
  split
  · exact .of_cosReadable h
  · exact .of_noteFlush (.of_cosReadable h)

theorem of_execTdCreate {cx : Nat} (h : Kept m s t) : AnswerKept m s (execTdCreate cx t) := by
  unfold execTdCreate
  change Kept m s _
  split
  · exact h
  · dsimp only
    split
    · exact .of_completeBad h
    · split
      · next hpick => exact .of_complete (.of_pair hpick (.of_pickFree h))
      · next hpick => exact .of_complete (.with_tds (.of_pair hpick (.of_pickFree h)) _)

theorem of_execTdDestroy {cx : Nat} (h : Kept m s t) : AnswerKept m s (execTdDestroy cx t) := by
  unfold execTdDestroy
  change Kept m s _
  dsimp only
  split
  · exact h
  · split
    · exact .of_completeBad h
    · split
      · exact h
      · exact .of_ite (.of_complete h) (.of_complete (.with_core h rfl))

theorem of_writeGrain {a : Nat} {c : Codeword} (h : Kept m s t) : Kept m s (writeGrain t a c) := by
  unfold writeGrain
  dsimp only
  split
  · exact .of_cosWriteGrain h
  · exact .of_storeWord h

theorem of_writeGrains {a : Nat} {ws : List Codeword} (h : Kept m s t) : Kept m s (writeGrains t a ws) := by
  induction ws generalizing t a with
  | nil => exact h
  | cons c ws ih => exact ih (.of_writeGrain h)

theorem of_writeMem {port a : Nat} {ws : List Codeword} (h : Kept m s t) : Kept m s (writeMem t port a ws) :=
  .of_windowsWritten (.of_beaconsWritten (.of_writeGrains h))

theorem of_sendNotice {w a n : Nat} {sub : Nat × Nat} (h : Kept m s t) : Kept m s (sendNotice t w a n sub).1 := by
  unfold sendNotice
  dsimp only
  split
  · split
    · exact .with_core h rfl
    · exact h
  · exact .of_sendPort h

theorem of_watchNotices {w : Nat} {x : Watch} {a n : Nat} (h : Kept m s t) : Kept m s (watchNotices t w x a n) := by
  have hsent : Kept m s (x.subs.foldl (fun (p : State × Nat) sub =>
      ((sendNotice p.1 w a n sub).1, p.2 + b2n (sendNotice p.1 w a n sub).2)) (t, 0)).1 := by
    refine .foldl_fst (fun p sub h => ?_) _ h
    exact .of_sendNotice h
  exact .with_core hsent rfl

theorem of_noticeAt {a n : Nat} (h : Kept m s t) : Kept m s (noticeAt t a n) :=
  .foldl (fun _ _ h => .of_ite (.of_watchNotices h) h) _ h

theorem of_landWrite {a : Nat} {ws : List Codeword} (h : Kept m s t) : Kept m s (landWrite t a ws) :=
  .of_noticeAt (.of_beaconsWritten (.of_writeGrains h))

theorem of_execWatchSet {cx : Nat} (h : Kept m s t) : AnswerKept m s (execWatchSet cx t) := by
  unfold execWatchSet
  change Kept m s _
  dsimp only
  split
  · exact h
  · split
    · exact .of_completeBad h
    · exact .of_ite (.of_complete h) (.of_ite (.of_complete h) (.of_complete (.with_core h rfl)))

theorem of_execWatchClear {cx : Nat} (h : Kept m s t) : AnswerKept m s (execWatchClear cx t) := by
  unfold execWatchClear
  change Kept m s _
  dsimp only
  split
  · exact h
  · split
    · exact .of_completeBad h
    · split
      · exact .of_complete h
      · exact .of_ite h (.of_complete (.with_core h rfl))

theorem of_setMan {m' : Nat} {x : Manifest} (h : Kept m s t) : Kept m s (setMan t m' x) := .with_core h rfl

theorem of_noteHigh (h : Kept m s t) : Kept m s (noteHigh t) := by
  unfold noteHigh
  split
  · exact .of_setFld_above h (by decide) (by decide) (by decide) (by decide)
  · exact h

theorem of_addEntry {kind : AnchKind} {man gen addr grains : Nat} {pkt : Option Packet} (h : Kept m s t) : Kept m s
    (addEntry t kind man gen addr grains pkt) :=
  .of_noteHigh (.with_core h rfl)

theorem of_dropEntry {id : Nat} (h : Kept m s t) : Kept m s (dropEntry t id) := .with_core h rfl

theorem of_spillPlace {n : Nat} (h : Kept m s t) : Kept m s (spillPlace t n).1 := by
  unfold spillPlace
  dsimp only
  split
  · exact h
  · split
    · exact .with_core h rfl
    · exact h

theorem of_ackOk {h' : PktHdr} (h : Kept m s t) : Kept m s (ackOk t h') :=
  .of_ite (.with_core h rfl) (.of_sendAck (.with_core h rfl))

theorem of_refuse {h' : PktHdr} {status : Nat} (h : Kept m s t) : Kept m s (refuse t h' status) :=
  .of_ite h (.of_refusePkt h)

theorem of_performFinal {p : Packet} {ok : Bool} (h : Kept m s t) : Kept m s (performFinal t p ok) := by
  unfold performFinal
  dsimp only
  split
  · exact .of_refuse h
  · exact .of_ackOk (.of_landWrite h)

theorem of_dueFinal {e : AnchEntry} {ok : Bool} (h : Kept m s t) : Kept m s (dueFinal t e ok) := by
  unfold dueFinal
  dsimp only
  split
  · exact .of_dropEntry h
  · refine .of_ite ?_ ?_
    · split
      · exact h
      · exact .of_attempt (fun _ h => .of_performFinal (.of_dropEntry h)) h
    · split
      · exact .with_core h rfl
      · exact .with_core (.of_attempt (fun _ h => .of_performFinal (.of_dropEntry h)) h) rfl

theorem of_runFinals {m' g : Nat} {ok : Bool} (h : Kept m s t) : Kept m s (runFinals t m' g ok) :=
  .foldl (fun _ _ h => .of_dueFinal h) _ h

theorem of_retryFinals (h : Kept m s t) : Kept m s (retryFinals t) := by
  unfold retryFinals
  refine .foldl (fun _ _ h => ?_) _ h
  split
  · exact .of_dueFinal h
  · exact h

theorem of_noteMan {m' g : Nat} (h : Kept m s t) : Kept m s (noteMan t m' g) := .with_core h rfl

theorem of_closeMan {m' : Nat} {x : Manifest} (h : Kept m s t) : Kept m s (closeMan t m' x) :=
  .of_ite (.of_setMan h) (.of_runFinals (.of_setMan h))

theorem of_countLanded {m' n : Nat} (h : Kept m s t) : Kept m s (countLanded t m' n) :=
  .of_ite h (.of_ite (.of_closeMan (.of_noteMan h)) (.of_setMan (.of_noteMan h)))

theorem of_countUnnamed {a n : Nat} (h : Kept m s t) : Kept m s (countUnnamed t a n) :=
  .foldl (fun _ _ h => .of_ite (.of_countLanded h) h) _ h

theorem of_putFinalising {m' g : Nat} {f : Option (Manifest → Manifest)} (h : Kept m s t) : Kept m s (putFinalising t m' g f) :=
  .of_ite (.of_setMan h) (.with_core h rfl)

theorem of_finishMan {m' g : Nat} (h : Kept m s t) : Kept m s (finishMan t m' g) :=
  .of_ite (.of_putFinalising (.of_runFinals h)) (.of_noteMan (.of_putFinalising (.of_runFinals h)))

theorem of_retryDue (h : Kept m s t) : Kept m s (retryDue t) := .foldl (fun _ _ h => .of_finishMan h) _ (.of_retryFinals h)

theorem of_writeLading {x : Manifest} {t' : OpenTok} {incomplete : Bool} (h : Kept m s t) : Kept m s
    (writeLading t x t' incomplete) :=
  .of_storeGrain h

theorem of_countTok {x : Manifest} {place : TokPlace} (h : Kept m s t) : Kept m s (countTok t x place) := by
  unfold countTok
  dsimp only
  split
  · exact h
  · exact .of_ite (.of_bump h) (.of_modSet (.of_bump h))
  · exact .of_ite (.of_bump h) (.of_modSet (.of_bump h))

theorem of_failTokens {m' : Nat} {x : Manifest} (h : Kept m s t) : Kept m s (failTokens t m' x) :=
  .foldl (fun _ _ h => .of_writeLading h) _ (.with_core h rfl)

theorem of_openToken {n : Nat} {x : Manifest} {p : Packet} {w : TokHdr} {tok : OpenTok} (h : Kept m s t)
    (hopened : openToken t n x p w = some (u, tok)) : Kept m s u := by
  have hplaced : Kept m s (spillPlace t (x.twidth + 1)).1 := .of_spillPlace h
  rcases hplace : spillPlace t (x.twidth + 1) with ⟨t1, place⟩
  rw [hplace] at hplaced
  simp only [openToken, hplace] at hopened
  split at hopened
  · cases hopened
    exact .of_setMan h
  · split at hopened
    · cases hopened
      exact .of_countTok (.of_setMan h)
    · split at hopened
      · next heq =>
        cases heq
        cases hopened
        exact .of_countTok (.of_setMan (.of_addEntry hplaced))
      · cases hopened

theorem of_placePart {x : Manifest} {t' : OpenTok} {h' : TokHdr} {ws : List Codeword} (h : Kept m s t) : Kept m s
    (placePart t x t' h' ws) := by
  unfold placePart
  split
  · exact .of_landWrite h
  · exact h
  · exact .of_writeGrains h

theorem of_settleToken {x : Manifest} {w : OpenTok} (h : Kept m s t) : Kept m s (settleToken t x w) := by
  unfold settleToken
  split
  · exact .of_writeLading h
  · exact .with_core h rfl

theorem of_tallyNotices {n : Nat} {x : Pset} {k : Nat} {parcels : List Nat} (h : Kept m s t) : Kept m s
    (tallyNotices t n x k parcels) :=
  .of_ite h (.foldl (fun _ _ h => .of_noticeAt h) _ h)

theorem of_addContrib {p : Packet} {x : Pset} (h : Kept m s t) : Kept m s (addContrib t p x) :=
  .of_tallyNotices (.with_core (.of_bump (.of_putSet (.of_bump (.of_rouse (.of_wakeQuay h))))) rfl)

/-- What is kept where a packet is dealt with. -/
def Landed (m : Bool) (s : State) : Machine.Landed → Prop
  | .done t => Kept m s t
  | .stall _ => True

theorem of_park {p : Packet} {g : Nat} (h : Kept m s t) : Kept.Landed m s (park t p g) := by
  unfold park
  split
  · exact of_addEntry h
  · trivial

theorem of_notOpen {p : Packet} {c : GenCase} (h : Kept m s t) : Kept.Landed m s (notOpen t p c) := by
  cases c with
  | newer => exact of_park h
  | failed | finalising | opened | closed | older => exact of_refuse h

theorem of_landPlain {p : Packet} (h : Kept m s t) : Kept.Landed m s (landPlain t p) := by
  -- Unfolded at its arguments, the match on the target's fault would have the kernel evaluate it for a target it does not know.
  generalize hplain : landPlain = f
  delta landPlain at hplain
  subst hplain
  dsimp only
  split
  · exact of_refuse h
  · split
    · split
      · split
        · exact of_refuse h
        · split
          · trivial
          · exact of_ackOk (.of_countLanded (.of_landWrite h))
      · exact of_notOpen h
    · split
      · trivial
      · exact of_ackOk (.of_countUnnamed (.of_landWrite h))

theorem of_landFinal {p : Packet} (h : Kept m s t) : Kept.Landed m s (landFinal t p) := by
  have hkept : ∀ g, Kept.Landed m s
      (if anchFits t p.grains then .done (addEntry t .finalHeld p.hdr.manifest g 0 p.grains (some p)) else .stall true) := by
    intro g
    split
    · exact of_addEntry h
    · trivial
  have hperformed : ∀ ok, Kept.Landed m s
      (if landBlocked t p.target (32 * p.hdr.len) then .stall false else .done (performFinal t p ok)) := by
    intro ok
    split
    · trivial
    · exact of_performFinal h
  unfold landFinal
  dsimp only
  split
  · exact hkept _
  · exact hkept _
  · exact of_park h
  · exact hperformed true
  · exact hperformed false
  · exact of_refuse h

theorem of_landWritePkt {p : Packet} (h : Kept m s t) : Kept.Landed m s (landWritePkt t p) := by
  unfold landWritePkt
  split
  · exact of_refuse h
  · split
    · exact of_landFinal h
    · exact of_landPlain h

/-- A part of a token is placed, and its token is settled. -/
theorem of_landPart {n : Nat} {x : Manifest} {p : Packet} {w : TokHdr} (h : Kept m s t) :
    Kept.Landed m s (landPart t n x p w) := by
  have hput : ∀ (v : State) (y z : Manifest) (o o' : OpenTok) (toks : List OpenTok), Kept m s v → Kept m s
      (ackOk (countLanded (settleToken { placePart v y o w (p.words.drop 1) with
        land := { (placePart v y o w (p.words.drop 1)).land with openToks := toks } } z o') n (32 * p.hdr.len)) p.hdr) :=
    fun v y z o o' toks hv => .of_ackOk (.of_countLanded (.of_settleToken (.with_core (.of_placePart hv) rfl)))
  unfold landPart
  dsimp only
  cases t.land.openToks.find? fun o => o.isOf n x.gen p.hdr.orig w.index with
  | some o =>
    dsimp only
    split
    · trivial
    · exact hput t _ _ o _ _ h
  | none =>
    dsimp only
    split
    · trivial
    · split
      · trivial
      · split
        · next hopened => exact hput _ _ _ _ _ _ (of_openToken h hopened)
        · trivial

theorem of_landToken {p : Packet} (h : Kept m s t) : Kept.Landed m s (landToken t p) := by
  unfold landToken
  split
  · exact of_refuse h
  · split
    · split
      · exact of_refuse h
      · exact of_landPart h
    · exact of_notOpen h

theorem of_landContrib {p : Packet} (h : Kept m s t) : Kept.Landed m s (landContrib t p) := by
  unfold landContrib
  dsimp only
  split
  · exact of_refuse h
  · split
    · exact of_refuse h
    · split
      · exact of_refuse h
      · split
        · exact of_refuse h
        · split
          · split
            · exact of_refuse h
            · split
              · split
                · exact of_addEntry h
                · trivial
              · exact of_ackOk (.of_countLanded (.of_addContrib h))
          · exact of_notOpen h

theorem of_landBulk {p : Packet} (h : Kept m s t) : Kept.Landed m s (landBulk t p) := by
  unfold landBulk
  split
  · exact of_landToken h
  · split
    · exact of_landContrib h
    · exact of_landWritePkt h

/-- A packet that is tried keeps the state where it waits, and where it is dealt with. -/
theorem of_landTry {p : Packet} (h : Kept m s t) : Kept m s (landTry t p).1 ∧ Kept.Landed m s (landTry t p).2 := by
  have hland : Kept.Landed m s (landBulk t p) := of_landBulk h
  unfold landTry
  split
  · exact ⟨h, trivial⟩
  · next hdone =>
    rw [hdone] at hland
    split
    · exact ⟨h, hland⟩
    · exact ⟨.of_keepWakes h, trivial⟩

theorem of_landTry_done {p : Packet} {v : State} (h : Kept m s t) (htry : landTry t p = (v, .done u)) : Kept m s u := by
  have hland := (of_landTry (p := p) h).2
  rwa [htry] at hland

theorem of_landTry_stall {p : Packet} {sp : Bool} (h : Kept m s t) (htry : landTry t p = (u, .stall sp)) : Kept m s u := by
  have hland := (of_landTry (p := p) h).1
  rwa [htry] at hland

theorem of_retryEntry {e : AnchEntry} (h : Kept m s t) : Kept m s (retryEntry t e) := by
  unfold retryEntry
  split
  · exact h
  · split
    · next htry => exact of_landTry_done (.of_dropEntry h) htry
    · exact .with_core h rfl

theorem of_unpark {m' : Nat} (h : Kept m s t) : Kept m s (unpark t m') := by
  unfold unpark
  refine .foldl (fun _ _ h => ?_) _ h
  split
  · exact h
  · exact .of_retryEntry h

theorem of_performOne {w : Released} (h : Kept m s t) : Kept m s (performOne t w) := by
  cases w with
  | contrib e =>
    unfold performOne
    dsimp only
    split
    · next hdone =>
      obtain ⟨p, -, hland⟩ := Option.map_eq_some_iff.1 hdone
      have hkept : Kept.Landed m s (landBulk (dropEntry t e.id) p) := of_landBulk (.of_dropEntry h)
      rwa [hland] at hkept
    · exact h
  | zero n first count => exact .of_modSet h

theorem of_performReleased {n : Nat} (h : Kept m s t) : Kept m s (performReleased t n) :=
  .foldl (fun _ _ h => .of_performOne h) _ (.with_core h rfl)

theorem of_failRange {x : Manifest} (h : Kept m s t) : Kept m s (failRange t x) := .of_modSet h

theorem of_incompleteReply {x : Manifest} (h : Kept m s t) : Kept m s (incompleteReply t x) := .of_postReply h

theorem of_failRest {m' : Nat} {post : Bool} {x : Manifest} (h : Kept m s t) : Kept m s (failRest t m' post x) := by
  unfold failRest
  refine .of_ite (.of_ite (.of_incompleteReply (.of_runFinals ?_)) (.of_runFinals ?_)) ?_
  · split
    · exact .of_attempt (fun _ h => .of_failTokens h) h
    · exact h
  · split
    · exact .of_attempt (fun _ h => .of_failTokens h) h
    · exact h
  · dsimp only
    split
    · exact .with_core (.of_attempt (fun _ h => .of_failTokens h) h) rfl
    · exact .with_core h rfl

theorem of_failMan {m' : Nat} {post : Bool} (h : Kept m s t) : Kept m s (failMan t m' post) :=
  .of_failRest (.of_ite (.of_failRange (.of_bump (.of_noteMan (.of_setMan h)))) (.of_bump (.of_noteMan (.of_setMan h))))

theorem of_retryFailing (h : Kept m s t) : Kept m s (retryFailing t) :=
  .foldl (fun _ _ h => .of_failRest h) _ (.with_core h rfl)

theorem of_expireMan {m' : Nat} (h : Kept m s t) : Kept m s (expireMan t m') := .of_ite (.of_failMan h) h

theorem of_expirePark {e : AnchEntry} (h : Kept m s t) : Kept m s (expirePark t e) := by
  unfold expirePark
  refine .of_ite ?_ h
  split
  · exact .of_refuse (.of_bump (.of_dropEntry h))
  · exact h

theorem of_landTicks (h : Kept m s t) : Kept m s (landTicks t) :=
  .foldl (fun _ _ h => .of_expirePark h) _ (.foldl (fun _ _ h => .of_expireMan h) _ h)

theorem of_arriveBulk {src : LandSrc} {hdr : BitVec 256} {payload : List Codeword} {type : Nat} (h : Kept m s t) :
    Kept m s (arriveBulk t src hdr payload type) := by
  unfold arriveBulk
  dsimp only
  cases src with
  | port n =>
    refine .of_ite h (.of_withPacket (fun v p h => ?_) h)
    split
    · next htry => exact of_landTry_done (.of_landTicks h) htry
    · next htry => exact .with_core (of_landTry_stall (.of_landTicks h) htry) rfl
  | loop i =>
    refine .of_ite h (.of_withPacket (fun v p h => ?_) h)
    split
    · next htry => exact of_landTry_done (.of_landTicks h) htry
    · next htry => exact .with_core (of_landTry_stall (.of_landTicks h) htry) rfl

theorem of_firstLands {l : List (Nat × Packet)} {e : Nat × Packet} (h : Kept m s t) (hfirst : firstLands t l = some (e, u)) :
    Kept m s u := by
  induction l with
  | nil => cases hfirst
  | cons a l ih =>
    have hgone : Kept m s { t with land := { t.land with holds := t.land.holds.erase a } } := h.with_core rfl
    unfold firstLands at hfirst
    split at hfirst
    · next htry =>
      cases hfirst
      exact of_landTry_done hgone htry
    · exact ih hfirst

theorem of_releaseHold {port : Nat} (h : Kept m s t) : Kept m s (releaseHold t port) := by
  have hdue : Kept m s (retryDue (retryFailing t)) := .of_retryDue (.of_retryFailing h)
  unfold releaseHold
  dsimp only
  split
  · exact .foldl (fun _ _ h => .of_unpark h) _ hdue
  · split
    · next hfirst => exact of_firstLands hdue hfirst
    · exact hdue

theorem of_countRead {home : Nat} {g : GrainRead} (h : Kept m s t) : Kept m s (countRead t home g).1 := by
  unfold countRead
  dsimp only
  split
  · exact .of_bump h (unguarded_eccEntry _ home)
  · exact h

theorem of_readBank {home : Nat} (h : Kept m s t) : Kept m s (readBank t home).1 := by
  unfold readBank
  split
  · exact .of_countRead (.of_startWake h)
  · exact .of_readGrain h

theorem of_readDram {home : Nat} (h : Kept m s t) : Kept m s (readDram t home).1 := by
  unfold readDram
  split
  · exact .of_cosReadGrain (.of_startWake h)
  · exact .of_readBank h

theorem of_readMemGrain {a : Nat} (h : Kept m s t) : Kept m s (readMemGrain t a).1 :=
  .of_ite_fst (.of_readDram h) (.of_ite_fst h (.of_readGrain h))

theorem of_readMem {n a : Nat} (h : Kept m s t) : Kept m s (readMem n t a).1 := by
  induction n generalizing t a with
  | zero => exact h
  | succ n ih => exact ih (.of_readMemGrain h)

end Kept

end Sys2Proof.Machine
end

section
/-!
SUPPORT. What `Kept` says through the berth units (R285-R315).
-/
namespace Sys2Proof.Machine

open Sys2Proof

-- One after another: hundreds of short proofs begun at once would each hold a thread.
set_option Elab.async false

namespace Kept

variable {m : Bool} {s t u : State}

theorem of_countEnd {b code : Nat} (h : Kept m s t) : Kept m s (countEnd t b code) :=
  .of_ite (.of_bump h) (.of_ite (.of_bump h) h)

theorem of_dropPermits {b : Nat} (h : Kept m s t) : Kept m s (dropPermits t b) := .of_setPermits h

theorem of_endEntry {o : BOp} {code written : Nat} (h : Kept m s t) : Kept m s (endEntry t o code written) := by
  unfold endEntry
  dsimp only
  split
  · exact h
  · split
    · exact h
    · exact .with_core h rfl

theorem of_statusEnd {b : Nat} {o : BOp} {code written sat flush : Nat} (h : Kept m s t) : Kept m s
    (statusEnd t b o code written sat flush) :=
  .of_setBank h

theorem of_countOp {b : Nat} (h : Kept m s t) : Kept m s (countOp t b) := .with_core h rfl

theorem of_closeOp {b : Nat} {o : BOp} {code written sat flush : Nat} {release : Bool} (h : Kept m s t) : Kept m s
    (closeOp t b o code written sat flush release) :=
  .of_ite (.of_settleTodo (.of_releaseOpt (.of_applyHeld (.of_endEntry (.of_countOp (.of_countEnd (.of_statusEnd h)))))))
      (.of_applyHeld (.of_endEntry (.of_countOp (.of_countEnd (.of_statusEnd h)))))

theorem of_completeBatch {cx : Nat} {r : Running} {mergeBad : Bool} (h : Kept m s t) : Kept m s
    (completeBatch t cx r mergeBad) :=
  .of_complete (.with_core (.of_ite (.of_writeBytes h) h) rfl)

theorem of_tryBatch {cx : Nat} (h : Kept m s t) : Kept m s (tryBatch t cx) := by
  unfold tryBatch
  split
  · exact .of_ite (.of_completeBatch h) h
  · exact h

theorem of_settleBatch {o : BOp} (h : Kept m s t) : Kept m s (settleBatch t o) := by
  unfold settleBatch
  split
  · exact h
  · exact .of_tryBatch h

theorem of_retryBatches (h : Kept m s t) : Kept m s (retryBatches t) := .foldl (fun _ _ h => .of_tryBatch h) _ h

theorem of_startedOp {b : Nat} {o : BOp} (h : Kept m s t) : Kept m s (startedOp t b o) :=
  .of_setBank (.of_rouse (.of_rouseBerth (.of_berthThreshold h)))

theorem of_startRun {n b : Nat} (h : Kept m s t) : Kept m s (startRun n t b) := by
  induction n generalizing t with
  | zero => exact h
  | succ n ih =>
    unfold startRun
    split
    · exact h
    · split
      · exact .of_setPermits (.of_startedOp h)
      · exact ih (.of_settleBatch (.of_closeOp (.of_setBank h)))

theorem of_promote {b : Nat} (h : Kept m s t) : Kept m s (promote t b) := .of_ite (.of_startRun (.of_setBank h)) h

theorem of_endRun {b : Nat} {o : BOp} {code written sat flush : Nat} {release : Bool} (h : Kept m s t) : Kept m s
    (endRun t b o code written sat flush release) :=
  .of_promote (.of_promote (.of_settleBatch (.of_closeOp (.of_dropPermits (.of_setBank h)))))

theorem of_takePlace {b : Nat} {o : BOp} (h : Kept m s t) : Kept m s (takePlace t b o) :=
  .of_ite (.of_startRun (.of_setBank h)) (.of_setBank h)

theorem of_goTakes {b port : Nat} {g : Grain} (h : Kept m s t) : Kept m s (goTakes t b port g) :=
  .of_ite h (.of_ite (.of_closeOp h) (.of_ite (.of_closeOp h) (.of_ite (.of_closeOp h) (.of_takePlace h))))

theorem of_putSlots {b off : Nat} {g : Grain} {bad : Bool} (h : Kept m s t) : Kept m s (putSlots t b off g bad) :=
  .of_setBank h

theorem of_berthWriteGrain {b off port : Nat} {c : Codeword} (h : Kept m s t) : Kept m s (berthWriteGrain t b off port c) := by
  unfold berthWriteGrain
  split
  · exact .of_ite (.of_putSlots h) h
  · exact .of_ite (.of_putSlots h) (.of_ite (.of_goTakes h) h)

theorem of_startChange {b : Nat} {m' : Bool} (h : Kept m s t) : Kept m s (startChange t b m') := .of_setBank h

theorem of_endChange {b : Nat} (h : Kept m s t) : Kept m s (endChange t b) := by
  unfold endChange
  dsimp only
  split
  · exact .of_setBank h
  · exact h

theorem of_grantOp {b : Nat} (h : Kept m s t) : Kept m s (grantOp t b) := by
  unfold grantOp
  dsimp only
  split
  · exact h
  · exact .of_setBank h

theorem of_grantNext {q : Nat} (h : Kept m s t) : Kept m s (grantNext t q) := by
  unfold grantNext
  dsimp only
  split
  · exact h
  · exact .of_ite (.of_ite (.of_grantOp (.of_setPermits h)) (.of_setPermits h)) h

theorem of_readOperands {o : BOp} {b : Nat} {older l : List Nat} {p : State × Grains} (h : Kept m s p.1) :
    Kept m s (readOperands o b older l p).1 := by
  induction l generalizing p with
  | nil => exact h
  | cons key l ih =>
    obtain ⟨v, g⟩ := p
    unfold readOperands
    split
    · exact ih h
    · split
      · exact ih h
      · exact ih (.of_readBank h)

theorem of_padGrain {zero : Bool} {bs : List Byte} (h : Kept m s t) : Kept m s (padGrain t zero bs).1 := by
  unfold padGrain
  dsimp only
  split
  · exact h
  · exact .of_drawBytes h

theorem of_wordsOf {o : BOp} {l : List RGrain} (h : Kept m s t) : Kept m s (wordsOf o l t).1 := by
  induction l generalizing t with
  | nil => exact h
  | cons g l ih =>
    unfold wordsOf
    split
    · exact ih h
    · exact ih (.of_padGrain h)

theorem of_writeResults {b : Nat} {l : List (Nat × Codeword)} (h : Kept m s t) : Kept m s (writeResults t b l) :=
  .foldl (fun _ _ h => .of_storeRaw h) _ h

theorem of_advanceOp {b : Nat} {o : BOp} {older : List Nat} {flips : List Flip} {upto : Option Nat} (h : Kept m s t) : Kept m s
    (advanceOp t b o older flips upto).1 :=
  .with_core (.of_noteFlush (.of_writeResults (.of_wordsOf (.of_readOperands h)))) rfl

theorem of_runOp {b op : Nat} {older : List Nat} {flips : List Flip} (h : Kept m s t) : Kept m s
    (runOp t b op older flips) := by
  unfold runOp
  dsimp only
  split
  · exact h
  · exact .of_ite (.of_ite (.of_setBank (.of_setPermits (.of_advanceOp h))) (.of_endRun (.of_advanceOp h))) h

theorem of_writeAhead {b n : Nat} {older : List Nat} (h : Kept m s t) : Kept m s (writeAhead t b n older) := by
  unfold writeAhead
  dsimp only
  split
  · exact h
  · exact .of_ite (.of_setBank (.of_advanceOp h)) h

theorem of_settleDuplicate {b : Nat} {o : BOp} {first second : List Flip} (h : Kept m s t) : Kept m s
    (settleDuplicate t b o first second) :=
  .of_ite (.of_endRun h) (.of_ite (.of_endRun (.of_detect (.of_bump h)))
      (.of_ite (.of_endRun (.of_detect (.of_writeResults (.of_bump h)))) (.of_endRun (.of_escalate (.of_bump (.of_bump h))))))

theorem of_secondRun {b : Nat} {o : BOp} {flips : List Flip} (h : Kept m s t) : Kept m s (secondRun t b o flips) :=
  .of_setBank (.of_setPermits h)

theorem of_duplicateOp {b : Nat} {first second : List Flip} (h : Kept m s t) : Kept m s (duplicateOp t b first second) := by
  unfold duplicateOp
  dsimp only
  split
  · exact h
  · refine .of_ite ?_ h
    split
    · exact .of_ite (.of_settleDuplicate (.of_rouseBerth (.of_rouseBerth h))) h
    · exact .of_ite h (.of_ite (.of_secondRun (.of_rouseBerth (.of_rouseBerth h))) (.of_settleDuplicate
          (.of_rouseBerth (.of_rouseBerth h))))

theorem of_readPartials {o : BOp} {l : List BEntry} (h : Kept m s t) : Kept m s (readPartials o l t).1 := by
  induction l generalizing t with
  | nil => exact h
  | cons e l ih =>
    unfold readPartials
    split
    · exact ih (.of_readGrains h)
    · exact ih h

end Kept

end Sys2Proof.Machine
end

section
/-!
SUPPORT. What `Kept` says through the exchange engine and the one that serves exports (R194-R208, R270-R278).
-/
namespace Sys2Proof.Machine

open Sys2Proof

-- One after another: hundreds of short proofs begun at once would each hold a thread.
set_option Elab.async false

namespace Kept

variable {m : Bool} {s t u : State}

theorem of_readTable {a n : Nat} (h : Kept m s t) : Kept m s (readTable t a n).1 := .of_readMem h

theorem of_completeAcked {cx status lo refused : Nat} (h : Kept m s t) : Kept m s (completeAcked t cx status lo refused) :=
  .of_complete h

theorem of_freeSpills {m' : Nat} {p : Nat → Bool} (h : Kept m s t) : Kept m s (freeSpills t m' p) := .with_core h rfl

theorem of_ringDone {p : CmdPkt} (h : Kept m s t) : Kept m s (ringDone t p) := .of_freeSpills (.with_core h rfl)

theorem of_tryAcked {cx : Nat} (h : Kept m s t) : Kept m s (tryAcked t cx) := by
  unfold tryAcked
  split
  · exact h
  · split
    · exact .of_ite (.of_ite (.of_complete (.of_ringDone h)) (.of_completeAcked h)) h
    · exact h

theorem of_awaitAcks {cx status lo : Nat} (h : Kept m s t) : Kept m s (awaitAcks t cx status lo) := by
  unfold awaitAcks
  split
  · exact h
  · exact .of_tryAcked (.of_putCmd h)

theorem of_tryAll (h : Kept m s t) : Kept m s (tryAll t) := .foldl (fun _ _ h => .of_tryAcked h) _ h

theorem of_sendBulk {cx : Nat} {h' : PktHdr} {ws : List Codeword} (h : Kept m s t) : Kept m s (sendBulk t cx h' ws) :=
  .of_sendCounted (.with_core h rfl)

theorem of_execRouteLoad {cx : Nat} (h : Kept m s t) : AnswerKept m s (execRouteLoad cx t) := by
  unfold execRouteLoad
  change Kept m s _
  refine .of_whole (fun _ h => ?_) h
  dsimp only
  split
  · exact h
  · split
    · refine .of_completeBad ?_
      split
      · exact h
      · exact .of_readTable h
    · refine .of_ite (.of_complete h) (.of_ite (.of_complete h) (.of_ite (.of_complete ?_) (.of_complete ?_)))
      · split
        · exact h
        · exact .of_readTable h
      · split
        · exact .with_core h rfl
        · exact .with_core (.of_readTable h) rfl

theorem of_sendToken {cx : Nat} {p : CmdPkt} {route : Word} {index user : Nat} {ws : List Codeword} (h : Kept m s t) : Kept m s
    (sendToken t cx p route index user ws) :=
  .foldl (fun _ _ h => .of_sendBulk h) _ h

theorem of_sendChoices {cx first : Nat} {q : CmdPkt} {tbl : List Word} {ws : List Codeword} {l : List (Nat × Nat × Nat)}
    {p : State × Nat} (h : Kept m s p.1) : Kept m s (sendChoices u cx q tbl first ws l p).1 := by
  induction l generalizing p with
  | nil => exact h
  | cons e l ih =>
    obtain ⟨j, e, user⟩ := e
    unfold sendChoices
    split
    · exact ih h
    · split
      · exact ih (.of_sendToken h)
      · exact ih h

theorem of_tokenRoutes {p : CmdPkt} (h : Kept m s t) : Kept m s (tokenRoutes t p).1 := by
  unfold tokenRoutes
  dsimp only
  split
  · exact .of_readTable h
  · exact h

theorem of_sendOneToken {q : CmdPkt} {cx : Nat} {tbl : List Word} {es : List (Option Nat)} {users : List (Option Byte)}
    {p : State × Nat} {i : Nat} (h : Kept m s p.1) : Kept m s (sendOneToken q cx tbl es users p i).1 := by
  unfold sendOneToken
  dsimp only
  exact .of_sendChoices (.of_readMem h)

theorem of_sendTokens {cx : Nat} {p : CmdPkt} {es : List (Option Nat)} {users : List (Option Byte)} (h : Kept m s t) : Kept m s
    (sendTokens t cx p es users).1 :=
  .foldl_fst (fun _ _ h => .of_sendOneToken h) _ h

theorem of_execTokenSend {cx : Nat} (h : Kept m s t) : AnswerKept m s (execTokenSend cx t) := by
  unfold execTokenSend
  change Kept m s _
  refine .of_whole (fun _ h => ?_) h
  dsimp only
  split
  · exact h
  · split
    · exact .of_completeBad (.of_tokenRoutes h)
    · refine .of_ite (.of_complete h) (.of_ite (.of_complete ?_) (.of_awaitAcks (.of_bump (.of_sendTokens ?_))))
      · split
        · exact .of_readTable (.of_tokenRoutes h)
        · exact .of_tokenRoutes h
      · split
        · exact .of_readTable (.of_tokenRoutes h)
        · exact .of_tokenRoutes h

theorem of_sendRow {cx rec : Nat} {ws : List Codeword} (h : Kept m s t) : Kept m s (sendRow t cx rec ws) :=
  .foldl (fun _ _ h => .of_sendBulk h) _ h

theorem of_sendRows {cx rw base : Nat} {lading : List (Option Byte)} {n : Nat} (h : Kept m s t) : Kept m s
    (sendRows t cx rw base lading n) :=
  .foldl (fun _ _ h => .of_ite (.of_sendRow h) (.of_sendRow (.of_readMem h))) _ h

theorem of_execTokenReturn {cx : Nat} (h : Kept m s t) : AnswerKept m s (execTokenReturn cx t) := by
  unfold execTokenReturn
  change Kept m s _
  refine .of_whole (fun _ h => ?_) h
  dsimp only
  split
  · exact h
  · split
    · exact .of_completeBad h
    · exact .of_ite (.of_complete h) (.of_ite (.of_complete h) (.of_ite h (.of_ite (.of_complete (.of_readTable h))
          (.of_awaitAcks (.of_sendRows (.of_readTable h))))))

theorem of_relRing (h : Kept m s t) : Kept m s (relRing t).1 := .of_read64 h

theorem of_sendRelease {cx : Nat} {p : CmdPkt} {x : ReleaseInfo} (h : Kept m s t) : Kept m s (sendRelease t cx p x) :=
  .of_awaitAcks (.of_ite (.of_ite (.of_storeWord h) (.of_ite (.of_beaconsWritten (.of_storeWord h)) h))
      (.of_ite (.of_sendBulk h) h))

theorem of_execBufRelease {cx : Nat} (h : Kept m s t) : AnswerKept m s (execBufRelease cx t) := by
  unfold execBufRelease
  change Kept m s _
  refine .of_whole (fun _ h => ?_) h
  dsimp only
  split
  · exact h
  · split
    · exact .of_ite (.of_relRing h) (.of_sendRelease (.of_relRing h))
    · split
      · exact .of_completeBad h
      · exact .of_ite (.of_complete h) (.of_ite (.of_complete h) (.of_ite (.of_putCmd (.of_relRing h))
            (.of_sendRelease (.of_relRing h))))

theorem of_execBufReleaseTimeout {cx : Nat} (h : Kept m s t) : AnswerKept m s (execBufReleaseTimeout cx t) := by
  unfold execBufReleaseTimeout
  change Kept m s _
  dsimp only
  split
  · exact h
  · split
    · exact .of_ite (.of_complete (.of_relRing h)) (.of_relRing h)
    · exact h

theorem of_gdConsign {cx : Nat} {run : Running} {p : State × Bool} {i : Nat} (h : Kept m s p.1) :
    Kept m s (gdConsign cx run p i).1 := by
  unfold gdConsign
  dsimp only
  split
  · exact h
  · split
    · exact h
    · dsimp only
      exact .of_noteFlush (.of_bump (.of_modSet (.foldl (fun _ _ h => .of_sendBulk h) _
          (.of_bump (.of_readMem (.of_wakeQuay h))))))

theorem of_execGradDispatch {cx : Nat} (h : Kept m s t) : AnswerKept m s (execGradDispatch cx t) := by
  unfold execGradDispatch
  change Kept m s _
  refine .of_whole (fun _ h => ?_) h
  dsimp only
  split
  · exact h
  · split
    · exact .of_completeBad h
    · exact .of_ite (.of_complete h) (.of_ite (.of_complete h) (.of_awaitAcks (.foldl_fst (fun _ _ h => .of_gdConsign h) _
          (.of_modSet h))))

theorem of_touchCtx {n : Nat} (h : Kept m s t) : Kept m s (touchCtx t n) :=
  .of_ite (.with_core h rfl) (.of_ite (.of_bump (.with_core h rfl)) (.with_core h rfl))

theorem of_sendWrites {n src dest a : Nat} {ws : List Codeword} (h : Kept m s t) :
    Kept m s (sendWrites n t src dest a ws) := by
  induction n generalizing t a ws with
  | zero => exact h
  | succ n ih =>
    unfold sendWrites
    split
    · exact h
    · exact ih (.of_sendCounted h)

theorem of_addWaiting {src stage : Nat} {o : ExpOut} (h : Kept m s t) : Kept m s (addWaiting t src stage o) :=
  .with_core h rfl

theorem of_deliver {src : Nat} {place : ExpPlace} {i epoch : Nat} {body : List Byte} {tr : Grain} (h : Kept m s t) : Kept m s
    (deliver t src place i epoch body tr) := by
  unfold deliver
  dsimp only
  split
  · exact .of_writeBytes (.of_rouse h)
  · exact .of_addWaiting (.of_sendWrites (.of_rouse h))
  · exact .of_rouse h

theorem of_serveBlock {ftz : Bool} {src : Nat} {dst : ExpPlace} {r : ExpRange} {i epoch : Nat} {cleared : Bool}
    (h : Kept m s t) : Kept m s (serveBlock t ftz src dst r i epoch cleared) := by
  unfold serveBlock
  dsimp only
  split
  · exact h
  · exact .of_deliver (.with_core (.of_noteFlush (.of_modSet h)) rfl)

theorem of_serveBlocks {ftz : Bool} {src : Nat} {dst : ExpPlace} {r : ExpRange} {l : List Nat} {epoch : Nat} {cleared : Bool}
    (h : Kept m s t) : Kept m s (serveBlocks t ftz src dst r l epoch cleared) :=
  .of_ite h (.foldl (fun _ _ h => .of_serveBlock h) _ (.of_touchCtx h))

theorem of_endPush {cx status : Nat} (h : Kept m s t) : Kept m s (endPush t cx status) := by
  unfold endPush
  split
  · exact h
  · exact .of_awaitAcks h

theorem of_pushAhead {cx : Nat} {l : List Nat} {epoch : Nat} {cleared : Bool} (h : Kept m s t) : Kept m s
    (pushAhead t cx l epoch cleared) := by
  unfold pushAhead
  split
  · exact h
  · split
    · exact .of_putCmd (.of_serveBlocks h)
    · exact h

theorem of_putSub {k : Nat} {u : Sub} (h : Kept m s t) : Kept m s (putSub t k u) := .with_core h rfl

theorem of_writeStatus {k : Nat} (h : Kept m s t) : Kept m s (writeStatus t k) := by
  unfold writeStatus
  dsimp only
  split
  · exact h
  · split
    · exact .of_ite (.of_writeBytes h) h
    · exact .of_ite h (.of_sendCounted h)
    · exact h

theorem of_statusDue {k : Nat} {epoch : Word} (h : Kept m s t) : Kept m s (statusDue t k epoch) := by
  unfold statusDue
  split
  · exact h
  · exact .of_writeStatus (.of_putSub h)

theorem of_expStage {src : Nat} (h : Kept m s t) : Kept m s (expStage t src) := by
  unfold expStage
  refine .of_ite h ?_
  dsimp only
  split
  · exact h
  · refine .foldl (fun _ _ h => ?_) _ (.with_core h rfl)
    split
    · exact .of_sendCounted h
    · exact .of_statusDue h

theorem of_expStages (h : Kept m s t) : Kept m s (expStages t) := .foldl (fun _ _ h => .of_expStage h) _ h

theorem of_subPush {k : Nat} {l : List Nat} {epoch : Nat} {cleared : Bool} (h : Kept m s t) : Kept m s
    (subPush t k l epoch cleared) := by
  unfold subPush
  dsimp only
  split
  · exact h
  · split
    · exact h
    · exact .of_ite h (.of_serveBlocks (.of_putSub h))

theorem of_subDone {k epoch : Nat} (h : Kept m s t) : Kept m s (subDone t k epoch) :=
  .of_ite (.of_addWaiting h) (.of_statusDue h)

theorem of_subInitial {k : Nat} (h : Kept m s t) : Kept m s (subInitial t k) := by
  unfold subInitial
  split
  · exact h
  · split
    · exact h
    · exact .of_subDone (.of_subPush h)

theorem of_subAhead {k : Nat} {only : Option Nat} (h : Kept m s t) : Kept m s (subAhead t k only) := by
  unfold subAhead
  dsimp only
  split
  · exact h
  · split
    · exact h
    · refine .of_ite h ?_
      split
      · exact .of_putSub (.of_subPush h)
      · exact .of_subPush h

theorem of_exportProgress {n c : Nat} (h : Kept m s t) : Kept m s (exportProgress t n c) := by
  unfold exportProgress
  dsimp only
  split
  · exact .foldl (fun _ _ h => .of_subAhead h) _ h
  · exact .foldl (fun _ _ h => .of_pushAhead h) _ (.foldl (fun _ _ h => .of_subAhead h) _ h)

theorem of_exportCommit {n : Nat} (h : Kept m s t) : Kept m s (exportCommit t n) := by
  unfold exportCommit
  dsimp only
  split
  · exact h
  · refine .foldl (fun _ _ h => ?_) _ (.foldl (fun _ _ h => .of_endPush (.of_pushAhead h)) _ h)
    split
    · exact h
    · split
      · exact .of_subDone (.of_putSub (.of_subPush h))
      · exact .of_subPush h

theorem of_exportStop {n : Nat} (h : Kept m s t) : Kept m s (exportStop t n) := by
  refine .foldl (fun _ _ h => ?_) _ h
  exact .of_completeAcked (.with_core h rfl)

theorem of_sendRecall {k : Nat} {u : Sub} {m' : BitVec 128} (h : Kept m s t) : Kept m s (sendRecall t k u m') := by
  unfold sendRecall
  refine .of_writeStatus (.of_putSub (.of_bump ?_))
  dsimp only
  split
  · exact .with_core (.of_pilotPort h) rfl
  · exact .with_core (.of_sendPacket h) rfl
  · exact .with_core h rfl

theorem of_cancelPushes {n c : Nat} {x : Pset} (h : Kept m s t) : Kept m s (cancelPushes t n c x) := .with_core h rfl

theorem of_recallCon {n c : Nat} (h : Kept m s t) : Kept m s (recallCon t n c) := by
  unfold recallCon
  dsimp only
  split
  · exact h
  · refine .foldl (fun _ _ h => .of_ite ?_ h) _ (.foldl (fun _ _ h => ?_) _ (.of_putSet (.of_cancelPushes h)))
    · split
      · exact .of_putCmd h
      · exact h
    · split
      · exact .of_ite h (.of_sendRecall h)
      · exact h

theorem of_countReissued {n : Nat} (h : Kept m s t) : Kept m s (countReissued t n) := .of_bump h

theorem of_reissueCon {n c : Nat} (h : Kept m s t) : Kept m s (reissueCon t n c) := by
  unfold reissueCon
  dsimp only
  split
  · exact h
  · refine .foldl (fun _ _ h => .of_ite h (.of_pushAhead (.of_countReissued h))) _ (.foldl (fun _ _ h => ?_) _ h)
    split
    · exact .of_subPush (.of_putSub (.of_countReissued h))
    · exact h

theorem of_dropAhead {n : Nat} (h : Kept m s t) : Kept m s (dropAhead t n) := by
  unfold dropAhead
  refine .foldl (fun _ _ h => ?_) _ h
  split
  · exact .of_putSub h
  · exact h

theorem of_execExportPush {cx : Nat} (h : Kept m s t) : AnswerKept m s (execExportPush cx t) := by
  unfold execExportPush
  change Kept m s _
  refine .of_whole (fun _ h => ?_) h
  dsimp only
  split
  · exact h
  · split
    · exact .of_completeBad h
    · refine .of_ite (.of_complete h) (.of_ite (.of_endPush (.of_putCmd (.of_serveBlocks h))) ?_)
      split
      · exact .of_pushAhead (.of_putCmd (.of_touchCtx h))
      · exact .of_putCmd (.of_touchCtx h)

theorem of_execExportSub {cx : Nat} (h : Kept m s t) : AnswerKept m s (execExportSub cx t) := by
  unfold execExportSub
  change Kept m s _
  refine .of_whole (fun _ h => ?_) h
  dsimp only
  split
  · exact h
  · split
    · exact .of_completeBad h
    · exact .of_ite (.of_complete h) (.of_ite (.of_complete h)
          (.of_ite (.of_awaitAcks (.of_subAhead (.of_subInitial (.of_putSub (.of_touchCtx h)))))
          (.of_complete (.of_subAhead (.of_putSub (.of_touchCtx h))))))

theorem of_execExportUnsub {cx : Nat} (h : Kept m s t) : AnswerKept m s (execExportUnsub cx t) := by
  unfold execExportUnsub
  change Kept m s _
  refine .of_whole (fun _ h => ?_) h
  dsimp only
  split
  · exact h
  · split
    · exact .of_completeBad h
    · split
      · exact .of_complete h
      · exact .of_ite h (.of_complete (.with_core h rfl))

end Kept

end Sys2Proof.Machine
end

section
/-!
SUPPORT. What `Kept` says through sweeps, the commands of sets and integrity (R213-R231, R262-R265, R328-R345).
-/
namespace Sys2Proof.Machine

open Sys2Proof

-- One after another: hundreds of short proofs begun at once would each hold a thread.
set_option Elab.async false

namespace Kept

variable {m : Bool} {s t u : State}

theorem of_writeEpoch {n : Nat} {f : Epoch → Epoch} {act : EpochAct} (h : Kept m s t) : Kept m s (writeEpoch t n f act) := by
  unfold writeEpoch
  dsimp only
  split
  · exact h
  · exact .with_core (.of_wakeQuay h) rfl

theorem of_releaseRound {n : Nat} (h : Kept m s t) : Kept m s (releaseRound t n) := .of_performReleased (.of_modSet h)

theorem of_writeReport {n : Nat} {x : Pset} {how : RoundEnd} (h : Kept m s t) : Kept m s (writeReport t n x how) := by
  unfold writeReport
  dsimp only
  split
  · exact h
  · split
    · exact .of_putSet h
    · refine .of_writeBytes ?_
      split
      · exact .of_ite (.of_writeBytes (.of_putSet h)) (.of_putSet h)
      · exact .of_putSet h

theorem of_endSweepCmd {n status result : Nat} (h : Kept m s t) : Kept m s (endSweepCmd t n status result) := by
  unfold endSweepCmd
  dsimp only
  split
  · exact .of_awaitAcks (.with_core h rfl)
  · exact h

theorem of_freeCrane {n : Nat} (h : Kept m s t) : Kept m s (freeCrane t n) := .of_ite (.with_core h rfl) h

theorem of_stopWalk {n status result : Nat} (h : Kept m s t) : Kept m s (stopWalk t n status result) :=
  .of_endSweepCmd (.of_exportStop (.of_freeCrane (.of_modSet h)))

theorem of_recallServed {n k : Nat} (h : Kept m s t) : Kept m s (recallServed t n k) :=
  .of_modSet (.of_bump (.of_recallCon h))

theorem of_unstageCon {n k : Nat} (h : Kept m s t) : Kept m s (unstageCon t n k) := by
  unfold unstageCon
  dsimp only
  split
  · exact .of_ite (.of_recallServed h) h
  · exact .of_noteFlush (.of_putSet (.of_ite (.of_recallServed h) h))

theorem of_afterAbandon {n : Nat} {x : Pset} (h : Kept m s t) : Kept m s (afterAbandon t n x) :=
  .of_freeCrane (.of_writeReport (.of_releaseRound h))

theorem of_abandonRound {n : Nat} (h : Kept m s t) : Kept m s (abandonRound t n).1 := by
  unfold abandonRound
  split
  · exact h
  · dsimp only
    exact .of_afterAbandon (.of_writeEpoch (.of_dropAhead (.of_ite (.of_exportStop (.foldl (fun _ _ h => .of_unstageCon h) _ h))
        (.foldl (fun _ _ h => .of_unstageCon h) _ h))))

theorem of_endMissing {n : Nat} (h : Kept m s t) : Kept m s (endMissing t n) := .of_modSet h

theorem of_afterDiffer {n : Nat} {x : Pset} {disputed : Bool} (h : Kept m s t) : Kept m s (afterDiffer t n x disputed) :=
  .of_ite (.of_raiseAlert h) (.of_endSweepCmd (.of_abandonRound (.of_raiseAlert h)))

theorem of_expel {n : Nat} {disputed : Bool} (h : Kept m s t) : Kept m s (expel t n disputed) := by
  unfold expel
  split
  · exact h
  · exact .of_afterDiffer (.of_writeEpoch h)

theorem of_digestGrains {x : Pset} (h : Kept m s t) : Kept m s (digestGrains t x).1 := .of_readGrains h

theorem of_judgeValues {n : Nat} {x : Pset} {l : List Nat} (h : Kept m s t) : Kept m s (judgeValues t n x l) := by
  unfold judgeValues
  refine .of_ite (.of_modSet h) ?_
  dsimp only
  split
  · exact .of_ite (.of_modSet h) (.of_ite (.of_expel (.of_modSet h)) (.of_expel (.of_modSet h)))
  · exact .of_expel (.of_modSet h)

theorem of_judgeSet {n : Nat} (h : Kept m s t) : Kept m s (judgeSet t n) := by
  unfold judgeSet
  dsimp only
  split
  · exact h
  · exact .of_ite h (.of_ite (.of_endMissing (.of_digestGrains h)) (.of_ite (.of_judgeValues (.of_digestGrains h)) h))

theorem of_judgeAll (h : Kept m s t) : Kept m s (judgeAll t) :=
  .of_ite h (.foldl (fun _ _ h => .of_ite (.of_attempt (fun _ h => .of_judgeSet h) h) h) _ h)

theorem of_sendDigest {n step : Nat} (h : Kept m s t) : Kept m s (sendDigest t n step) := by
  unfold sendDigest
  dsimp only
  split
  · exact h
  · exact .of_ite h (.foldl (fun _ _ h => .of_sendCounted h) _ (.of_beaconsWritten
        (.of_storeGrain (.of_modSet (.of_endMissing h)))))

theorem of_commitDigest {n : Nat} {x : Pset} (h : Kept m s t) : Kept m s (commitDigest t n x) :=
  .of_ite h (.of_sendDigest (.of_modSet h))

theorem of_execDigestExchangeTimeout {n : Nat} (h : Kept m s t) : AnswerKept m s (execDigestExchangeTimeout n t) := by
  unfold execDigestExchangeTimeout
  change Kept m s _
  split
  · exact h
  · exact .of_ite (.of_endMissing h) h

theorem of_afterSkip {n : Nat} {x : Pset} (h : Kept m s t) : Kept m s (afterSkip t n x) :=
  .of_endSweepCmd (.of_writeReport (.of_turnSet (.of_releaseRound h)))

theorem of_applySkip {n : Nat} (h : Kept m s t) : Kept m s (applySkip t n) := by
  unfold applySkip
  dsimp only
  split
  · exact h
  · exact .of_afterSkip (.of_writeEpoch h)

theorem of_countHold {q : Nat} (h : Kept m s t) : Kept m s (countHold t q) := by
  unfold countHold
  dsimp only
  split
  · exact .of_ite (.of_modSet (.of_bump h)) h
  · exact h

theorem of_holdCrane {q : Nat} (h : Kept m s t) : Kept m s (holdCrane t q) := .of_countHold (.with_core h rfl)

theorem of_beginHolds (h : Kept m s t) : Kept m s (beginHolds t) := .foldl (fun _ _ h => .of_countHold h) _ h

theorem of_startWalk {cx n : Nat} (h : Kept m s t) : Kept m s (startWalk t cx n) := by
  unfold startWalk
  dsimp only
  split
  · exact .of_ite (.of_noteFlush (.of_beginHolds (.of_putCmd (.with_core h rfl)))) (.of_ite (.of_complete h)
        (.of_noteFlush (.of_beginHolds (.of_putCmd (.with_core (.of_walkThreshold h) rfl)))))
  · exact h

theorem of_toWalk {cx n : Nat} (h : Kept m s t) : Kept m s (toWalk t cx n) := by
  unfold toWalk
  refine .of_ite ?_ (.of_startWalk h)
  dsimp only
  split
  · exact .with_core h rfl
  · exact h

theorem of_execCraneSwitch (h : Kept m s t) : AnswerKept m s (execCraneSwitch t) := by
  unfold execCraneSwitch
  change Kept m s _
  refine .of_whole (fun _ h => .of_ite h ?_) h
  dsimp only
  split
  · split
    · exact .of_startWalk (.with_core h rfl)
    · exact .with_core h rfl
  · exact h

theorem of_proceed {cx n : Nat} (h : Kept m s t) : Kept m s (proceed t cx n) := by
  unfold proceed
  split
  · split
    · exact .of_putCmd h
    · exact .of_putCmd h
    · exact .of_ite (.of_applySkip (.of_putCmd h)) (.of_toWalk h)
    · exact .of_toWalk h
  · exact h

theorem of_advance {n : Nat} (h : Kept m s t) : Kept m s (advance t n) := by
  unfold advance
  split
  · exact .of_proceed h
  · exact h

theorem of_afterDecision {n : Nat} (h : Kept m s t) : Kept m s (afterDecision t n) :=
  .of_ite (.of_attempt (fun _ h => .of_advance h) h) h

theorem of_decideRound {n units nonfinite : Nat} (h : Kept m s t) : Kept m s (decideRound t n units nonfinite) := by
  unfold decideRound
  dsimp only
  split
  · exact h
  · exact .of_afterDecision (.of_putSet h)

theorem of_freeDecision (h : Kept m s t) : Kept m s (freeDecision t).1 := .of_drawBytes h

theorem of_normSentState {n : Nat} {x : Pset} (h : Kept m s t) : Kept m s (normSentState t n x) :=
  .of_putSet (.of_freeDecision h)

theorem of_execNormExchangeStart {n : Nat} (h : Kept m s t) : AnswerKept m s (execNormExchangeStart n t) := by
  unfold execNormExchangeStart
  change Kept m s _
  refine .of_whole (fun _ h => ?_) h
  dsimp only
  split
  · exact h
  · exact .of_ite h (.of_ite (.of_decideRound (.of_advance (.of_normSentState h)))
        (.of_sendPacket (.of_advance (.of_normSentState h))))

theorem of_execNormPacket {src : LandSrc} {hdr : BitVec 256} {payload : List Codeword} (h : Kept m s t) : AnswerKept m s
    (execNormPacket src hdr payload t) := by
  unfold execNormPacket
  change Kept m s _
  refine .of_withPacket (fun _ _ h => ?_) h
  dsimp only
  split
  · exact .of_countBadPkt h
  · split
    · exact .of_countBadPkt h
    · exact .of_ite (.of_decideRound h) (.of_countBadPkt h)

theorem of_noteAddresses {n : Nat} {p : CmdPkt} (h : Kept m s t) : Kept m s (noteAddresses t n p) := .of_modSet h

theorem of_latchSeeds {n : Nat} {r : Running} (h : Kept m s t) : Kept m s (latchSeeds t n r) := .of_modSet h

theorem of_execSweep {cx : Nat} (h : Kept m s t) : AnswerKept m s (execSweep cx t) := by
  unfold execSweep
  change Kept m s _
  refine .of_whole (fun _ h => ?_) h
  split
  · exact h
  · split
    · exact .of_completeBad h
    · exact .of_proceed (.of_latchSeeds (.of_noteAddresses h))

theorem of_hostDecision {n : Nat} {p : CmdPkt} (h : Kept m s t) : Kept m s (hostDecision t n p) := .of_modSet h

theorem of_execSweepResume {cx : Nat} (h : Kept m s t) : AnswerKept m s (execSweepResume cx t) := by
  unfold execSweepResume
  change Kept m s _
  refine .of_whole (fun _ h => ?_) h
  dsimp only
  split
  · exact h
  · split
    · exact .of_completeBad h
    · exact .of_ite (.of_awaitAcks (.of_abandonRound (.of_noteAddresses h)))
          (.of_proceed (.of_ite (.of_hostDecision (.of_modSet (.of_noteAddresses h))) (.of_modSet (.of_noteAddresses h))))

theorem of_execSweepLandTimeout {cx : Nat} (h : Kept m s t) : AnswerKept m s (execSweepLandTimeout cx t) := by
  unfold execSweepLandTimeout
  change Kept m s _
  dsimp only
  split
  · exact h
  · split
    · exact .of_ite (.of_complete (.of_putSet h)) h
    · exact h

theorem of_execSweepNormTimeout {cx : Nat} (h : Kept m s t) : AnswerKept m s (execSweepNormTimeout cx t) := by
  unfold execSweepNormTimeout
  change Kept m s _
  split
  · exact h
  · split
    · exact .of_ite (.of_complete h) h
    · exact h

theorem of_execLossScale {cx : Nat} (h : Kept m s t) : AnswerKept m s (execLossScale cx t) := by
  unfold execLossScale
  change Kept m s _
  refine .of_whole (fun _ h => ?_) h
  dsimp only
  split
  · exact h
  · split
    · exact .of_completeBad h
    · exact .of_ite (.of_complete h) (.of_complete (.of_writeEpoch h))

theorem of_noteWritten {n k : Nat} (h : Kept m s t) : Kept m s (noteWritten t n k) := by
  unfold noteWritten
  dsimp only
  split
  · exact h
  · exact .with_core h rfl

theorem of_afterWrite {n k : Nat} (h : Kept m s t) : Kept m s (afterWrite t n k) := by
  unfold afterWrite
  refine .of_exportProgress ?_
  split
  · exact .of_putCmd (.of_noteWritten h)
  · exact .of_noteWritten h

theorem of_walkEnd {n : Nat} (h : Kept m s t) : Kept m s (walkEnd t n) := by
  unfold walkEnd
  dsimp only
  split
  · exact h
  · exact .of_ite (.of_stopWalk h) h

theorem of_checkStop {n k : Nat} (h : Kept m s t) : Kept m s (checkStop t n k) := .of_stopWalk (.of_bump (.of_modSet h))

theorem of_withdraw {n k : Nat} (h : Kept m s t) : Kept m s (withdraw t n k) := .of_reissueCon (.of_recallServed h)

theorem of_residueHit {n k lane : Nat} {x : Pset} (h : Kept m s t) : Kept m s (residueHit t n k lane x) :=
  .of_detect (.of_bump (.of_putSet h))

theorem of_sweepOne {n k : Nat} {residue : Option Nat} {flips : List Flip} {x : Pset} (h : Kept m s t) : Kept m s
    (sweepOne t n k residue flips x) := by
  unfold sweepOne
  dsimp only
  split
  · exact .of_residueHit h
  · split
    · exact h
    · exact .of_ite (.of_checkStop (.of_putSet h))
          (.of_walkEnd (.of_afterWrite (.of_ite (.of_withdraw (.of_noteFlush (.of_putSet h))) (.of_noteFlush (.of_putSet h)))))

theorem of_useCrane {q : Nat} (h : Kept m s t) : Kept m s (useCrane t q) := .of_rouse (.of_wakeQuay h)

theorem of_execConsignmentSweep {n k : Nat} {residue : Option Nat} {flips : List Flip} (h : Kept m s t) : AnswerKept m s
    (execConsignmentSweep n k residue flips t) := by
  unfold execConsignmentSweep
  change Kept m s _
  refine .of_whole (fun _ h => ?_) h
  dsimp only
  split
  · exact h
  · exact .of_ite h (.of_ite (.of_wakeQuay h) (.of_ite (.of_walkEnd (.of_putSet (.of_bump (.of_useCrane h))))
        (.of_ite (.of_ite (.of_walkEnd (.of_putSet (.of_useCrane h))) (.of_sweepOne (.of_useCrane h)))
        (.of_sweepOne (.of_useCrane h)))))

theorem of_chargeLanes {q : Nat} {x : Pset} {k : Nat} {lanes : List Nat} (h : Kept m s t) : Kept m s
    (chargeLanes t q x k lanes) :=
  .of_escalate (.foldl (fun _ _ h => .of_charge h) _ h)

theorem of_thirdWrites {n k : Nat} {x : Pset} {o : ConOut} {bs : List Byte} {replaces : Bool} (h : Kept m s t) : Kept m s
    (thirdWrites t n k x o bs replaces) :=
  .of_ite (.of_checkStop h) (.of_ite (.of_noteWritten (.of_ite (.of_modSet (.of_withdraw (.of_modSet (.of_putSet h))))
      (.of_modSet (.of_putSet h))))
      (.of_afterWrite (.of_noteFlush (.of_modSet (.of_ite (.of_modSet (.of_withdraw (.of_modSet (.of_putSet h))))
      (.of_modSet (.of_putSet h)))))))

theorem of_passCheck {n k : Nat} (h : Kept m s t) : Kept m s (passCheck t n k) := .of_modSet h

theorem of_execDuplicateCheck {n k : Nat} {partner third : List Flip} (h : Kept m s t) :
    AnswerKept m s (execDuplicateCheck n k partner third t) := by
  unfold execDuplicateCheck
  change Kept m s _
  refine .of_whole (fun _ h => ?_) h
  split
  · exact h
  · refine .of_ite h ?_
    split
    · exact h
    · have hcranes {q q' : Nat} {x : Pset} := of_putSet (n := n) (x := x) (of_useCrane (q := q') (of_useCrane (q := q) h))
      refine .of_ite (.of_ite (.of_walkEnd (.of_thirdWrites (.of_useCrane hcranes)))
        (.of_checkStop (.of_escalate (.of_bump (.of_putSet (.of_useCrane hcranes))))))
        (.of_ite (.of_walkEnd (.of_passCheck hcranes)) ?_)
      exact .of_ite (.of_walkEnd (.of_passCheck (.of_chargeLanes (.of_bump (.of_putSet (.of_useCrane hcranes))))))
        (.of_ite (.of_walkEnd (.of_thirdWrites (.of_chargeLanes (.of_bump (.of_putSet (.of_useCrane hcranes))))))
          (.of_checkStop (.of_escalate (.of_bump (.of_putSet (.of_useCrane hcranes))))))

theorem of_afterCommit {n : Nat} {x : Pset} (h : Kept m s t) : Kept m s (afterCommit t n x) :=
  .of_judgeAll (.of_endSweepCmd
      (.of_freeCrane
      (.of_writeReport (.of_commitDigest (.of_turnSet (.of_releaseRound (.of_exportCommit (.with_core (.of_modSet h) rfl))))))))

theorem of_commitWalk {n : Nat} {x : Pset} (h : Kept m s t) : Kept m s (commitWalk t n x) :=
  .of_afterCommit (.of_writeEpoch h)

theorem of_afterRestore {n : Nat} (h : Kept m s t) : Kept m s (afterRestore t n) :=
  .foldl (fun _ _ h => .of_subInitial h) _ (.of_dropAhead (.of_performReleased h))

theorem of_followEpoch {n : Nat} {act : EpochAct} {x : Pset} (h : Kept m s t) : Kept m s (followEpoch t n act x) := by
  unfold followEpoch
  split
  · exact .of_afterCommit h
  · exact .of_afterSkip h
  · exact .of_afterAbandon h
  · exact .of_releaseRound h
  · exact .of_afterRestore h
  · exact h
  · exact .of_afterDiffer h

theorem of_retrySweeps (h : Kept m s t) : Kept m s (retrySweeps t) := by
  unfold retrySweeps
  refine .of_ite h ?_
  dsimp only
  split
  · refine .of_walkEnd (.of_judgeAll (.foldl (fun _ _ h => ?_) _ h))
    split
    · exact .of_ite (.of_attempt (fun _ h => .of_proceed h) h) h
    · exact h
  · refine .of_judgeAll (.foldl (fun _ _ h => ?_) _ h)
    split
    · exact .of_ite (.of_attempt (fun _ h => .of_proceed h) h) h
    · exact h

theorem of_execCommit {n : Nat} (h : Kept m s t) : AnswerKept m s (execCommit n t) := by
  unfold execCommit
  change Kept m s _
  refine .of_whole (fun _ h => ?_) h
  dsimp only
  split
  · exact h
  · exact .of_ite h (.of_commitWalk h)

theorem of_endHold {n : Nat} {nonfinite : Bool} (h : Kept m s t) : Kept m s (endHold t n nonfinite) := by
  unfold endHold
  dsimp only
  split
  · exact h
  · exact .of_ite h (.of_ite (.with_core h rfl) (.of_putSet h))

theorem of_execRecallHoldTimeout {n : Nat} (h : Kept m s t) : AnswerKept m s (execRecallHoldTimeout n t) := by
  unfold execRecallHoldTimeout
  change Kept m s _
  split
  · exact h
  · exact .of_ite (.of_endHold h) h

theorem of_clearPeers {n : Nat} (h : Kept false s t) : Kept false s (clearPeers t n) :=
  .foldl (m := false) (fun _ _ h => .of_setRegW h ⟨by grind, nofun⟩) _ h

theorem of_readTensors {p : CmdPkt} (h : Kept m s t) : Kept m s (readTensors t p).state := by
  unfold readTensors
  dsimp only
  split
  · exact h
  · exact .of_readTable h

theorem of_dropJournal {n : Nat} (h : Kept m s t) : Kept m s (dropJournal t n) := .with_core h rfl

theorem of_createSet {cx : Nat} {p : CmdPkt} {t' : TensorTab} (h : Kept false s t) : Kept false s (createSet t cx p t') := by
  unfold createSet
  dsimp only
  split
  · exact .of_complete (.of_clearPeers (.of_dropJournal (.of_putSet h)))
  · exact .of_complete h

theorem of_execPsetCreate {cx : Nat} (h : Kept false s t) : AnswerKept false s (execPsetCreate cx t) := by
  unfold execPsetCreate
  change Kept false s _
  refine .of_whole (fun _ h => ?_) h
  dsimp only
  split
  · exact h
  · split
    · exact .of_settleTodo (.of_readTensors h)
    · exact .of_ite (.of_complete h) (.of_ite (.of_complete (.of_readTensors h)) (.of_createSet (.of_readTensors h)))

theorem of_leaveBytes {n : Nat} {x : Pset} (h : Kept m s t) : Kept m s (leaveBytes t n x) :=
  .foldl (fun _ _ h => .of_storeRaw h) _ h

theorem of_destroySet {n : Nat} (h : Kept false s t) : Kept false s (destroySet t n) := by
  unfold destroySet
  refine .of_clearPeers (.of_dropJournal ?_)
  dsimp only
  split
  · exact .with_core (.of_leaveBytes h) rfl
  · exact .with_core h rfl

theorem of_execPsetDestroy {cx : Nat} (h : Kept false s t) : AnswerKept false s (execPsetDestroy cx t) := by
  unfold execPsetDestroy
  change Kept false s _
  dsimp only
  split
  · exact h
  · split
    · exact .of_completeBad h
    · split
      · exact h
      · exact .of_ite (.of_complete h) (.of_complete (.of_destroySet h))

theorem of_execPsetConst {cx : Nat} (h : Kept m s t) : AnswerKept m s (execPsetConst cx t) := by
  unfold execPsetConst
  change Kept m s _
  refine .of_whole (fun _ h => ?_) h
  dsimp only
  split
  · exact h
  · split
    · exact .of_completeBad h
    · split
      · exact h
      · refine .of_ite (.of_complete h) (.of_ite (.of_complete ?_) (.of_complete (.of_modSet ?_)))
        · split
          · exact .of_readTable h
          · exact h
        · split
          · exact .of_readTable h
          · exact h

theorem of_execPsetQuery {cx : Nat} (h : Kept m s t) : AnswerKept m s (execPsetQuery cx t) := by
  unfold execPsetQuery
  change Kept m s _
  refine .of_whole (fun _ h => ?_) h
  dsimp only
  split
  · exact h
  · split
    · exact .of_completeBad h
    · split
      · exact h
      · exact .of_complete (.of_writeBytes h)

theorem of_execCheckFraction {cx : Nat} (h : Kept m s t) : AnswerKept m s (execCheckFraction cx t) := by
  unfold execCheckFraction
  change Kept m s _
  dsimp only
  split
  · exact h
  · split
    · exact .of_completeBad h
    · exact .of_complete (.with_integ (.of_setFld (.of_setFld h)) _)

theorem of_testRun_charge {r : TestRun} {q round : Nat} {us : List Nat} (h : Kept m s t) :
    Kept m s (TestRun.charge r q round us t) := .foldl (fun _ _ h => .of_detect h) _ h

theorem of_rounds {r : TestRun} {q n : Nat} (h : Kept m s t) : Kept m s (TestRun.rounds r t q n).1 := by
  unfold TestRun.rounds
  exact .foldl (fun _ _ h => .foldl (fun _ _ h => .of_detect h) _ h) _ h

theorem of_testQuay {t' : TestRun} {n : Nat} {p : State × List Byte × Nat} {q : Nat} (h : Kept m s p.1) : Kept m s
    (testQuay t' n p q).1 := by
  unfold testQuay
  dsimp only
  split
  · exact .of_rounds (.of_rouse (.of_wakeQuay h))
  · exact .of_drawBytes (.of_rounds (.of_rouse (.of_wakeQuay h)))

theorem of_execFieldTest {cx : Nat} {errors : List TestError} (h : Kept m s t) : AnswerKept m s
    (execFieldTest cx errors t) := by
  unfold execFieldTest
  change Kept m s _
  refine .of_whole (fun _ h => ?_) h
  dsimp only
  split
  · exact h
  · split
    · exact .of_completeBad h
    · exact .of_ite (.of_complete h) (.of_ite (.of_complete h)
          (.of_ite h (.of_complete (.of_writeBytes (.foldl_fst (fun _ _ h => .of_testQuay h) _ h)))))

theorem of_execPatternLoad {cx : Nat} (h : Kept m s t) : AnswerKept m s (execPatternLoad cx t) := by
  unfold execPatternLoad
  change Kept m s _
  refine .of_whole (fun _ h => ?_) h
  dsimp only
  split
  · exact h
  · split
    · exact .of_completeBad h
    · exact .of_ite (.of_complete h) (.of_ite (.of_complete (.of_readTable h))
          (.of_ite (.of_complete (.with_core (.of_readTable h) rfl)) (.of_complete (.of_readTable h))))

theorem of_copyGrain {home : Nat} (h : Kept m s t) : Kept m s (copyGrain t home) := by
  unfold copyGrain
  dsimp only
  split
  · exact h
  · exact .of_noteCorrection (.of_bump (.of_storeRaw h) (unguarded_eccEntry _ home))
  · exact .of_recordBad (.of_bumpMirror (.of_storeRaw h) (unguarded_eccEntry _ home))
  · exact .of_bump h (unguarded_eccEntry _ home)

theorem of_switchRow {b row : Nat} (h : Kept m s t) : Kept m s (switchRow t b row) :=
  .with_integ (.foldl (fun _ _ h => .of_copyGrain h) _ (.of_wakeQuay h)) _

theorem of_execRowRepair {cx : Nat} (h : Kept m s t) : AnswerKept m s (execRowRepair cx t) := by
  unfold execRowRepair
  change Kept m s _
  refine .of_whole (fun _ h => ?_) h
  dsimp only
  split
  · exact h
  · refine .of_ite (.of_ite (.of_complete h) (.of_complete (.of_switchRow h))) ?_
    split
    · exact .of_completeBad h
    · exact .of_ite (.of_complete h) (.of_ite (.of_complete h) (.of_putCmd h))

theorem of_scrubGrain {home : Nat} (h : Kept m s t) : Kept m s (scrubGrain t home).1 := by
  unfold scrubGrain
  cases classify true (tget t.chk home 0) with
  | clean => exact h
  | poison => exact h
  | corrected _ => exact .of_noteCorrection (.of_bump (.of_storeRaw h) (unguarded_eccEntry _ home))
  | uncorrectable => exact .of_recordBad (.of_bumpMirror (.of_storeRaw h) (unguarded_eccEntry _ home))

theorem of_scrubPass {q : Nat} (h : Kept m s t) : Kept m s (scrubPass t q) := .of_ite (.with_integ (.of_bump h) _) h

theorem of_scrubBankRow {b row : Nat} (h : Kept m s t) : Kept m s (scrubBankRow t b row) :=
  .foldl (fun _ _ h => .of_scrubGrain h) _ h

theorem of_execScrubRowVisit {q : Nat} (h : Kept m s t) : AnswerKept m s (execScrubRowVisit q t) := by
  unfold execScrubRowVisit
  change Kept m s _
  refine .of_ite h ?_
  dsimp only
  split
  · exact h
  · exact .of_scrubPass (.with_integ (.of_scrubBankRow h) _)
  · exact .of_scrubPass (.of_setFld (.of_ite (.with_integ h _) (.of_scrubBankRow h)))

theorem of_scrubRange {a n : Nat} (h : Kept m s t) : Kept m s (scrubRange t a n).1 := by
  refine .foldl_fst (fun _ _ h => ?_) _ h
  exact .of_scrubGrain h

theorem of_wakeRange {a n : Nat} (h : Kept m s t) : Kept m s (wakeRange t a n) :=
  .of_ite h (.foldl (fun _ _ h => .of_startWake h) _ h)

theorem of_execScrubRange {cx : Nat} (h : Kept m s t) : AnswerKept m s (execScrubRange cx t) := by
  unfold execScrubRange
  change Kept m s _
  refine .of_whole (fun _ h => ?_) h
  dsimp only
  split
  · exact h
  · split
    · exact .of_completeBad h
    · exact .of_ite (.of_complete h) (.of_ite h (.of_complete (.of_scrubRange (.of_wakeRange h))))

end Kept

end Sys2Proof.Machine
end

section
/-!
SUPPORT. What `Kept` says through continuity and the resets (R353-R370, R393-R398): the lock is lost at Cold alone.
-/
namespace Sys2Proof.Machine

open Sys2Proof

-- One after another: hundreds of short proofs begun at once would each hold a thread.
set_option Elab.async false

namespace Kept

variable {m : Bool} {s t u : State}

theorem of_countPoison {grains : Nat → Nat} {ks : List Nat} (h : Kept m s t) : Kept m s (countPoison t grains ks) :=
  .foldl (fun _ _ h => .of_bump h) _ h

theorem of_reachQuays {ks : List Nat} (h : Kept m s t) : Kept m s (reachQuays t ks) :=
  .foldl (fun _ _ h => .of_wakeQuay h) _ h

theorem of_readsOf {x : Pset} {hdr : Bool} {first count : Nat} (h : Kept m s t) : Kept m s (readsOf t x hdr first count) :=
  .of_countPoison (.of_reachQuays h)

theorem of_execCheckpoint {cx : Nat} (h : Kept m s t) : AnswerKept m s (execCheckpoint cx t) := by
  unfold execCheckpoint
  change Kept m s _
  refine .of_whole (fun _ h => ?_) h
  dsimp only
  split
  · exact h
  · split
    · exact .of_completeBad h
    · split
      · exact h
      · exact .of_ite (.of_complete h) (.of_ite (.of_complete h) (.of_ite (.of_complete (.of_writeWords (.of_readsOf h)))
            (.of_complete (.of_writeWords (.of_readsOf h)))))

theorem of_sendShard {n cx dest a : Nat} {man : Option (Nat × Nat)} {ws : List Codeword} (h : Kept m s t) :
    Kept m s (sendShard n t cx dest a man ws) := by
  induction n generalizing t a ws with
  | zero => exact h
  | succ n ih => exact .of_ite h (ih (.of_sendCounted h))

theorem of_execShardCopy {cx : Nat} (h : Kept m s t) : AnswerKept m s (execShardCopy cx t) := by
  unfold execShardCopy
  change Kept m s _
  refine .of_whole (fun _ h => ?_) h
  dsimp only
  split
  · exact h
  · split
    · exact .of_completeBad h
    · split
      · exact h
      · exact .of_ite (.of_complete h) (.of_awaitAcks (.of_sendShard (.of_readsOf h)))

theorem of_execDigest {cx : Nat} (h : Kept m s t) : AnswerKept m s (execDigest cx t) := by
  unfold execDigest
  change Kept m s _
  refine .of_whole (fun _ h => ?_) h
  dsimp only
  split
  · exact h
  · split
    · exact .of_completeBad h
    · split
      · exact h
      · split
        · exact .of_complete (.of_countPoison (.of_reachQuays h))
        · exact .of_complete (.of_countPoison (.of_reachQuays h))

theorem of_restageIn {ftz : Bool} {seed : BitVec 128} {n k : Nat} (h : Kept m s t) : Kept m s (restageIn ftz seed n t k) := by
  unfold restageIn
  dsimp only
  split
  · exact h
  · exact .of_ite h (.of_noteFlush (.of_putSet h))

theorem of_applyFull {ftz : Bool} {seed : BitVec 128} {n : Nat} {x : Pset} {a : RecAcc} (h : Kept m s t) : Kept m s
    (applyFull t ftz seed n x a) := by
  unfold applyFull
  dsimp only
  split
  · exact h
  · exact .of_afterRestore (.foldl (fun _ _ h => .of_restageIn h) _ (.of_writeEpoch (.of_putSet h)))

theorem of_applyPatch {ftz : Bool} {seed : BitVec 128} {n : Nat} {x : Pset} {a : RecAcc} (h : Kept m s t) : Kept m s
    (applyPatch t ftz seed n x a) :=
  .foldl (fun _ _ h => .of_restageIn (.of_modSet h)) _ h

theorem of_execRestore {cx : Nat} (h : Kept m s t) : AnswerKept m s (execRestore cx t) := by
  unfold execRestore
  change Kept m s _
  refine .of_whole (fun _ h => ?_) h
  dsimp only
  split
  · exact h
  · split
    · refine .of_settleTodo ?_
      split
      · exact .of_readTable h
      · exact h
    · refine .of_ite (.of_complete h) ?_
      split
      · refine .of_ite (.of_complete ?_) ?_
        · split
          · exact .of_readTable h
          · exact h
        · split
          · refine .of_complete ?_
            split
            · exact .of_readTable h
            · exact h
          · split
            · refine .of_complete ?_
              split
              · exact .of_readTable h
              · exact h
            · refine .of_awaitAcks (.of_ite (.of_applyFull (.of_reachQuays ?_)) (.of_applyPatch (.of_reachQuays ?_)))
              · split
                · exact .of_readTable h
                · exact h
              · split
                · exact .of_readTable h
                · exact h
      · exact h

theorem of_execReplay {cx : Nat} {flips : List Flip} (h : Kept m s t) : AnswerKept m s (execReplay cx flips t) := by
  unfold execReplay
  change Kept m s _
  refine .of_whole (fun _ h => ?_) h
  dsimp only
  split
  · exact h
  · split
    · exact .of_completeBad h
    · split
      · exact h
      · refine .of_ite (.of_complete h) ?_
        split
        · exact .of_complete h
        · exact .of_complete (.of_writeWords (.of_noteFlush (.of_modSet (.of_countPoison (.of_reachQuays (.of_reachQuays h))))))

theorem of_snapEngine {tag : Nat} {pin woke : Bool} {e : Nat} (h : Kept m s t) : Kept m s (snapEngine tag pin woke t e) :=
  .of_ite h (.of_setFld (.with_core h rfl))

theorem of_pilotArrive {m' : BitVec 128} {pin : Bool} {req : Option (Nat × Nat)} (h : Kept m s t) : Kept m s
    (pilotArrive t m' pin req) :=
  .of_keepPilot (.of_ite (.foldl (fun _ _ h => .of_snapEngine h) _ (.of_rouseUnits (.foldl (fun _ _ h => .of_rouse h) _ h)))
      (.of_rouseUnits (.foldl (fun _ _ h => .of_rouse h) _ h)))

theorem of_snapOut (h : Kept m s t) : Kept m s (snapOut t) := .of_ite (.of_emit h) h

theorem of_execSnapArm {cx : Nat} (h : Kept m s t) : AnswerKept m s (execSnapArm cx t) := by
  unfold execSnapArm
  change Kept m s _
  dsimp only
  split
  · exact h
  · split
    · exact .of_completeBad h
    · exact .of_ite (.of_complete h) (.of_complete (.of_setRegW h))

theorem of_execSnapIn (h : Kept m s t) : AnswerKept m s (execSnapIn t) := .of_ite (.of_pilotArrive h) h

theorem of_forwardRecall {m' : BitVec 128} (h : Kept m s t) : Kept m s (forwardRecall t m') :=
  .foldl (fun _ _ h => .of_ite (.of_pilotPort h) h) _ h

theorem of_execPilotPacket {src : LandSrc} {hdr : BitVec 256} {payload : List Codeword} (h : Kept m s t) : AnswerKept m s
    (execPilotPacket src hdr payload t) := by
  unfold execPilotPacket
  change Kept m s _
  refine .of_withPacket (fun _ _ h => ?_) h
  dsimp only
  split
  · exact h
  · exact .of_ite (.of_forwardRecall (.of_pilotArrive h)) (.of_ite (.of_snapOut (.of_pilotArrive h)) (.of_pilotArrive h))

end Kept

/-- What a fold of writes leaves at a key. -/
theorem tget_foldl_tput {α : Type} [DecidableEq α] (f : Nat → α) (l : List Nat) (r : Table α) (k : Nat) (d : α) :
    tget (l.foldl (fun r off => tput r off (f off) d) r) k d = if k ∈ l then f k else tget r k d := by
  induction l generalizing r with
  | nil => simp
  | cons off l ih =>
    rw [List.foldl_cons, ih, tget_tput]
    grind

/-- HB_PROT_LOCK keeps its bit through every event narrower than Cold. -/
theorem valueAfter_lock (s : State) (cfg : Table Word) {ev : Nat} (hev : ev ≤ 3) :
    valueAfter s cfg ev rHbProtLock = regW s rHbProtLock &&& 1 := by
  have hrow : regAt rHbProtLock = some (⟨.hbProtLock, 8, 8, 1, [⟨0, 0, .w1s, .cold, false⟩]⟩, 0) := rfl
  have hkept : Fld.lostAt ⟨0, 0, .w1s, .cold, false⟩ ev = false := decide_eq_false (by simp only [Lost.rank]; omega)
  simp [valueAfter, hrow, RegName.perSet, RegRow.maskOf, hkept, Fld.mask]

namespace Kept

variable {m : Bool} {s t u : State}

theorem of_loseRegs {cfg : Table Word} {ev : Nat} (hev : ev ≤ 3) (h : Kept false s t) : Kept false s (loseRegs t cfg ev) := by
  refine .of_alertEdge (h.trans ⟨id, rfl, rfl, fun hl => ?_, nofun⟩)
  have hlock : bits (regW t rHbProtLock) 0 0 = 1 := by simpa [locked, fld] using hl
  have hkey : rHbProtLock ∈ (t.regs ++ cfg ++ t.boot.mirrors).map (·.1) := by
    by_contra hno
    have hnone : tget? t.regs rHbProtLock = none := tget?_eq_none_of_notMem fun hin => hno (by simp_all)
    rw [regW, tget, hnone] at hlock
    exact absurd hlock (by decide)
  rw [locked, fld, regW, tget_foldl_tput, if_pos hkey, valueAfter_lock t cfg hev]
  rw [bits_eq] at hlock
  have hand : regW t rHbProtLock &&& 1 = 1 := by rw [Nat.and_one_is_mod]; omega
  rw [hand]
  rfl

theorem of_loseReg {off : Nat} (h : Kept m s t) (hoff : Unguarded m off := by exact ⟨by grind, fun _ => by grind⟩) :
    Kept m s (loseReg t off) := .of_setRegW h hoff

theorem of_noteLoad (h : Kept m s t) : Kept m s (noteLoad t) :=
  .of_ite (.of_raiseAlert (.of_setFld (.of_setFld (.of_setFld (.with_core h rfl)))))
      (.of_setFld (.of_setFld (.of_setFld (.with_core h rfl))))

theorem of_dropWork {cx : Nat} (h : Kept m s t) : Kept m s (dropWork t cx) := .with_core h rfl

theorem of_abortAll {l : List Nat} (h : Kept m s t) : Kept m s (abortAll t l) :=
  .foldl (fun _ _ h => .of_complete (.of_dropWork h)) _ h

theorem of_bootResult {err : Nat} (h : Kept m s t) : Kept m s (bootResult t err) :=
  .of_ite (.of_answerBadOps (.with_boot (.of_setFld (.of_setFld (.of_setFld (.of_setFld h)))) _))
    (.of_abortAll (.of_raiseAlert (.of_setFld (.of_setFld h))))

theorem of_bootGo (h : Kept m s t) : Kept m s (bootGo t) := by
  unfold bootGo
  refine .of_ite (.of_bootResult ?_) h
  dsimp only
  split
  · exact .with_core (.of_readBytes h) rfl
  · exact .with_core h rfl

theorem of_trainPorts (h : Kept false s t) : Kept false s (trainPorts t) :=
  .of_ite (.with_core (.foldl (m := false) (fun _ _ h => .of_setFld h ⟨by grind, nofun⟩) _ h) rfl) h

theorem of_portReset {p : Nat} (h : Kept false s t) : Kept false s (portReset t p) := by
  have hport : Unguarded false (rHbPortStat p) := ⟨by grind, nofun⟩
  exact .of_ite h (.of_ite (.of_setFld (.of_loseReg (.with_core h rfl) hport) hport) (.of_loseReg (.with_core h rfl) hport))

theorem of_replayJournal (h : Kept m s t) : Kept m s (replayJournal t) := by
  unfold replayJournal
  refine .foldl (fun _ _ h => ?_) _ h
  dsimp only
  split
  · exact .of_ite (.of_attempt (fun _ h => .of_followEpoch (.of_putSet (.of_wakeQuay h))) h) h
  · exact h

theorem of_replayDue (h : Kept m s t) : Kept m s (replayDue t) := .of_ite (.of_replayJournal h) h

theorem of_abortSweeps (h : Kept m s t) : Kept m s (abortSweeps t) :=
  .of_abortAll (.with_core (.foldl (fun _ _ h => .of_modSet h) _ h) rfl)

theorem of_restartHm (h : Kept m s t) : Kept m s (restartHm t) := by
  have hreplayed : ∀ {l}, Kept m s (bumpMirror (replayJournal (abortAll (abortSweeps t) l)) rHbHmStat 47 32 1) :=
    .of_bumpMirror (.of_replayJournal (.of_abortAll (.of_abortSweeps h)))
  exact .of_ite h (.of_ite (.of_answerBadOps (.with_boot hreplayed _))
    (.of_abortAll (.of_raiseAlert (.of_setFld (.of_setFld hreplayed)))))

theorem of_applyPilot {qs : List Nat} {k : KeptPilot} (h : Kept m s t) : Kept m s (applyPilot qs t k) := by
  unfold applyPilot
  refine .of_ite ?_ (.with_core (.of_ite (.foldl (fun _ _ h => .of_snapEngine h) _
      (.of_rouseUnits (.foldl (fun _ _ h => .of_rouse h) _ h))) (.of_rouseUnits (.foldl (fun _ _ h => .of_rouse h) _ h))) rfl)
  split
  · exact .of_respond (.of_ite (.foldl (fun _ _ h => .of_snapEngine h) _
        (.of_rouseUnits (.foldl (fun _ _ h => .of_rouse h) _ h))) (.of_rouseUnits (.foldl (fun _ _ h => .of_rouse h) _ h)))
  · exact .of_ite (.foldl (fun _ _ h => .of_snapEngine h) _ (.of_rouseUnits (.foldl (fun _ _ h => .of_rouse h) _ h)))
        (.of_rouseUnits (.foldl (fun _ _ h => .of_rouse h) _ h))

theorem of_applyPilots {qs : List Nat} (h : Kept m s t) : Kept m s (applyPilots t qs) :=
  .foldl (fun _ _ h => .of_applyPilot h) _ (.with_core h rfl)

theorem of_applyQuayState {cx : Nat} {r : Running} (h : Kept m s t) : Kept m s (applyQuayState t cx r) :=
  .of_ite (.of_ite (.of_putCmd (.with_core (.foldl (fun _ _ h => .of_wakeQuay h) _ h) rfl))
      (.of_complete (.with_core (.foldl (fun _ _ h => .of_wakeQuay h) _ h) rfl))) (.of_ite (.of_putCmd h)
      (.of_ite (.of_complete h) (.of_complete (.with_core h rfl))))

theorem of_retryQuayStates (h : Kept m s t) : Kept m s (retryQuayStates t) := by
  unfold retryQuayStates
  refine .of_ite h (.foldl (fun _ _ h => ?_) _ h)
  split
  · exact .of_applyQuayState h
  · exact h

theorem of_quayActive {q : Nat} (h : Kept m s t) : Kept m s (quayActive t q) :=
  .of_ite (.of_applyPilots (.with_core h rfl)) h

theorem of_abortBank {b : Nat} (h : Kept m s t) : Kept m s (abortBank t b) := by
  unfold abortBank
  dsimp only
  split
  · split
    · exact .of_dropPermits (.of_setBank h)
    · exact .of_settleBatch (.of_closeOp (.of_dropPermits (.of_setBank h)))
  · refine .of_settleBatch (.of_closeOp ?_)
    split
    · exact .of_dropPermits (.of_setBank h)
    · exact .of_settleBatch (.of_closeOp (.of_dropPermits (.of_setBank h)))

theorem of_craneReset {q : Nat} (h : Kept false s t) : Kept false s (craneReset t q) := by
  have hlost : Kept false s (loseReg t (rCrStat q)) := .of_loseReg h ⟨by grind, nofun⟩
  exact .of_abortSweeps (.of_ite hlost (.with_walk hlost _))

theorem of_abortRepairs {q : Nat} (h : Kept m s t) : Kept m s (abortRepairs t q) := .of_abortAll h

theorem of_quayReset {q : Nat} (h : Kept false s t) : Kept false s (quayReset t q) :=
  .of_ite h (.of_retryQuayStates (.of_abortRepairs (.of_craneReset (.foldl (fun _ _ h => .of_abortBank h) _
      (.foldl (fun _ _ h => .of_rouse h) _ (.of_quayActive h))))))

theorem of_landingReset (h : Kept m s t) : Kept m s (landingReset t) := .of_tryAll (.of_expStages (.with_core h rfl))

theorem of_dispatchReset (h : Kept m s t) : Kept m s (dispatchReset t) := .with_core h rfl

theorem of_exportReset (h : Kept m s t) : Kept m s (exportReset t) :=
  .of_tryAll (.foldl (fun _ _ h => .of_subInitial h) _ (.with_core (.of_abortAll h) rfl))

theorem of_engineReset {e : Nat} (h : Kept false s t) : Kept false s (engineReset t e) :=
  .of_ite (.of_ite (.of_rouse h) (.of_retryQuayStates (.of_ite (.of_craneReset (.of_quayActive (.of_rouse h)))
      (.of_quayActive (.of_rouse h))))) (.of_ite (.of_landingReset (.of_rouse h)) (.of_ite (.of_dispatchReset (.of_rouse h))
      (.of_ite (.of_exportReset (.of_rouse h)) (.of_ite (.of_restartHm (.of_rouse h)) (.of_rouse h)))))

theorem of_reloadPeers {c : CfgCopy} {n : Nat} {x : Pset} (h : Kept false s t) : Kept false s (reloadPeers c t n x) :=
  .of_ite (.foldl (fun _ _ h => .of_setRegW h) _ h) h

theorem of_reloadSets {c : CfgCopy} (h : Kept false s t) : Kept false s (reloadSets t c) :=
  .foldl (fun _ _ h => .of_ite (.of_modSet (.of_writeEpoch (.of_reloadPeers (.of_modSet h))))
      (.of_reloadPeers (.of_modSet h))) _ h

theorem of_clearObjects (h : Kept m s t) : Kept m s (clearObjects t) := .with_core h rfl

theorem of_pllLock {ref : Bool} (h : Kept m s t) : Kept m s (pllLock t ref) := .of_setFld (.of_setFld h)

/-- Warm exit keeps DRAM, or no memory (R395). -/
theorem with_warmMem (h : Kept false s t) (keep : Bool) (chk : Table (BitVec 32)) (snap : SnapSt) (boot : BootSt) :
    Kept false s { t with mem := if keep then t.mem.filter (fun e => decide (e.1 < qsramBase)) else [], chk, snap, boot } := by
  refine h.trans ⟨fun hok => ?_, rfl, rfl, id, nofun⟩
  cases keep with
  | false => rfl
  | true => exact memWf_filter _ hok

theorem of_warmNow {keep ref : Bool} (h : Kept false s t) : Kept false s (warmNow t keep ref) := by
  have hsets : Kept false s (if keep then t else { t with sets := [] }) := .of_ite h (.with_core h rfl)
  exact .of_trainPorts (.of_bootResult (.of_reloadSets (.of_replayJournal (.of_pllLock (.of_noteLoad
    (.with_warmMem (.of_loseRegs (Nat.le_refl 3) (.of_clearObjects hsets)) keep _ _ _))))))

theorem of_recordWake {cause : Nat} (h : Kept m s t) : Kept m s (recordWake t cause) := by
  unfold recordWake
  dsimp only
  split
  · exact .of_ite h (.of_setFld (.with_core h rfl))
  · exact .of_ite h (.of_setFld (.with_core h rfl))
  · exact h

theorem of_warmReset {keep ref : Bool} (h : Kept false s t) : Kept false s (warmReset t keep ref) := by
  unfold warmReset
  dsimp only
  split
  · exact .of_warmNow h
  · exact h
  · split
    · exact h
    · exact .with_core (.of_recordWake h) rfl

theorem of_kindReset {kt : Nat × Nat} (h : Kept false s t) : Kept false s (kindReset t kt) := by
  unfold kindReset
  split
  · exact .of_engineReset h
  · exact .of_portReset h
  · exact .of_quayReset h
  · exact .of_warmReset h
  · exact .of_warmReset h
  · exact h

theorem of_orderReset {cause : Nat} {kt : Nat × Nat} (h : Kept false s t) : Kept false s (orderReset t cause kt) := by
  unfold orderReset
  dsimp only
  split
  · exact .of_kindReset h
  · exact h
  · exact .of_ite (.of_kindReset h) (.with_core (.of_recordWake h) rfl)

theorem of_runOrders (h : Kept false s t) : Kept false s (runOrders t) :=
  .foldl (fun _ _ h => .of_orderReset h) _ (.with_core h rfl)

/-- What takes its registers from a later state, and the rest of the core from the earlier one. -/
theorem with_regs {v : State} (h : Kept m s t) (hu : Kept m t u) (hregs : v.regs = u.regs)
    (hcore : (v.mem, v.fuses, v.blown) = (t.mem, t.fuses, t.blown)) : Kept m s v := by
  simp only [Prod.mk.injEq] at hcore
  obtain ⟨hmem, hfuses, hblown⟩ := hcore
  refine h.trans ⟨fun hok => ?_, hfuses, hblown, fun hl => (locked_of_regs hregs).trans (hu.lock hl),
    fun hm hl => (hu.map hm hl).trans (.of_regs hregs)⟩
  rwa [State.memOk, hmem]

theorem of_trainLinks (h : Kept m s t) : Kept m s (trainLinks t) :=
  .with_regs h (.foldl (fun _ _ h => .of_retireLink h) _ (.refl t)) rfl rfl

end Kept

end Sys2Proof.Machine
end

section
/-!
SUPPORT. What `Kept` says through the writes of registers, which a set lock guards (R412), and the requests of host ports
(R45-R62).
-/
namespace Sys2Proof.Machine

open Sys2Proof

-- One after another: hundreds of short proofs begun at once would each hold a thread.
set_option Elab.async false

namespace Kept

variable {m : Bool} {s t u : State}

end Kept

/-- Where a register is found. -/
theorem regAtIn_some {l : List RegRow} {off i : Nat} {r : RegRow} (h : regAtIn l off = some (r, i)) :
    r ∈ l ∧ off = r.base + r.stride * i ∧ i < r.count := by
  induction l with
  | nil => cases h
  | cons a l ih =>
    rw [regAtIn] at h
    split at h
    · rename_i hat
      obtain ⟨hlo, hmod, hcount⟩ := hat
      obtain ⟨rfl, rfl⟩ := Prod.mk.inj (Option.some.inj h)
      have hdiv := Nat.div_add_mod (off - a.base) a.stride
      exact ⟨List.mem_cons_self, by omega, hcount⟩
    · obtain ⟨hmem, hoff⟩ := ih h
      exact ⟨List.mem_cons_of_mem _ hmem, hoff⟩

/-- The fields of the map's registers are all RWL (Table 20-13). -/
theorem map_rows_rwl : ∀ r ∈ regTable, r.base + r.stride * r.count < 0x8000 ∨ 0x9800 ≤ r.base ∨ ∀ f ∈ r.fields, f.acc =
    .rwl := by
  decide +kernel

theorem storedWrite_rwl {r : RegRow} (hrwl : ∀ f ∈ r.fields, f.acc = .rwl) (old v : Nat) : storedWrite true r old v = old := by
  unfold storedWrite
  generalize r.fields = l at hrwl
  induction l with
  | nil => rfl
  | cons f l ih =>
    simp only [List.foldl_cons, hrwl f List.mem_cons_self, if_true]
    exact ih fun g hg => hrwl g (List.mem_cons_of_mem _ hg)

theorem regW_setRegW_self (s : State) (off off' : Nat) : regW (setRegW s off (regW s off)) off' = regW s off' := by
  by_cases hoff : off = off'
  · subst hoff
    rw [regW_setRegW]
    exact Nat.mod_eq_of_lt (BitVec.isLt _)
  · exact regW_setRegW_other s _ hoff

/-- A register that a set lock leaves alone stays as it is. -/
theorem plainWrite_map {s : State} {r : RegRow} {i off : Nat} (v : Nat) (hl : locked s = true) (hrow : regAt off = some (r, i))
    (hlo : 0x8000 ≤ off) (hhi : off < 0x9800) (off' : Nat) : regW (plainWrite s r off v) off' = regW s off' := by
  obtain ⟨hmem, hoff, hi⟩ := regAtIn_some hrow
  have hle : r.stride * i ≤ r.stride * r.count := Nat.mul_le_mul_left _ hi.le
  obtain hbelow | habove | hrwl := map_rows_rwl r hmem
  · omega
  · omega
  · rw [plainWrite, hl, storedWrite_rwl hrwl, regW_setRegW_self]

/-- LOCK is set by a write of 1 and cleared by none (Table 20-13). -/
theorem plainWrite_lock {s : State} {r : RegRow} {i : Nat} (v : Nat) (hl : locked s = true)
    (hrow : regAt rHbProtLock = some (r, i)) : locked (plainWrite s r rHbProtLock v) = true := by
  have hrow' : regAt rHbProtLock = some (⟨.hbProtLock, 8, 8, 1, [⟨0, 0, .w1s, .cold, false⟩]⟩, 0) := rfl
  obtain ⟨rfl, -⟩ := Prod.mk.inj (Option.some.inj (hrow.symm.trans hrow'))
  have hbit : bits (regW s rHbProtLock) 0 0 = 1 := by simpa [locked, fld] using hl
  have hor : (1 ||| bits v 0 0) % 2 = 1 := by rw [Nat.or_mod_two_eq_one]; exact .inl rfl
  rw [locked, fld, plainWrite, regW_setRegW, bits_mod_two_pow_64 _ (by decide)]
  simp only [storedWrite, List.foldl_cons, List.foldl_nil, bits_putBits, hbit]
  rw [show 2 ^ (0 + 1 - 0) = 2 from rfl, hor]
  rfl

namespace Kept

variable {m : Bool} {s t u : State}

/-- While LOCK is clear nothing is guarded. -/
theorem of_setRegW_open {off v : Nat} (h : Kept m s t) (hl : locked t = false) : Kept m s (setRegW t off v) :=
  have hopen : locked s ≠ true := fun hs => Bool.false_ne_true (hl.symm.trans (h.lock hs))
  ⟨h.form, h.fuses, h.blown, fun hs => absurd hs hopen, fun _ hs => absurd hs hopen⟩

theorem of_plainWrite {r : RegRow} {i off v : Nat} (h : Kept m s t) (hrow : regAt off = some (r, i))
    (hself : off ≠ rHbRoadstead)
    (hsize : off ≠ rLdAnch) : Kept m s (plainWrite t r off v) := by
  cases hl : locked t with
  | false => exact h.of_setRegW_open hl
  | true =>
    have hother {off'} (hne : off ≠ off') : regW (plainWrite t r off v) off' = regW t off' := regW_setRegW_other t _ hne
    refine h.trans ⟨id, rfl, rfl, fun _ => ?_, fun _ _ => ⟨fun off' hlo hhi => ?_, congrArg (bits · 17 0) (hother hself),
      congrArg (bits · 6 0) (hother hsize)⟩⟩
    · by_cases hlock : off = rHbProtLock
      · subst hlock
        exact plainWrite_lock v hl hrow
      · rw [locked, fld, hother hlock]
        exact hl
    · by_cases hoff : off = off'
      · exact plainWrite_map v hl hrow (hoff ▸ hlo) (hoff ▸ hhi) off'
      · exact hother hoff

theorem of_writeCmdw {w v : Nat} (h : Kept m s t) : Kept m s (writeCmdw t w v) := .of_setWin h

theorem of_writeCmdr {w v : Nat} (h : Kept m s t) : Kept m s (writeCmdr t w v) := .of_ite h (.of_setWin h)

theorem of_writeCmdc {w v : Nat} (h : Kept m s t) : Kept m s (writeCmdc t w v) := .of_ite h (.of_setWin h)

theorem of_writeAnch {v : Nat} (h : Kept m s t) : Kept m s (writeAnch t v) := by
  have hmib : Kept m s (setFld t rLdAnch 48 32 (bits v 48 32)) :=
    h.of_setFld_above (by decide) (by decide) (by decide) (by decide)
  cases hl : locked t with
  | false =>
    refine .of_ite (hmib.of_setRegW_open ?_) hmib
    rw [locked, fld_setFld_other _ _ _ _ _ _ (by decide)]
    exact hl
  | true =>
    rw [writeAnch, hl]
    exact hmib

/-- A write of a field of HB_ROADSTEAD above SELF. -/
theorem of_setFld_roadstead {off hi lo v : Nat} (h : Kept m s t) (hoff : off = rHbRoadstead) (hlo : 17 < lo) :
    Kept m s (setFld t off hi lo v) := by
  have hlock : off ≠ rHbProtLock := by rw [hoff]; decide
  have hmap : off < 0x8000 := by rw [hoff]; decide
  have hsize : off ≠ rLdAnch := by rw [hoff]; decide
  refine h.trans ⟨id, rfl, rfl, fun hl => ?_, fun _ _ => ⟨fun off' hmin _ => ?_, ?_, fld_setFld_other t hi lo v 6 0 hsize⟩⟩
  · rw [locked, fld_setFld_other t hi lo v 0 0 hlock]
    exact hl
  · exact regW_setRegW_other t _ (by omega)
  · subst hoff
    exact fld_setFld_below t _ v hlo (by decide)

theorem of_writeRoadstead {v : Nat} (h : Kept m s t) : Kept m s (writeRoadstead t v) := by
  have hself : Kept m s (if locked t then t else setFld t rHbRoadstead 17 0 (bits v 17 0)) := by
    cases hl : locked t with
    | false => exact h.of_setRegW_open hl
    | true => exact h
  unfold writeRoadstead
  dsimp only
  split
  · exact hself
  · generalize (if locked t then t else setFld t rHbRoadstead 17 0 (bits v 17 0)) = t1 at hself
    exact hself.of_setFld_roadstead rfl (by decide)

theorem of_writePresent {r : RegRow} {i off v : Nat} (h : Kept m s t) (hrow : regAt off = some (r, i)) :
    Kept m s (writePresent t r i off v) := by
  have hplain (hself : r.name ≠ .hbRoadstead) (hsize : r.name ≠ .ldAnch) : Kept m s (plainWrite t r off v) := by
    refine h.of_plainWrite hrow (fun hoff => hself ?_) (fun hoff => hsize ?_)
    · have hrow' : (regAt rHbRoadstead).map (·.1.name) = some .hbRoadstead := rfl
      simpa [← hoff, hrow] using hrow'
    · have hrow' : (regAt rLdAnch).map (·.1.name) = some .ldAnch := rfl
      simpa [← hoff, hrow] using hrow'
  unfold writePresent
  refine .of_ite h ?_
  split
  case h_1 => exact .of_writeRoadstead h
  case h_2 heq => exact .of_ite (.of_bootGo (hplain (by simp [heq]) (by simp [heq]))) (hplain (by simp [heq]) (by simp [heq]))
  case h_3 => exact .of_turnTd h
  case h_4 => exact .with_boot h _
  case h_5 => exact .of_setRegW (.of_setRegW h)
  case h_6 => exact .with_boot h _
  case h_7 => exact .of_setRegW (.of_setRegW h)
  case h_8 => exact .of_writeCmdw h
  case h_9 => exact .of_writeCmdr h
  case h_10 => exact .of_writeCmdc h
  case h_17 heq => exact .of_ite (hplain (by simp [heq]) (by simp [heq])) h
  case h_18 => exact .of_writeAnch h
  case h_19 => exact .of_endHold h
  case h_20 hself _ _ _ _ _ _ _ _ _ _ _ _ _ _ _ _ hsize _ => exact hplain hself hsize
  all_goals exact .of_modSet h

theorem of_writeReg {off v : Nat} (h : Kept m s t) : Kept m s (writeReg t off v).1 := by
  unfold writeReg
  split
  · exact h
  · next hrow => exact .of_ite_fst (.of_writePresent h hrow) h

theorem of_writeRegs {l : List Nat} {off : Nat} (h : Kept m s t) : Kept m s (writeRegs l t off).1 := by
  induction l generalizing t off with
  | nil => exact h
  | cons v l ih => exact ih (.of_writeReg h)

theorem of_sideband {status : Nat} {data : List Byte} (h : Kept m s t) : Kept m s (sideband t status data) := .of_emit h

theorem of_takeFinal {r : HeldReq} (h : Kept false s t) (hdone : takeFinal t r = some u) : Kept false s u := by
  unfold takeFinal at hdone
  split at hdone
  · next heq =>
    cases hdone
    exact .of_landTry_done (.of_landTicks (.of_rouse h)) heq
  · cases hdone

theorem of_removeReq {r : Request} (h : Kept false s t) : Kept false s (removeReq t r) := .with_core h rfl

theorem of_answer {r : Request} {st : Resp} {data : List Codeword} (h : Kept false s t) : Kept false s (answer t r st data) :=
  .of_respond h

theorem of_serveRead {r : Request} {g : Region} (h : Kept false s t) : Kept false s (serveRead t r g) := by
  unfold serveRead
  dsimp only
  split
  · exact .of_answer h
  · exact .of_answer h
  · exact .of_answer h
  · exact .of_answer (.of_readMem h)

theorem of_serveAtomic {r : Request} (h : Kept false s t) : Kept false s (serveAtomic t r) := by
  unfold serveAtomic
  dsimp only
  split
  · refine .of_answer (.of_judgeAll ?_)
    split
    · exact .of_beaconAtomic h
    · exact .of_atomicWord h
  · refine .of_answer ?_
    split
    · exact .of_beaconAtomic h
    · exact .of_atomicWord h

theorem of_writeWindow {b off port : Nat} {ws : List Codeword} (h : Kept false s t) : Kept false s
    (writeWindow t b off port ws) :=
  .foldl (fun _ _ h => .of_berthWriteGrain h) _ h

theorem of_serveRegWrite {r : Request} (h : Kept false s t) : Kept false s (serveRegWrite t r) :=
  .with_core (.of_answer (.of_writeRegs h)) rfl

theorem of_serveWrite {r : Request} {g : Region} (h : Kept false s t) : Kept false s (serveWrite t r g) := by
  unfold serveWrite
  dsimp only
  split
  · exact .of_serveRegWrite h
  · exact .of_answer h
  · exact .of_answer (.of_writeWindow h)
  · exact .of_answer (.of_ite (.of_judgeAll (.of_ite h (.of_writeMem h))) (.of_ite h (.of_writeMem h)))

theorem of_sendAway {r : Request} (h : Kept false s t) : Kept false s (sendAway t r) :=
  .of_ite (.of_answer h) (.of_answer (.of_sendCounted h))

theorem of_endFnl {r : Request} (h : Kept false s t) : Kept false s (endFnl t r) := .of_answer (.of_setSource h)

theorem of_takeEffect {r : HeldReq} (h : Kept false s t) : Kept false s (takeEffect t r) := by
  have hremoved : Kept false s (removeReq t r.req) := .of_removeReq h
  refine .of_ite (.of_endFnl hremoved) (.of_ite (.of_sendAway hremoved) (.of_ite ?_ ?_))
  · split
    · next hdone => exact .of_answer (.of_judgeAll (.of_takeFinal hremoved hdone))
    · exact h
  · split
    · exact .of_ite (.of_serveRead hremoved) (.of_ite (.of_serveAtomic hremoved) (.of_serveWrite hremoved))
    · exact .of_answer hremoved

theorem of_setWhy {r : Request} {why : HoldWhy} (h : Kept false s t) : Kept false s (setWhy t r why) := .with_core h rfl

theorem of_startModes {r : Request} (h : Kept false s t) : Kept false s (startModes t r) := by
  unfold startModes
  refine .foldl (fun _ _ h => ?_) _ h
  split
  · exact .of_startChange h
  · exact h

theorem of_wakeQuays {l : List Nat} (h : Kept m s t) : Kept m s (l.foldl wakeQuay t) := .foldl (fun _ _ h => .of_wakeQuay h) l h

/-- The definition is unfolded as a function, before its arguments make the kernel evaluate the region of an address. -/
theorem of_wakeTouched {r : Request} (h : Kept m s t) : Kept m s (wakeTouched t r) := by
  suffices hall : ∀ f, f = wakeTouched → Kept m s (f t r) from hall _ rfl
  intro f hf
  delta wakeTouched at hf
  subst hf
  dsimp only
  split
  · exact .of_wakeQuays h
  · exact h

theorem of_waitFinal {h' : HeldReq} (h : Kept false s t) : Kept false s (waitFinal t h') := .with_core (.with_core h rfl) rfl

theorem of_carryOut {h' : HeldReq} {x1 : Verdict} (h : Kept false s t) : Kept false s (carryOut t h' x1) := by
  unfold carryOut
  dsimp only
  split
  · exact .of_ite (.of_attempt (fun _ h => .of_takeEffect h) h) (.of_setWhy (.of_attempt (fun _ h => .of_takeEffect h) h))
  · exact .of_setWhy (.of_startModes h)
  · exact .of_answer (.of_removeReq h)
  · exact .of_setWhy (.of_wakeTouched h)
  · exact .of_ite (.of_waitFinal h) (.of_setWhy h)
  · exact .of_setWhy h
  · exact h

theorem of_tryReq {gap : Bool} {pt : Nat × Nat} (h : Kept false s t) : Kept false s (tryReq t gap pt) := by
  unfold tryReq
  split
  · exact .of_carryOut h
  · exact h

theorem of_settleN {n : Nat} (h : Kept false s t) : Kept false s (settleN n t) := by
  induction n generalizing t with
  | zero => exact h
  | succ n ih =>
    unfold settleN
    split
    · exact ih (.of_runOrders (.of_carryOut h))
    · exact h

theorem of_firmwareGoesOn (h : Kept false s t) : Kept false s (firmwareGoesOn t) :=
  .of_retryQuayStates (.of_retrySweeps (.of_replayDue h))

theorem of_goOn (h : Kept false s t) : Kept false s (goOn t) :=
  .of_tryAll (.of_expStages (.of_firmwareGoesOn
      (.of_retryBatches (.of_retryDue (.of_retryFailing (.of_applyHeld (.of_runOrders h)))))))

theorem of_settle (h : Kept false s t) : Kept false s (settle t) := .of_settleN (.of_goOn h)

theorem of_serveAll (h : Kept false s t) : Kept false s (serveAll t) := .of_settle (.foldl (fun _ _ h => .of_tryReq h) _ h)

theorem of_noteRev {p : Nat} {rev2 : Bool} (h : Kept false s t) : Kept false s (noteRev t p rev2) := by
  have hport : Unguarded false (rHbPortStat p) := ⟨by grind, nofun⟩
  exact .of_ite (.of_setFld h hport) (.of_setFld h hport)

theorem of_servePlt {p : Nat} {h' : ReqHdr} {msg : BitVec 128} {lat : Nat} (h : Kept false s t) : Kept false s
    (servePlt t p h' msg lat) := by
  unfold servePlt
  dsimp only
  split
  · exact .of_respond h
  · exact .of_ite (.of_respond (.of_pilotArrive (.of_ite (.of_abortGate (.of_expireGate (.of_ite (.of_setFld (.of_bump h))
        (.of_bump h)))) (.of_snapOut (.of_ite (.of_setFld (.of_bump h)) (.of_bump h))))))
        (.of_pilotArrive (.of_ite (.of_abortGate (.of_expireGate (.of_ite (.of_setFld (.of_bump h)) (.of_bump h))))
        (.of_snapOut (.of_ite (.of_setFld (.of_bump h)) (.of_bump h)))))

theorem of_refuseFlit {p : Nat} (h : Kept false s t) : Kept false s (refuseFlit t p) := .of_emit (.of_setFld h)

theorem of_answerForm {p : Nat} {ch : Channel} {h' : ReqHdr} {st : Resp} (h : Kept false s t) : Kept false s
    (answerForm t p ch h' st) :=
  .of_ite (.of_respond h) (.with_core h rfl)

theorem of_serveLateReqs (h : Kept false s t) : Kept false s (serveLateReqs t) :=
  .foldl (fun _ _ h => .of_respond h) _ (.with_core h rfl)

theorem of_arrive {p : Nat} {hdr : BitVec 128} {data : List Codeword} {msg : BitVec 128} {lat : Nat} (h : Kept false s t) :
    Kept false s (arrive t p hdr data msg lat) := by
  unfold arrive
  refine .of_ite h (.of_ite (.of_refuseFlit h) (.of_ite (.with_core (.of_setFld (.of_noteRev h)) rfl) ?_))
  dsimp only
  split
  · exact .of_answerForm (.with_core (.of_noteRev h) rfl)
  · exact .with_core (.of_noteRev h) rfl
  · exact .of_servePlt (.with_core (.of_noteRev h) rfl)
  · exact .of_settle (.of_carryOut (.with_core (.of_noteRev h) rfl))

theorem of_arriveOpc {p : Nat} {hdr : BitVec 128} {data : List Codeword} {opcs : List Nat} {final : Bool} (h : Kept false s t) :
    Kept false s (arriveOpc t p hdr data opcs final) :=
  .of_ite (.of_arrive h) h

theorem of_execRd {p : Nat} {hdr : BitVec 128} (h : Kept false s t) : AnswerKept false s (execRd p hdr t) := .of_arriveOpc h

theorem of_execRda {p : Nat} {hdr : BitVec 128} (h : Kept false s t) : AnswerKept false s (execRda p hdr t) :=
  .of_arriveOpc h

theorem of_execWr {p : Nat} {hdr : BitVec 128} {data : List Codeword} (h : Kept false s t) : AnswerKept false s
    (execWr p hdr data t) :=
  .of_arriveOpc h

theorem of_execWrr {p : Nat} {hdr : BitVec 128} {data : List Codeword} (h : Kept false s t) : AnswerKept false s
    (execWrr p hdr data t) :=
  .of_arriveOpc h

theorem of_execFinalWrite {p : Nat} {hdr : BitVec 128} {data : List Codeword} (h : Kept false s t) : AnswerKept false s
    (execFinalWrite p hdr data t) :=
  .of_arriveOpc h

theorem of_execAtm {p : Nat} {hdr : BitVec 128} {operands : List Word} (h : Kept false s t) : AnswerKept false s
    (execAtm p hdr operands t) :=
  .of_arriveOpc h

theorem of_execFnl {p : Nat} {hdr : BitVec 128} (h : Kept false s t) : AnswerKept false s (execFnl p hdr t) :=
  .of_arriveOpc h

theorem of_execPlt {p : Nat} {hdr msg : BitVec 128} {latency : Nat} (h : Kept false s t) : AnswerKept false s
    (execPlt p hdr msg latency t) :=
  .of_ite (.of_arrive h) h

theorem of_execFlitWithoutCredit {p : Nat} (h : Kept false s t) : AnswerKept false s (execFlitWithoutCredit p t) :=
  .of_ite (.of_refuseFlit h) h

theorem of_execResponseCredit {p : Nat} {ch : Channel} (h : Kept false s t) : AnswerKept false s (execResponseCredit p ch t) :=
  .of_ite (.of_ite (.of_pumpPort (.with_core h rfl)) (.of_settle (.of_pumpPort (.with_core h rfl)))) h

theorem of_execLinkReplay {link : LinkId} {pilot : Bool} (h : Kept false s t) : AnswerKept false s
    (execLinkReplay link pilot t) := by
  unfold execLinkReplay
  change Kept false s _
  dsimp only
  split
  · exact .of_ite (.of_ite (.of_bumpMirror (.of_bumpMirror h)) (.of_bumpMirror h)) h
  · exact .of_ite (.of_ite (.of_bumpMirror h) h) h

theorem of_execHeldRead {p tag : Nat} (h : Kept false s t) : AnswerKept false s (execHeldRead p tag t) := by
  unfold execHeldRead
  change Kept false s _
  split
  · exact .of_ite (.of_settle (.of_tryReq h)) h
  · exact h

theorem of_hostRegWrite {p : Nat} {hdr : BitVec 128} {off : Nat} {v : Word} (h : Kept false s t) : Kept false s
    (hostRegWrite t p hdr off v) :=
  .of_ite (.of_arrive h) h

end Kept

end Sys2Proof.Machine
end

section
/-!
SUPPORT. What `Kept` says through the rows of berths, landing, power, the sideband and the test port (R281, R386-R393, R413-R416).
-/
namespace Sys2Proof.Machine

open Sys2Proof

-- One after another: hundreds of short proofs begun at once would each hold a thread.
set_option Elab.async false

namespace Kept

variable {m : Bool} {s t u : State}

theorem of_execModeChange {b : Nat} (h : Kept false s t) : AnswerKept false s (execModeChange b t) :=
  .of_ite (.of_settle (.of_endChange h)) h

theorem of_execPermitGrant {q : Nat} (h : Kept false s t) : AnswerKept false s (execPermitGrant q t) :=
  .of_settle (.of_grantNext h)

theorem of_berthRun {b op : Nat} {older : List Nat} {flips : List Flip} (h : Kept false s t) : Kept false s
    (berthRun b op older flips t) :=
  .of_settle (.of_runOp h)

theorem of_execMatvec {b : Nat} {older : List Nat} {flips : List Flip} (h : Kept false s t) : AnswerKept false s
    (execMatvec b older flips t) :=
  .of_berthRun h

theorem of_execDot {b : Nat} {older : List Nat} {flips : List Flip} (h : Kept false s t) : AnswerKept false s
    (execDot b older flips t) :=
  .of_berthRun h

theorem of_execScale {b : Nat} {older : List Nat} {flips : List Flip} (h : Kept false s t) : AnswerKept false s
    (execScale b older flips t) :=
  .of_berthRun h

theorem of_execAdd {b : Nat} {older : List Nat} {flips : List Flip} (h : Kept false s t) : AnswerKept false s
    (execAdd b older flips t) :=
  .of_berthRun h

theorem of_execMul {b : Nat} {older : List Nat} {flips : List Flip} (h : Kept false s t) : AnswerKept false s
    (execMul b older flips t) :=
  .of_berthRun h

theorem of_execAct {b : Nat} {older : List Nat} {flips : List Flip} (h : Kept false s t) : AnswerKept false s
    (execAct b older flips t) :=
  .of_berthRun h

theorem of_execReduce {b : Nat} {older : List Nat} {flips : List Flip} (h : Kept false s t) : AnswerKept false s
    (execReduce b older flips t) :=
  .of_berthRun h

theorem of_execNormStat {b : Nat} {older : List Nat} {flips : List Flip} (h : Kept false s t) : AnswerKept false s
    (execNormStat b older flips t) :=
  .of_berthRun h

theorem of_execNormApply {b : Nat} {older : List Nat} {flips : List Flip} (h : Kept false s t) : AnswerKept false s
    (execNormApply b older flips t) :=
  .of_berthRun h

theorem of_execSmaxStat {b : Nat} {older : List Nat} {flips : List Flip} (h : Kept false s t) : AnswerKept false s
    (execSmaxStat b older flips t) :=
  .of_berthRun h

theorem of_execSmaxApply {b : Nat} {older : List Nat} {flips : List Flip} (h : Kept false s t) : AnswerKept false s
    (execSmaxApply b older flips t) :=
  .of_berthRun h

theorem of_execAttn {b : Nat} {older : List Nat} {flips : List Flip} (h : Kept false s t) : AnswerKept false s
    (execAttn b older flips t) :=
  .of_berthRun h

theorem of_execBerthDuplicate {b : Nat} {first second : List Flip} (h : Kept false s t) : AnswerKept false s
    (execBerthDuplicate b first second t) :=
  .of_settle (.of_duplicateOp h)

theorem of_addServed {r : Request} {b n : Nat} (h : Kept false s t) : Kept false s (addServed t r b n) := .with_core h rfl

theorem of_serveGap {b used : Nat} {l : List HeldReq} (h : Kept false s t) : Kept false s (serveGap b l used t) := by
  induction l generalizing t used with
  | nil => exact h
  | cons r l ih => exact .of_ite (ih h) (ih (.of_tryReq (.of_addServed h)))

theorem of_execBusyBankAccess {b : Nat} {work : GapWork} (h : Kept false s t) : AnswerKept false s
    (execBusyBankAccess b work t) :=
  .of_ite (.of_settle (.of_serveGap (.of_writeAhead h))) h

theorem of_startBatch {cx : Nat} {r : Running} {image : List Byte} {es : List Nat} (h : Kept false s t) : Kept false s
    (startBatch t cx r image es) :=
  .foldl (fun _ _ h => .of_takePlace h) _ (.of_putCmd (.with_core (.foldl (fun _ _ h => .of_wakeQuay h) _ h) rfl))

theorem of_execBerthBatch {cx : Nat} (h : Kept false s t) : AnswerKept false s (execBerthBatch cx t) := by
  unfold execBerthBatch
  change Kept false s _
  refine .of_whole (fun _ h => ?_) h
  dsimp only
  split
  · exact h
  · refine .of_ite (.of_completeBad ?_) ?_
    · split
      · dsimp only
        split
        · exact h
        · exact .of_readTable h
      · refine .of_readTable ?_
        split
        · exact h
        · exact .of_readTable h
    · split
      · refine .of_completeBad ?_
        split
        · dsimp only
          split
          · exact h
          · exact .of_readTable h
        · refine .of_readTable ?_
          split
          · exact h
          · exact .of_readTable h
      · refine .of_ite (.of_complete h) (.of_ite (.of_complete ?_) (.of_ite (.of_settle (.of_startBatch ?_)) h))
        · split
          · dsimp only
            split
            · exact h
            · exact .of_readTable h
          · refine .of_readTable ?_
            split
            · exact h
            · exact .of_readTable h
        · split
          · dsimp only
            split
            · exact h
            · exact .of_readTable h
          · refine .of_readTable ?_
            split
            · exact h
            · exact .of_readTable h

theorem of_writeMerge {mdst n : Nat} {x2 : Option (List Byte)} (h : Kept false s t) : Kept false s
    (writeMerge t mdst n x2) := by
  unfold writeMerge
  split
  · exact .of_writeBytes h
  · exact .foldl (fun _ _ h => .of_storePoison h) _ h

theorem of_noteMerge {q : Nat} {p : CmdPkt} (h : Kept false s t) : Kept false s (noteMerge t q p) := .with_core h rfl

theorem of_execBerthMerge {cx : Nat} (h : Kept false s t) : AnswerKept false s (execBerthMerge cx t) := by
  unfold execBerthMerge
  change Kept false s _
  refine .of_whole (fun _ h => ?_) h
  dsimp only
  split
  · exact h
  · exact .of_ite h (.of_ite (.of_settle (.of_completeBatch (.of_noteMerge (.of_readPartials h))))
        (.of_ite (.of_settle (.of_completeBatch (.of_writeMerge (.of_noteMerge (.of_readPartials h)))))
        (.of_settle (.of_completeBatch (.of_writeMerge (.of_noteFlush (.of_noteMerge (.of_readPartials h))))))))

theorem of_withdrawEntry {cx b : Nat} {p : State × Nat} (h : Kept false s p.1) : Kept false s (withdrawEntry cx p b).1 := by
  unfold withdrawEntry
  dsimp only
  split
  · refine .of_ite_fst (.of_endRun h) ?_
    split
    · split
      · dsimp only
        exact .of_closeOp (.of_setBank h)
      · exact h
    · exact h
  · split
    · split
      · dsimp only
        exact .of_closeOp (.of_setBank h)
      · exact h
    · exact h

theorem of_cancelBatch {cx : Nat} {r : Running} (h : Kept false s t) : Kept false s (cancelBatch t cx r).1 :=
  .of_tryBatch (.foldl_fst (fun _ _ h => .of_withdrawEntry h) _ (.of_putCmd h))

theorem of_execBerthCancel {cx : Nat} (h : Kept false s t) : AnswerKept false s (execBerthCancel cx t) := by
  unfold execBerthCancel
  change Kept false s _
  dsimp only
  split
  · exact h
  · split
    · exact .of_completeBad h
    · split
      · exact .of_complete h
      · exact .of_settle (.of_complete (.of_cancelBatch h))

theorem of_afterLanding (h : Kept false s t) : Kept false s (afterLanding t) := .of_settle (.of_judgeAll h)

theorem of_markRange {x : Manifest} (h : Kept false s t) : Kept false s (markRange t x) := by
  unfold markRange
  refine .foldl (fun _ _ h => ?_) _ h
  dsimp only
  split
  · exact .of_ite (.with_core h rfl) (.of_putSet h)
  · exact h

theorem of_openMan {m' : Nat} {x : Manifest} (h : Kept false s t) : Kept false s (openMan t m' x) :=
  .of_noteMan (.of_freeSpills (.of_setMan (.of_ite (.with_core h rfl) h)))

theorem of_execManOpen {cx : Nat} (h : Kept false s t) : AnswerKept false s (execManOpen cx t) := by
  unfold execManOpen
  change Kept false s _
  dsimp only
  split
  · exact h
  · split
    · exact .of_afterLanding (.of_completeBad (.of_landTicks h))
    · exact .of_ite (.of_afterLanding (.of_complete (.of_landTicks h)))
          (.of_ite (.of_afterLanding (.of_complete (.of_landTicks h)))
          (.of_ite (.of_afterLanding (.of_unpark (.of_complete (.of_ite (.of_markRange (.of_openMan (.of_landTicks h)))
          (.of_openMan (.of_landTicks h)))))) (.of_afterLanding (.of_unpark (.of_complete (.of_openMan (.of_landTicks h)))))))

theorem of_execManCancel {cx : Nat} (h : Kept false s t) : AnswerKept false s (execManCancel cx t) := by
  unfold execManCancel
  change Kept false s _
  dsimp only
  split
  · exact h
  · split
    · exact .of_afterLanding (.of_completeBad (.of_landTicks h))
    · split
      · exact .of_ite (.of_afterLanding (.of_ite (.of_keepWakes (.of_landTicks h))
            (.of_complete (.of_failMan (.of_landTicks h))))) (.of_ite (.of_afterLanding (.of_complete (.of_landTicks h)))
            (.of_afterLanding (.of_complete (.of_landTicks h))))
      · exact .of_afterLanding (.of_complete (.of_landTicks h))

theorem of_execManQuery {cx : Nat} (h : Kept false s t) : AnswerKept false s (execManQuery cx t) := by
  unfold execManQuery
  change Kept false s _
  dsimp only
  split
  · exact h
  · split
    · exact .of_afterLanding (.of_completeBad (.of_landTicks h))
    · exact .of_afterLanding (.of_complete (.of_landTicks h))

theorem of_execLandingWrite {src : LandSrc} {hdr : BitVec 256} {payload : List Codeword} (h : Kept false s t) :
    AnswerKept false s (execLandingWrite src hdr payload t) :=
  .of_afterLanding (.of_arriveBulk h)

theorem of_execTokenPacket {src : LandSrc} {hdr : BitVec 256} {payload : List Codeword} (h : Kept false s t) :
    AnswerKept false s (execTokenPacket src hdr payload t) :=
  .of_afterLanding (.of_arriveBulk h)

theorem of_execContribPacket {src : LandSrc} {hdr : BitVec 256} {payload : List Codeword} (h : Kept false s t) :
    AnswerKept false s (execContribPacket src hdr payload t) :=
  .of_afterLanding (.of_arriveBulk h)

theorem of_refuseMsg {p : Packet} (h : Kept false s t) : Kept false s (refuseMsg t p) := by
  unfold refuseMsg
  dsimp only
  split
  · exact .of_ite (.of_setMan (.of_bump (.of_landTicks h))) (.of_bump (.of_landTicks h))
  · exact .of_bump (.of_landTicks h)

theorem of_execRefusePacket {src : LandSrc} {hdr : BitVec 256} {payload : List Codeword} (h : Kept false s t) :
    AnswerKept false s (execRefusePacket src hdr payload t) :=
  .of_afterLanding (.of_withPacket (fun _ _ h => .of_refuseMsg h) h)

theorem of_noteRefused {cx n : Nat} {r : Running} (h : Kept false s t) : Kept false s (noteRefused t cx n r) :=
  .of_ite (.of_bump (.with_core h rfl)) (.of_putCmd h)

theorem of_sourceMoved {key n : Nat} {refused : Bool} (h : Kept false s t) : Kept false s (sourceMoved t key n refused) :=
  .of_ite h (.of_tryAll (.of_expStage (.of_ite (.of_ite (.of_endMissing (.foldl (fun _ _ h => .of_noteRefused h) _ h))
      (.foldl (fun _ _ h => .of_noteRefused h) _ h)) h)))

theorem of_dropCount {key : Nat} {final : Bool} (h : Kept false s t) : Kept false s (dropCount t key final) :=
  .of_ite (.of_sourceMoved (.of_bump (.of_setSource h))) h

theorem of_ackMsg {p : Packet} (h : Kept false s t) : Kept false s (ackMsg t p) :=
  .of_sourceMoved (.of_countAck (.of_dropCount (.of_dropCount h)))

theorem of_execAckPacket {src : LandSrc} {hdr : BitVec 256} {payload : List Codeword} (h : Kept false s t) : AnswerKept false s
    (execAckPacket src hdr payload t) :=
  .of_afterLanding (.of_withPacket (fun _ _ h => .of_ackMsg h) h)

theorem of_execAckTimeout {source : Nat} {final : Bool} (h : Kept false s t) : AnswerKept false s
    (execAckTimeout source final t) :=
  .of_afterLanding (.of_dropCount h)

theorem of_finaliseOne {n k : Nat} (h : Kept false s t) : Kept false s (finaliseOne t n k) := by
  unfold finaliseOne
  dsimp only
  split
  · exact h
  · exact .of_noteFlush (.of_putSet (.of_bump h))

theorem of_finaliseRange {n : Nat} {x : Manifest} (h : Kept false s t) : Kept false s (finaliseRange t n x) := by
  unfold finaliseRange
  dsimp only
  split
  · refine .of_failRange (.foldl (fun _ _ h => ?_) _ h)
    exact .with_snap (.of_rouse (.of_wakeQuay h)) _
  · refine .foldl (fun _ _ h => .of_finaliseOne h) _ (.foldl (fun _ _ h => ?_) _ h)
    exact .with_snap (.of_rouse (.of_wakeQuay h)) _

theorem of_execManifestFinalise {m' gen : Nat} (h : Kept false s t) : AnswerKept false s (execManifestFinalise m' gen t) := by
  unfold execManifestFinalise
  change Kept false s _
  refine .of_ite h ?_
  split
  · exact h
  · exact .of_ite h (.of_ite (.of_afterLanding (.of_finishMan h)) (.of_afterLanding (.of_whole (fun _ h => .of_finishMan
        (.of_finaliseRange h)) h)))

theorem of_execManifestExpiry {m' : Nat} (h : Kept false s t) : AnswerKept false s (execManifestExpiry m' t) :=
  .of_afterLanding (.of_expireMan h)

theorem of_execParkTtlExpiry {entry : Nat} (h : Kept false s t) : AnswerKept false s (execParkTtlExpiry entry t) := by
  unfold execParkTtlExpiry
  change Kept false s _
  split
  · exact .of_afterLanding (.of_expirePark h)
  · exact h

theorem of_state {a : Answer} (h : Kept m s t) (ha : AnswerKept m s a) : Kept m s (a.state t) := by
  unfold Answer.state
  split
  · exact ha
  · exact h

/-- A row that lands a packet keeps what `Kept` says. -/
def LandRow (f : LandSrc → BitVec 256 → List Codeword → State → Answer) : Prop :=
  ∀ {s t src hdr payload}, Kept false s t → AnswerKept false s (f src hdr payload t)

theorem of_landAny {src : LandSrc} {hdr : BitVec 256} {payload : List Codeword} (h : Kept false s t) :
    Kept false s (landAny t src hdr payload) := by
  suffices hrow : LandRow _ from .of_state h (hrow h)
  dsimp only
  split
  · exact of_execTokenPacket
  · exact of_execContribPacket
  · exact of_execAckPacket
  · split
    · exact of_execGateReleaseMsg
    · split
      · exact of_execGateAbortMsg
      · exact of_execGateArrivalMsg
  · exact of_execPilotPacket
  · exact of_execNormPacket
  · exact of_execRefusePacket
  · exact of_execLandingWrite

theorem of_serveLateList {l : List (LandSrc × BitVec 256 × List Codeword)} (h : Kept false s t) :
    Kept false s (serveLateList l t) := by
  induction l generalizing t with
  | nil => exact h
  | cons x l ih => exact ih (.of_ite (.with_core h rfl) (.of_landAny h))

theorem of_serveLate (h : Kept false s t) : Kept false s (serveLate t) := .of_ite (.of_serveLateList (.with_core h rfl)) h

theorem of_execAnchorageHoldRelease {port : Nat} (h : Kept false s t) : AnswerKept false s (execAnchorageHoldRelease port t) :=
  .of_ite (.of_serveLate (.of_afterLanding (.of_releaseHold (.of_landTicks h)))) h

theorem of_execQuayState {cx : Nat} (h : Kept false s t) : AnswerKept false s (execQuayState cx t) := by
  unfold execQuayState
  change Kept false s _
  dsimp only
  split
  · exact h
  · split
    · exact .of_completeBad h
    · exact .of_ite (.of_complete h) (.of_settle (.of_applyQuayState h))

theorem of_serveQuayHeld (h : Kept false s t) : Kept false s (serveQuayHeld t) := .foldl (fun _ _ h => .of_tryReq h) _ h

theorem of_execQuayWake {q : QuayUp} (h : Kept false s t) : AnswerKept false s (execQuayWake q t) :=
  .of_ite (.of_settle (.of_serveQuayHeld (.of_retryQuayStates (.of_quayActive (.foldl (fun _ _ h => .of_retireLink h) _ h))))) h

theorem of_beginMooring {retain : Bool} (h : Kept false s t) : Kept false s (beginMooring t retain) := .with_core h rfl

theorem of_execHarbourMoor {cx : Nat} (h : Kept false s t) : AnswerKept false s (execHarbourMoor cx t) := by
  unfold execHarbourMoor
  change Kept false s _
  dsimp only
  split
  · exact h
  · split
    · exact .of_completeBad h
    · exact .of_ite (.of_complete h)
        (.of_ite (.with_pow (.of_complete (.with_pow h _)) _) (.of_beginMooring (.of_complete (.with_pow h _))))

/-- Mooring keeps DRAM, and quay SRAM only with RETAIN (R390). -/
theorem with_moorMem (h : Kept m s t) (retain : Bool) (hi : Nat) (chk : Table (BitVec 32)) (berth : BerthSt) (disp : DispSt)
    (exp : ExpSt) (walk : WalkSt) (land : LandSt) (pow : PowSt) : Kept m s { t with
      mem := if retain then t.mem else memClear t.mem qsramBase hi, chk, berth, disp, exp, walk, land, pow } := by
  refine h.trans ⟨fun hok => ?_, rfl, rfl, id, fun _ _ => .of_regs rfl⟩
  cases retain with
  | false => exact memWf_memClear _ _ hok
  | true => exact hok

theorem of_moorNow {retain : Bool} (h : Kept false s t) : Kept false s (moorNow t retain) :=
  .of_bump (.with_moorMem (.of_loseRegs (by decide) h) retain _ _ _ _ _ _ _ _)

theorem of_execMooring (h : Kept false s t) : AnswerKept false s (execMooring t) := by
  unfold execMooring
  change Kept false s _
  split
  · exact .of_moorNow h
  · exact h

theorem of_execHostWakeLine {die : Nat} (h : Kept false s t) : AnswerKept false s (execHostWakeLine die t) :=
  .of_ite (.of_recordWake h) h

theorem of_execFabricWake {port : Nat} (h : Kept false s t) : AnswerKept false s (execFabricWake port t) :=
  .of_ite (.of_recordWake h) h

theorem of_execWakeAfterExpiry (h : Kept false s t) : AnswerKept false s (execWakeAfterExpiry t) :=
  .of_ite (.of_recordWake h) h

theorem of_wakeHarbour (h : Kept false s t) : Kept false s (wakeHarbour t) :=
  .of_trainPorts (.of_applyPilots (.of_trainLinks (.with_core h rfl)))

theorem of_execHarbourWake (h : Kept false s t) : AnswerKept false s (execHarbourWake t) := by
  unfold execHarbourWake
  change Kept false s _
  split
  · split
    · exact .of_warmNow (.of_wakeHarbour h)
    · exact .of_serveAll (.of_serveLate (.of_serveLateReqs (.foldl (fun _ _ h => .of_kindReset h) _ (.of_wakeHarbour h))))
  · exact h

theorem of_execWarmRstN {ref : Bool} (h : Kept false s t) : AnswerKept false s (execWarmRstN ref t) := .of_warmReset h

theorem of_execWarmReset {ref : Bool} (h : Kept false s t) : AnswerKept false s (execWarmReset ref t) := .of_warmReset h

theorem of_execWarmResetKeep {ref : Bool} (h : Kept false s t) : AnswerKept false s (execWarmResetKeep ref t) :=
  .of_warmReset h

theorem of_narrowReset {kind target : Nat} (h : Kept false s t) : Kept false s (narrowReset t kind target) :=
  .of_ite (.of_settle (.of_kindReset h)) (.of_orderReset h)

theorem of_execEngineReset {e : Nat} (h : Kept false s t) : AnswerKept false s (execEngineReset e t) := .of_narrowReset h

theorem of_execPortReset {p : Nat} (h : Kept false s t) : AnswerKept false s (execPortReset p t) := .of_narrowReset h

theorem of_execQuayReset {q : Nat} (h : Kept false s t) : AnswerKept false s (execQuayReset q t) := .of_narrowReset h

theorem of_execLockstepMismatch (h : Kept false s t) : AnswerKept false s (execLockstepMismatch t) :=
  .of_ite (.of_settle (.of_restartHm (.of_raiseAlert (.of_setFld h)))) h

theorem of_throttleMeasure {mw tempC : Nat} {quayC : List Nat} (h : Kept false s t) :
    Kept false s (throttleMeasure t mw tempC quayC) :=
  .of_ite (.with_walk (.of_setFld (.of_setFld (.of_setFld (.of_ite h (.of_bump h))))) _)
    (.of_setFld (.of_setFld (.of_ite h (.of_bump h))))

theorem of_throttleStep {mw tempC : Nat} {quayC : List Nat} (h : Kept false s t) : Kept false s
    (throttleStep t mw tempC quayC) :=
  .of_ite (.of_setFld (.of_throttleMeasure h)) (.of_ite (.of_setFld (.of_throttleMeasure h)) (.of_throttleMeasure h))

theorem of_execHarbourThrottle {mw tempC : Nat} {quayC : List Nat} (h : Kept false s t) : AnswerKept false s
    (execHarbourThrottle mw tempC quayC t) :=
  .of_ite (.of_throttleStep h) h

theorem of_zeroPools (h : Kept false s t) : Kept false s (zeroPools t) := .with_core h rfl

theorem of_execTemperatureTrip {reading : Nat} (h : Kept false s t) : AnswerKept false s (execTemperatureTrip reading t) :=
  .of_ite (.foldl (fun _ _ h => .of_holdCrane h) _ (.of_zeroPools (.of_setFld (.of_setFld (.of_raiseAlert h))))) h

theorem of_measureQuay {q : Nat} {m' : QuayMeas} (h : Kept false s t) : Kept false s (measureQuay t q m') :=
  .of_ite (.of_bump (.of_setFld (.of_setFld (.of_setFld (.of_setFld (.of_setFld h))))))
      (.of_setFld (.of_setFld (.of_setFld (.of_setFld (.of_setFld h)))))

theorem of_newPool {q : Nat} {m' : QuayMeas} (h : Kept false s t) : Kept false s (newPool t q m') :=
  .of_setPermits (.of_ite (.of_bump h) h)

theorem of_boundaryHold {q : Nat} {m' : QuayMeas} (h : Kept false s t) : Kept false s (boundaryHold t q m') :=
  .of_ite (.of_holdCrane h) (.with_core h rfl)

theorem of_sizeQuay {q : Nat} {m' : QuayMeas} (h : Kept false s t) : Kept false s (sizeQuay t q m') :=
  .of_boundaryHold (.of_ite (.of_newPool (.of_measureQuay h)) (.of_measureQuay h))

theorem of_skipQuay {q : Nat} (h : Kept false s t) : Kept false s (skipQuay t q) := .of_ite h (.with_core h rfl)

theorem of_sizePools {meas : List QuayMeas} (h : Kept false s t) : Kept false s (sizePools t meas) := by
  unfold sizePools
  refine .foldl (fun _ _ h => .of_ite (.of_skipQuay h) ?_) _ h
  split
  · exact .of_sizeQuay h
  · exact .of_skipQuay h

theorem of_execPermitPoolSizing {meas : List QuayMeas} (h : Kept false s t) : AnswerKept false s
    (execPermitPoolSizing meas t) :=
  .of_ite (.of_sizePools h) h

theorem of_execPermitPoolFallback {q tempC : Nat} (h : Kept false s t) : AnswerKept false s
    (execPermitPoolFallback q tempC t) :=
  .of_ite (.of_setPermits (.of_setFld h)) h

theorem of_execWatchWrap (h : Kept false s t) : AnswerKept false s (execWatchWrap t) := .of_ite (.of_watchTick h) h

theorem of_portResets {l : List Nat} (h : Kept false s t) : Kept false s (l.foldl portReset t) :=
  .foldl (fun _ _ h => .of_portReset h) l h

theorem of_execRefLoss (h : Kept false s t) : AnswerKept false s (execRefLoss t) := by
  unfold execRefLoss
  change Kept false s _
  exact .of_ite (.of_settle (.with_land (.of_portResets (.of_raiseAlert (.of_bump (.of_setFld h)))) _)) h

theorem of_execRefReturn (h : Kept false s t) : AnswerKept false s (execRefReturn t) :=
  .of_ite (.of_trainPorts (.of_setFld h)) h

theorem of_execWatchTrimConverged {offset : BitVec 16} (h : Kept false s t) : AnswerKept false s
    (execWatchTrimConverged offset t) :=
  .of_ite (.of_setFld (.of_setFld h)) h

theorem of_execIdleEntry {u : IdleUnit} (h : Kept false s t) : AnswerKept false s (execIdleEntry u t) := by
  unfold execIdleEntry
  change Kept false s _
  dsimp only
  split
  · exact .of_ite (.with_core h rfl) h
  · exact .of_ite (.with_core h rfl) h

theorem of_writeCopy {q : CfgSave} {valid : Bool} (h : Kept false s t) : Kept false s (writeCopy t q valid) :=
  .with_core h rfl

theorem of_execConfigSave {cx : Nat} (h : Kept false s t) : AnswerKept false s (execConfigSave cx t) := by
  unfold execConfigSave
  change Kept false s _
  dsimp only
  split
  · exact .of_ite (.of_complete (.with_core h rfl)) h
  · split
    · exact h
    · split
      · exact .of_completeBad h
      · exact .of_ite h (.of_putCmd (.of_writeCopy h))

theorem of_execLogbookRead {cx : Nat} (h : Kept false s t) : AnswerKept false s (execLogbookRead cx t) := by
  unfold execLogbookRead
  change Kept false s _
  refine .of_whole (fun _ h => ?_) h
  dsimp only
  split
  · exact h
  · split
    · exact .of_completeBad h
    · exact .of_ite (.of_complete h) (.of_complete (.of_writeBytes h))

theorem of_takeCmd {w : Nat} {p : CmdPkt} (h : Kept false s t) : Kept false s (takeCmd t w p) :=
  .with_core (.foldl (fun _ _ h => .of_rouse h) _ (.of_setWin h)) rfl

theorem of_begun {cx : Nat} {p : CmdPkt} (h : Kept false s t) : Kept false s (begun t cx p) := by
  unfold begun
  refine .of_ite ?_ (.of_ite (.of_complete h) (.of_answerBadOps h))
  split
  · exact .of_complete h
  · exact h

theorem of_execCommandStart {w : Nat} (h : Kept false s t) : AnswerKept false s (execCommandStart w t) := by
  unfold execCommandStart
  change Kept false s _
  split
  · exact h
  · exact .of_ite h (.of_begun (.of_takeCmd h))

theorem of_execHeldReplyPost {w : Nat} (h : Kept false s t) : AnswerKept false s (execHeldReplyPost w t) := by
  unfold execHeldReplyPost
  change Kept false s _
  dsimp only
  split
  · exact h
  · refine .of_ite h (.of_ite (.of_ringWake h) ?_)
    split
    · exact .of_ite (.of_beginMooring (.of_settleTodo (.of_releaseOpt (.of_writeReply (.of_setWin h)))))
          (.of_settleTodo (.of_releaseOpt (.of_writeReply (.of_setWin h))))
    · exact .of_settleTodo (.of_releaseOpt (.of_writeReply (.of_setWin h)))

theorem of_execModeWordWrite {p : Nat} {hdr : BitVec 128} {b : Nat} {v : Word} (h : Kept false s t) : AnswerKept false s
    (execModeWordWrite p hdr b v t) :=
  .of_ite (.of_arrive h) h

theorem of_execGoWrite {p : Nat} {hdr : BitVec 128} {b : Nat} {go : Codeword} (h : Kept false s t) : AnswerKept false s
    (execGoWrite p hdr b go t) :=
  .of_ite (.of_arrive h) h

theorem of_execBootGo {p : Nat} {hdr : BitVec 128} {v : Word} (h : Kept false s t) : AnswerKept false s
    (execBootGo p hdr v t) :=
  .of_hostRegWrite h

theorem of_execLock {p : Nat} {hdr : BitVec 128} {v : Word} (h : Kept false s t) : AnswerKept false s (execLock p hdr v t) :=
  .of_hostRegWrite h

theorem of_execHbProtRgnWrite {p : Nat} {hdr : BitVec 128} {r : Nat} {v : Word} (h : Kept false s t) : AnswerKept false s
    (execHbProtRgnWrite p hdr r v t) :=
  .of_ite (.of_hostRegWrite h) h

theorem of_execHbRoadsteadWrite {p : Nat} {hdr : BitVec 128} {v : Word} (h : Kept false s t) : AnswerKept false s
    (execHbRoadsteadWrite p hdr v t) :=
  .of_hostRegWrite h

theorem of_execHbArenaWrite {p : Nat} {hdr : BitVec 128} {v : Word} (h : Kept false s t) : AnswerKept false s
    (execHbArenaWrite p hdr v t) :=
  .of_hostRegWrite h

theorem of_execHbCmdwWrite {p : Nat} {hdr : BitVec 128} {w : Nat} {v : Word} (h : Kept false s t) : AnswerKept false s
    (execHbCmdwWrite p hdr w v t) :=
  .of_ite (.of_hostRegWrite h) h

theorem of_execHbCmdrWrite {p : Nat} {hdr : BitVec 128} {w : Nat} {v : Word} (h : Kept false s t) : AnswerKept false s
    (execHbCmdrWrite p hdr w v t) :=
  .of_ite (.of_hostRegWrite h) h

theorem of_execHbCmdcWrite {p : Nat} {hdr : BitVec 128} {w : Nat} {v : Word} (h : Kept false s t) : AnswerKept false s
    (execHbCmdcWrite p hdr w v t) :=
  .of_ite (.of_hostRegWrite h) h

theorem of_execHbSigCfgWrite {p : Nat} {hdr : BitVec 128} {v : Word} (h : Kept false s t) : AnswerKept false s
    (execHbSigCfgWrite p hdr v t) :=
  .of_hostRegWrite h

theorem of_execHbTdTurnWrite {p : Nat} {hdr : BitVec 128} {v : Word} (h : Kept false s t) : AnswerKept false s
    (execHbTdTurnWrite p hdr v t) :=
  .of_hostRegWrite h

theorem of_execHbKwSeed0Write {p : Nat} {hdr : BitVec 128} {v : Word} (h : Kept false s t) : AnswerKept false s
    (execHbKwSeed0Write p hdr v t) :=
  .of_hostRegWrite h

theorem of_execHbKwSeed1Write {p : Nat} {hdr : BitVec 128} {v : Word} (h : Kept false s t) : AnswerKept false s
    (execHbKwSeed1Write p hdr v t) :=
  .of_hostRegWrite h

theorem of_execInKwCseed0Write {p : Nat} {hdr : BitVec 128} {v : Word} (h : Kept false s t) : AnswerKept false s
    (execInKwCseed0Write p hdr v t) :=
  .of_hostRegWrite h

theorem of_execInKwCseed1Write {p : Nat} {hdr : BitVec 128} {v : Word} (h : Kept false s t) : AnswerKept false s
    (execInKwCseed1Write p hdr v t) :=
  .of_hostRegWrite h

theorem of_execHbEtaValWrite {p : Nat} {hdr : BitVec 128} {n : Nat} {v : Word} (h : Kept false s t) : AnswerKept false s
    (execHbEtaValWrite p hdr n v t) :=
  .of_ite (.of_hostRegWrite h) h

theorem of_execHbEtaStepWrite {p : Nat} {hdr : BitVec 128} {n : Nat} {v : Word} (h : Kept false s t) : AnswerKept false s
    (execHbEtaStepWrite p hdr n v t) :=
  .of_ite (.of_hostRegWrite h) h

theorem of_execHbPsetLsWrite {p : Nat} {hdr : BitVec 128} {n : Nat} {v : Word} (h : Kept false s t) : AnswerKept false s
    (execHbPsetLsWrite p hdr n v t) :=
  .of_ite (.of_hostRegWrite h) h

theorem of_execHbPsetReplWrite {p : Nat} {hdr : BitVec 128} {n : Nat} {v : Word} (h : Kept false s t) : AnswerKept false s
    (execHbPsetReplWrite p hdr n v t) :=
  .of_ite (.of_hostRegWrite h) h

theorem of_execLdAnchWrite {p : Nat} {hdr : BitVec 128} {v : Word} (h : Kept false s t) : AnswerKept false s
    (execLdAnchWrite p hdr v t) :=
  .of_hostRegWrite h

theorem of_execDsPoolWrite {p : Nat} {hdr : BitVec 128} {cfg : Bool} {v : Word} (h : Kept false s t) : AnswerKept false s
    (execDsPoolWrite p hdr cfg v t) :=
  .of_hostRegWrite h

theorem of_execBtPermitCfgWrite {p : Nat} {hdr : BitVec 128} {q : Nat} {v : Word} (h : Kept false s t) : AnswerKept false s
    (execBtPermitCfgWrite p hdr q v t) :=
  .of_ite (.of_hostRegWrite h) h

theorem of_execInRecallCtlWrite {p : Nat} {hdr : BitVec 128} {v : Word} (h : Kept false s t) : AnswerKept false s
    (execInRecallCtlWrite p hdr v t) :=
  .of_hostRegWrite h

theorem of_execInRetireCfgWrite {p : Nat} {hdr : BitVec 128} {v : Word} (h : Kept false s t) : AnswerKept false s
    (execInRetireCfgWrite p hdr v t) :=
  .of_hostRegWrite h

theorem of_execPwCapWrite {p : Nat} {hdr : BitVec 128} {v : Word} (h : Kept false s t) : AnswerKept false s
    (execPwCapWrite p hdr v t) :=
  .of_hostRegWrite h

theorem of_execRegisterWrite {p : Nat} {hdr : BitVec 128} {off : Nat} {v : Word} (h : Kept false s t) : AnswerKept false s
    (execRegisterWrite p hdr off v t) :=
  .of_hostRegWrite h

theorem of_settleActive (h : Kept false s t) : Kept false s (settleActive t) := .of_ite (.of_settle h) h

theorem of_execRegRead {off : Nat} (h : Kept false s t) : AnswerKept false s (execRegRead off t) := by
  unfold execRegRead
  change Kept false s _
  refine .of_ite h ?_
  split
  · exact .of_sideband h
  · exact .of_sideband h

theorem of_execRegWrite {off : Nat} {v : Word} (h : Kept false s t) : AnswerKept false s (execRegWrite off v t) := by
  unfold execRegWrite
  change Kept false s _
  refine .of_ite h ?_
  dsimp only
  split
  · exact .of_sideband h
  · split
    · exact .of_settleActive (.of_orderReset (.of_sideband (.of_writeReg h)))
    · exact .of_settleActive (.of_sideband (.of_writeReg h))

theorem of_execAlertCause (h : Kept false s t) : AnswerKept false s (execAlertCause t) :=
  .of_ite h (.of_alertEdge (.of_setFld (.of_sideband h)))

theorem of_execWake (h : Kept false s t) : AnswerKept false s (execWake t) := .of_ite h (.of_recordWake (.of_sideband h))

theorem of_execWarm {keep ref : Bool} (h : Kept false s t) : AnswerKept false s (execWarm keep ref t) :=
  .of_ite h (.of_warmReset (.of_sideband h))

theorem of_selectTap {i : TapInstr} {out : List Bool} (h : Kept false s t) : Kept false s (selectTap t i out) :=
  .of_ite h (.of_emit (.with_core h rfl))

theorem of_boundaryTap {i : TapInstr} (h : Kept false s t) : Kept false s (boundaryTap t i) :=
  .of_selectTap (.with_core h rfl)

theorem of_execBypass (h : Kept false s t) : AnswerKept false s (execBypass t) := .of_selectTap h

theorem of_execIdcode (h : Kept false s t) : AnswerKept false s (execIdcode t) := .of_selectTap h

theorem of_execSamplePreload (h : Kept false s t) : AnswerKept false s (execSamplePreload t) := .of_boundaryTap h

theorem of_execExtest (h : Kept false s t) : AnswerKept false s (execExtest t) := .of_boundaryTap h

theorem of_debugOut {v : Nat} (h : Kept false s t) : Kept false s (debugOut t v) := .of_selectTap h

theorem of_freeWord (h : Kept false s t) : Kept false s (freeWord t).1 := .with_core h rfl

theorem of_sramPut {off : Nat} {v : Word} (h : Kept false s t) : Kept false s (sramPut t off v) := .with_core h rfl

/-- Whether a debug access blows a fuse (R416). -/
def blows : DebugOp → Bool
  | .blowDbgKill | .blowKeyRevoked _ | .blowSvnMin _ => true
  | _ => false

theorem of_debugDo {op : DebugOp} (hop : blows op = false) (h : Kept false s t) : Kept false s (debugDo t op) := by
  cases op with
  | wrapper _ => exact .of_debugOut (.of_freeWord h)
  | regRead off => exact .of_debugOut h
  | regWrite off v =>
    have hwritten : Kept false s (selectTap (writeReg t off v.toNat).1 .debug []) := .of_selectTap (.of_writeReg h)
    refine .of_ite (c := off % 8 = 0 ∧ off < 0x1000000) ?_ (.of_selectTap h)
    split
    · exact .of_settleActive (.of_orderReset hwritten)
    · exact .of_settleActive hwritten
  | sramRead off => exact .of_ite (.of_debugOut h) (.of_debugOut (.of_freeWord h))
  | sramWrite off v => exact .of_selectTap (.of_ite (.of_sramPut h) h)
  | halt => exact .of_selectTap (.with_boot h _)
  | resume => exact .of_selectTap (.of_settle (.of_answerBadOps (.with_boot h _)))
  | keyHash off => exact .of_ite (.of_debugOut h) (.of_debugOut (.of_freeWord h))
  | blowDbgKill => cases hop
  | blowKeyRevoked _ => cases hop
  | blowSvnMin _ => cases hop

theorem of_execDebugAccess {op : DebugOp} (hop : blows op = false) (h : Kept false s t) :
    AnswerKept false s (execDebugAccess op t) :=
  show Kept false s _ from .of_ite h (.of_ite (.of_debugDo hop h) (.of_selectTap h))

end Kept

end Sys2Proof.Machine
end

section
/-!
PROOFS. The canonical form of memory, the lock and the fuses through every row and step (R393, R412, R416, R432).
-/
namespace Sys2Proof.Machine

open Sys2Proof

/-- The rows that `Kept` does not hold of: those that begin with a loss of supply or a Cold reset, and a debug access. -/
def losesOrBlows : Instr → Bool
  | .cold _ | .coldRstN _ | .powerOn _ | .supplyRemoval | .debugAccess _ => true
  | _ => false

theorem Kept.of_exec {s t : State} {i : Instr} (hi : losesOrBlows i = false) (h : Kept false s t) : AnswerKept false s
    (exec i t) := by
  cases i with
  | rd _ _ => exact Kept.of_execRd h
  | rda _ _ => exact Kept.of_execRda h
  | wr _ _ _ => exact Kept.of_execWr h
  | wrr _ _ _ => exact Kept.of_execWrr h
  | finalWrite _ _ _ => exact Kept.of_execFinalWrite h
  | atm _ _ _ => exact Kept.of_execAtm h
  | fnl _ _ => exact Kept.of_execFnl h
  | plt _ _ _ _ => exact Kept.of_execPlt h
  | flitWithoutCredit _ => exact Kept.of_execFlitWithoutCredit h
  | responseCredit _ _ => exact Kept.of_execResponseCredit h
  | linkReplay _ _ => exact Kept.of_execLinkReplay h
  | heldRead _ _ => exact Kept.of_execHeldRead h
  | commandStart _ => exact Kept.of_execCommandStart h
  | heldReplyPost _ => exact Kept.of_execHeldReplyPost h
  | psetCreate _ => exact Kept.of_execPsetCreate h
  | psetDestroy _ => exact Kept.of_execPsetDestroy h
  | psetConst _ => exact Kept.of_execPsetConst h
  | tdCreate _ => exact Kept.of_execTdCreate h
  | tdDestroy _ => exact Kept.of_execTdDestroy h
  | psetQuery _ => exact Kept.of_execPsetQuery h
  | manOpen _ => exact Kept.of_execManOpen h
  | manCancel _ => exact Kept.of_execManCancel h
  | manQuery _ => exact Kept.of_execManQuery h
  | watchSet _ => exact Kept.of_execWatchSet h
  | watchClear _ => exact Kept.of_execWatchClear h
  | routeLoad _ => exact Kept.of_execRouteLoad h
  | tokenSend _ => exact Kept.of_execTokenSend h
  | tokenReturn _ => exact Kept.of_execTokenReturn h
  | gradDispatch _ => exact Kept.of_execGradDispatch h
  | bufRelease _ => exact Kept.of_execBufRelease h
  | bufReleaseTimeout _ => exact Kept.of_execBufReleaseTimeout h
  | sweep _ => exact Kept.of_execSweep h
  | sweepResume _ => exact Kept.of_execSweepResume h
  | sweepLandTimeout _ => exact Kept.of_execSweepLandTimeout h
  | sweepNormTimeout _ => exact Kept.of_execSweepNormTimeout h
  | lossScale _ => exact Kept.of_execLossScale h
  | exportSub _ => exact Kept.of_execExportSub h
  | exportUnsub _ => exact Kept.of_execExportUnsub h
  | exportPush _ => exact Kept.of_execExportPush h
  | berthBatch _ => exact Kept.of_execBerthBatch h
  | berthCancel _ => exact Kept.of_execBerthCancel h
  | gateOpen _ => exact Kept.of_execGateOpen h
  | gateArrive _ => exact Kept.of_execGateArrive h
  | gateAbort _ => exact Kept.of_execGateAbort h
  | beaconWait _ => exact Kept.of_execBeaconWait h
  | beaconWaitTimeout _ => exact Kept.of_execBeaconWaitTimeout h
  | taskClose _ => exact Kept.of_execTaskClose h
  | checkFraction _ => exact Kept.of_execCheckFraction h
  | fieldTest _ _ => exact Kept.of_execFieldTest h
  | patternLoad _ => exact Kept.of_execPatternLoad h
  | rowRepair _ => exact Kept.of_execRowRepair h
  | scrubRange _ => exact Kept.of_execScrubRange h
  | checkpoint _ => exact Kept.of_execCheckpoint h
  | restore _ => exact Kept.of_execRestore h
  | replay _ _ => exact Kept.of_execReplay h
  | digest _ => exact Kept.of_execDigest h
  | snapArm _ => exact Kept.of_execSnapArm h
  | shardCopy _ => exact Kept.of_execShardCopy h
  | quayState _ => exact Kept.of_execQuayState h
  | harbourMoor _ => exact Kept.of_execHarbourMoor h
  | configSave _ => exact Kept.of_execConfigSave h
  | logbookRead _ => exact Kept.of_execLogbookRead h
  | gateExpiry _ => exact Kept.of_execGateExpiry h
  | engineGateArrival _ _ => exact Kept.of_execEngineGateArrival h
  | attnLineEdge _ _ => exact Kept.of_execAttnLineEdge h
  | landingWrite _ _ _ => exact Kept.of_execLandingWrite h
  | tokenPacket _ _ _ => exact Kept.of_execTokenPacket h
  | contribPacket _ _ _ => exact Kept.of_execContribPacket h
  | ackPacket _ _ _ => exact Kept.of_execAckPacket h
  | gateArrivalMsg _ _ _ => exact Kept.of_execGateArrivalMsg h
  | gateReleaseMsg _ _ _ => exact Kept.of_execGateReleaseMsg h
  | gateAbortMsg _ _ _ => exact Kept.of_execGateAbortMsg h
  | pilotPacket _ _ _ => exact Kept.of_execPilotPacket h
  | normPacket _ _ _ => exact Kept.of_execNormPacket h
  | refusePacket _ _ _ => exact Kept.of_execRefusePacket h
  | manifestFinalise _ _ => exact Kept.of_execManifestFinalise h
  | manifestExpiry _ => exact Kept.of_execManifestExpiry h
  | parkTtlExpiry _ => exact Kept.of_execParkTtlExpiry h
  | ackTimeout _ _ => exact Kept.of_execAckTimeout h
  | anchorageHoldRelease _ => exact Kept.of_execAnchorageHoldRelease h
  | normExchangeStart _ => exact Kept.of_execNormExchangeStart h
  | craneSwitch => exact Kept.of_execCraneSwitch h
  | consignmentSweep _ _ _ _ => exact Kept.of_execConsignmentSweep h
  | duplicateCheck _ _ _ _ => exact Kept.of_execDuplicateCheck h
  | commit _ => exact Kept.of_execCommit h
  | digestExchangeTimeout _ => exact Kept.of_execDigestExchangeTimeout h
  | recallHoldTimeout _ => exact Kept.of_execRecallHoldTimeout h
  | modeWordWrite _ _ _ _ => exact Kept.of_execModeWordWrite h
  | modeChange _ => exact Kept.of_execModeChange h
  | goWrite _ _ _ _ => exact Kept.of_execGoWrite h
  | permitGrant _ => exact Kept.of_execPermitGrant h
  | matvec _ _ _ => exact Kept.of_execMatvec h
  | dot _ _ _ => exact Kept.of_execDot h
  | scale _ _ _ => exact Kept.of_execScale h
  | add _ _ _ => exact Kept.of_execAdd h
  | mul _ _ _ => exact Kept.of_execMul h
  | act _ _ _ => exact Kept.of_execAct h
  | reduce _ _ _ => exact Kept.of_execReduce h
  | normStat _ _ _ => exact Kept.of_execNormStat h
  | normApply _ _ _ => exact Kept.of_execNormApply h
  | smaxStat _ _ _ => exact Kept.of_execSmaxStat h
  | smaxApply _ _ _ => exact Kept.of_execSmaxApply h
  | attn _ _ _ => exact Kept.of_execAttn h
  | berthMerge _ => exact Kept.of_execBerthMerge h
  | berthDuplicate _ _ _ => exact Kept.of_execBerthDuplicate h
  | busyBankAccess _ _ => exact Kept.of_execBusyBankAccess h
  | permitPoolSizing _ => exact Kept.of_execPermitPoolSizing h
  | permitPoolFallback _ _ => exact Kept.of_execPermitPoolFallback h
  | harbourThrottle _ _ _ => exact Kept.of_execHarbourThrottle h
  | temperatureTrip _ => exact Kept.of_execTemperatureTrip h
  | scrubRowVisit _ => exact Kept.of_execScrubRowVisit h
  | watchWrap => exact Kept.of_execWatchWrap h
  | refLoss => exact Kept.of_execRefLoss h
  | refReturn => exact Kept.of_execRefReturn h
  | quayWake _ => exact Kept.of_execQuayWake h
  | mooring => exact Kept.of_execMooring h
  | hostWakeLine _ => exact Kept.of_execHostWakeLine h
  | fabricWake _ => exact Kept.of_execFabricWake h
  | wakeAfterExpiry => exact Kept.of_execWakeAfterExpiry h
  | harbourWake => exact Kept.of_execHarbourWake h
  | powerOn _ => cases hi
  | coldRstN _ => cases hi
  | warmRstN _ => exact Kept.of_execWarmRstN h
  | snapIn => exact Kept.of_execSnapIn h
  | engineReset _ => exact Kept.of_execEngineReset h
  | portReset _ => exact Kept.of_execPortReset h
  | quayReset _ => exact Kept.of_execQuayReset h
  | warmReset _ => exact Kept.of_execWarmReset h
  | warmResetKeep _ => exact Kept.of_execWarmResetKeep h
  | lockstepMismatch => exact Kept.of_execLockstepMismatch h
  | bootGo _ _ _ => exact Kept.of_execBootGo h
  | lock _ _ _ => exact Kept.of_execLock h
  | hbProtRgnWrite _ _ _ _ => exact Kept.of_execHbProtRgnWrite h
  | hbRoadsteadWrite _ _ _ => exact Kept.of_execHbRoadsteadWrite h
  | hbArenaWrite _ _ _ => exact Kept.of_execHbArenaWrite h
  | hbCmdwWrite _ _ _ _ => exact Kept.of_execHbCmdwWrite h
  | hbCmdrWrite _ _ _ _ => exact Kept.of_execHbCmdrWrite h
  | hbCmdcWrite _ _ _ _ => exact Kept.of_execHbCmdcWrite h
  | hbSigCfgWrite _ _ _ => exact Kept.of_execHbSigCfgWrite h
  | hbTdTurnWrite _ _ _ => exact Kept.of_execHbTdTurnWrite h
  | hbKwSeed0Write _ _ _ => exact Kept.of_execHbKwSeed0Write h
  | hbKwSeed1Write _ _ _ => exact Kept.of_execHbKwSeed1Write h
  | inKwCseed0Write _ _ _ => exact Kept.of_execInKwCseed0Write h
  | inKwCseed1Write _ _ _ => exact Kept.of_execInKwCseed1Write h
  | hbEtaValWrite _ _ _ _ => exact Kept.of_execHbEtaValWrite h
  | hbEtaStepWrite _ _ _ _ => exact Kept.of_execHbEtaStepWrite h
  | hbPsetLsWrite _ _ _ _ => exact Kept.of_execHbPsetLsWrite h
  | hbPsetReplWrite _ _ _ _ => exact Kept.of_execHbPsetReplWrite h
  | ldAnchWrite _ _ _ => exact Kept.of_execLdAnchWrite h
  | dsPoolWrite _ _ _ _ => exact Kept.of_execDsPoolWrite h
  | btPermitCfgWrite _ _ _ _ => exact Kept.of_execBtPermitCfgWrite h
  | inRecallCtlWrite _ _ _ => exact Kept.of_execInRecallCtlWrite h
  | inRetireCfgWrite _ _ _ => exact Kept.of_execInRetireCfgWrite h
  | pwCapWrite _ _ _ => exact Kept.of_execPwCapWrite h
  | registerWrite _ _ _ _ => exact Kept.of_execRegisterWrite h
  | regRead _ => exact Kept.of_execRegRead h
  | regWrite _ _ => exact Kept.of_execRegWrite h
  | alertCause => exact Kept.of_execAlertCause h
  | wake => exact Kept.of_execWake h
  | warm _ _ => exact Kept.of_execWarm h
  | cold _ => cases hi
  | bypass => exact Kept.of_execBypass h
  | idcode => exact Kept.of_execIdcode h
  | samplePreload => exact Kept.of_execSamplePreload h
  | extest => exact Kept.of_execExtest h
  | debugAccess _ => cases hi
  | supplyRemoval => cases hi
  | idleEntry _ => exact Kept.of_execIdleEntry h
  | watchTrimConverged _ => exact Kept.of_execWatchTrimConverged h

/-! ### Cold resets, the removal of supply and blown fuses (R393, R402, R416, R432) -/

theorem alertEdge_core (s t : State) : (alertEdge s t).core = t.core := by
  unfold alertEdge
  split <;> rfl

theorem coldClear_core (s : State) : (coldClear s).mem = [] ∧ (coldClear s).fuses = s.blown ∧
    (coldClear s).blown = s.blown := by
  have hcore := alertEdge_core
  simp only [State.core, Prod.mk.injEq] at hcore
  refine ⟨?_, ?_, ?_⟩ <;> simp only [coldClear, loseRegs, hcore] <;> rfl

theorem Kept.of_coldReset (s : State) (ref : Bool) : Kept false (coldClear s) (coldReset s ref) :=
  .of_trainPorts (.of_setFld (.of_trainLinks (.of_pllLock (.of_noteLoad (.of_addWrap (.refl _))))))

/-- What every row keeps of memory and of the fuses: those that a Cold reset senses are the blown ones (R432). -/
structure FusesKept (s t : State) : Prop where
  form : s.memOk → t.memOk
  blown : fusesGrow s.blown t.blown
  fuses : t.fuses = s.fuses ∨ t.fuses = s.blown

theorem fusesGrow_refl (f : Fuses) : fusesGrow f f := by simp [fusesGrow]

theorem fusesGrow_trans {f g k : Fuses} (h : fusesGrow f g) (h' : fusesGrow g k) : fusesGrow f k := by
  obtain ⟨hdbg, hkey, hsvn⟩ := h
  obtain ⟨hdbg', hkey', hsvn'⟩ := h'
  refine ⟨hdbg' ∘ hdbg, ?_, ?_⟩
  · rw [← hkey, BitVec.and_assoc, hkey']
  · rw [← hsvn, BitVec.and_assoc, hsvn']

theorem FusesKept.of_kept {s t : State} (h : Kept false s t) : FusesKept s t :=
  ⟨h.form, h.blown ▸ fusesGrow_refl _, .inl h.fuses⟩

/-- A state that follows from the clearing of a Cold reset. -/
theorem kept_of_coldClear {s t : State} (h : Kept false (coldClear s) t) :
    t.memOk ∧ t.fuses = s.blown ∧ t.blown = s.blown := by
  obtain ⟨hmem, hfuses, hblown⟩ := coldClear_core s
  exact ⟨h.form (by rw [State.memOk, hmem]; rfl), h.fuses.trans hfuses, h.blown.trans hblown⟩

theorem FusesKept.of_cold {s t : State} (h : t.memOk ∧ t.fuses = s.blown ∧ t.blown = s.blown) : FusesKept s t := by
  obtain ⟨hok, hfuses, hblown⟩ := h
  exact ⟨fun _ => hok, hblown ▸ fusesGrow_refl _, .inr hfuses⟩

theorem blow_core (s : State) (f : Fuses → Fuses) : (blow s f).core = (s.mem, s.regs, s.fuses, f s.blown) := by
  unfold blow selectTap
  split <;> rfl

theorem FusesKept.of_blow {s : State} {f : Fuses → Fuses} (hf : fusesGrow s.blown (f s.blown)) : FusesKept s (blow s f) := by
  have hcore := blow_core s f
  simp only [State.core, Prod.mk.injEq] at hcore
  obtain ⟨hmem, -, hfuses, hblown⟩ := hcore
  exact ⟨fun hok => by rwa [State.memOk, hmem], hblown.symm ▸ hf, .inl hfuses⟩

/-- Bits that are blown stay so when more are. -/
theorem and_or_self_left {n : Nat} (a b : BitVec n) : a &&& (a ||| b) = a := by
  ext i hi
  cases ha : a[i] <;> simp [ha]

theorem FusesKept.of_debugDo (s : State) (op : DebugOp) : FusesKept s (debugDo s op) := by
  cases hop : Kept.blows op with
  | false => exact .of_kept (.of_debugDo hop (.refl s))
  | true =>
    cases op with
    | blowDbgKill => exact .of_blow (f := fun g => { g with dbgKill := true }) ⟨fun _ => rfl, BitVec.and_self, BitVec.and_self⟩
    | blowKeyRevoked k =>
      exact .of_blow (f := fun g => { g with keyRevoked := g.keyRevoked ||| (1#2 <<< k) })
        ⟨id, and_or_self_left _ _, BitVec.and_self⟩
    | blowSvnMin m =>
      exact .of_blow (f := fun g => { g with fwSvnMin := g.fwSvnMin ||| m }) ⟨id, BitVec.and_self, and_or_self_left _ _⟩
    | wrapper | regRead | regWrite | sramRead | sramWrite | halt | resume | keyHash => cases hop

theorem FusesKept.refl (s : State) : FusesKept s s := .of_kept (.refl s)

theorem FusesKept.of_next {s t u : State} (h : (Host.Outcome.next u : Answer) = .next t)
    (hu : FusesKept s u) : FusesKept s t := by
  cases h
  exact hu

theorem kept_sideband (s : State) (st : Nat) (data : List Byte) : Kept false s (sideband s st data) := .of_sideband (.refl s)

/-- Every row keeps the canonical form of memory and clears no fuse (R432). -/
theorem exec_fusesKept {s t : State} {i : Instr} (h : exec i s = .next t) : FusesKept s t := by
  cases hi : losesOrBlows i with
  | false =>
    have hkept := Kept.of_exec hi (.refl s)
    rw [h] at hkept
    exact .of_kept hkept
  | true =>
    cases i with
    | debugAccess op =>
      refine .of_next h ?_
      split
      · exact .refl s
      · split
        · exact .of_debugDo s op
        · exact .of_kept (.of_selectTap (.refl s))
    | cold ref =>
      refine .of_next h ?_
      split
      · exact .refl s
      · exact .of_cold (kept_of_coldClear (s := sideband s sbOK []) (.of_coldReset _ ref))
    | coldRstN ref =>
      refine .of_next h ?_
      split
      · exact .of_cold (kept_of_coldClear (.of_coldReset s ref))
      · exact .refl s
    | powerOn ref =>
      refine .of_next h ?_
      split
      · exact .of_cold (kept_of_coldClear (.of_coldReset s ref))
      · exact .refl s
    | supplyRemoval =>
      have hcleared : Kept false (coldClear s) (removeSupply s) := .with_pow (.refl _) _
      exact .of_next h (.of_cold (kept_of_coldClear hcleared))
    | _ => cases hi

/-- Settles O5. -/
theorem stepKeepsForm : Obligations.StepKeepsForm := by
  unfold Obligations.StepKeepsForm
  intro s t hok hstep
  unfold step at hstep
  split at hstep
  · cases hstep
    exact (Kept.of_watchTick (.refl s) : Kept false s _).form hok
  · next hpending => exact (exec_fusesKept hstep).form hok

theorem exec_debugAccess_shut {s : State} {op : DebugOp} (hon : s.pow.harbour ≠ .off)
    (hshut : s.fuses.dbgKill = true ∨ locked s = true) : exec (.debugAccess op) s = .next (selectTap s .bypass [false]) := by
  have hopen : debugOpen s = false := by
    rcases hshut with h | h <;> simp [debugOpen, h]
  simp [exec, execDebugAccess, hon, hopen]

/-- Settles O60. -/
theorem lockStays : Obligations.LockStays := by
  unfold Obligations.LockStays
  intro s t i hl hexec
  cases hi : losesOrBlows i with
  | false =>
    have hkept := Kept.of_exec hi (.refl s)
    rw [hexec] at hkept
    exact .inl (hkept.lock hl)
  | true =>
    cases i with
    | debugAccess op =>
      left
      by_cases hoff : s.pow.harbour = .off
      · simp only [exec, execDebugAccess, hoff, if_true] at hexec
        cases hexec
        exact hl
      · rw [exec_debugAccess_shut hoff (.inr hl)] at hexec
        cases hexec
        exact (Kept.of_selectTap (.refl s) : Kept false s _).lock hl
    | cold ref => exact .inr (.inl ⟨ref, .inl rfl⟩)
    | coldRstN ref => exact .inr (.inl ⟨ref, .inr (.inl rfl)⟩)
    | powerOn ref => exact .inr (.inl ⟨ref, .inr (.inr rfl)⟩)
    | supplyRemoval => exact .inr (.inr rfl)
    | _ => cases hi

/-- A Cold reset senses the blown fuses (R432). -/
theorem coldReset_fuses (s : State) (ref : Bool) : (coldReset s ref).fuses = s.blown ∧ (coldReset s ref).blown = s.blown :=
  (kept_of_coldClear (.of_coldReset s ref)).2

theorem blow_fuses (s : State) (f : Fuses → Fuses) : (blow s f).fuses = s.fuses ∧ (blow s f).blown = f s.blown := by
  have hcore := blow_core s f
  simp only [State.core, Prod.mk.injEq] at hcore
  exact hcore.2.2

/-- Settles O54. -/
theorem debugAccessCloses : Obligations.DebugAccessCloses := by
  unfold Obligations.DebugAccessCloses
  refine ⟨fun s op hon hshut => exec_debugAccess_shut hon hshut, fun s op hactive hfuse hlock => ?_, fun s => blow_fuses s _,
    fun s k => blow_fuses s _, fun s m => blow_fuses s _, fun s ref hon => ⟨?_, ?_⟩, fun s ref hboot => ?_,
    fun s t i hexec => ?_, fun s t i hsensed hblown hexec => ?_⟩
  · simp [exec, execDebugAccess, debugOpen, hactive, hfuse, hlock]
  · refine ⟨coldReset (sideband s sbOK []) ref, by simp [exec, execCold, hon], ?_⟩
    exact coldReset_fuses (sideband s sbOK []) ref
  · refine ⟨coldReset s ref, by simp [exec, execColdRstN, isOn, hon], coldReset_fuses s ref⟩
  · refine ⟨coldReset s ref, ?_, coldReset_fuses s ref⟩
    have hboots : !isOn s ∨ fld s rHbBootStat 2 0 = 0 := hboot.imp_left fun hoff => by simp [isOn, hoff]
    exact congrArg Host.Outcome.next (if_pos hboots)
  · obtain ⟨-, hgrow, hfuses⟩ := exec_fusesKept hexec
    refine ⟨hgrow, fun hsub => ?_⟩
    rcases hfuses with heq | heq
    · rw [heq]
      exact ⟨fusesGrow_refl _, fusesGrow_trans hsub hgrow⟩
    · rw [heq]
      exact ⟨hsub, hgrow⟩
  · obtain ⟨-, ⟨hgrow, -, -⟩, hfuses⟩ := exec_fusesKept hexec
    refine ⟨?_, hgrow hblown⟩
    rcases hfuses with heq | heq
    · rwa [heq]
    · rwa [heq]

end Sys2Proof.Machine
end

section
/-!
PROOFS. The protection map while LOCK is clear, and once it is set (R409-R412).
-/
namespace Sys2Proof.Machine

open Sys2Proof

/-- The row of HB_PROT_RGN (Table 20-13). -/
def protRgnRow : RegRow :=
  ⟨.hbProtRgn, 0x8000, 0x8, 32, [⟨29, 0, .rwl, .cold, false⟩, ⟨59, 30, .rwl, .cold, false⟩, ⟨60, 60, .rwl, .cold, false⟩]⟩

/-- The row of HB_PROT_PORT (Table 20-13). -/
def protPortRow : RegRow := ⟨.hbProtPort, 0x9000, 0x8, 256, [⟨63, 0, .rwl, .cold, false⟩]⟩

theorem regAt_protRgn : ∀ r < 32, regAt (rHbProtRgn r) = some (protRgnRow, r) := by decide +kernel

theorem regAt_protPort : ∀ k < 256, regAt (rHbProtPort k) = some (protPortRow, k) := by decide +kernel

theorem writeReg_of_row {s : State} {r : RegRow} {i off : Nat} (v : Nat) (hrow : regAt off = some (r, i))
    (hpresent : regPresent s.part r.name i = true) (hl : locked s = false) : writeReg s off v =
        (writePresent s r i off v, false) := by
  simp [writeReg, hrow, hpresent, hl]

theorem writeReg_rgn {s : State} {r : Nat} (v : Nat) (hl : locked s = false) (hr : r < 32)
    (hv : bits v 60 60 = 0 ∨ bits v 29 0 ≤ bits v 59 30) :
    writeReg s (rHbProtRgn r) v = (plainWrite s protRgnRow (rHbProtRgn r) v, false) := by
  have hkept : writeRefused s .hbProtRgn v = false := by
    rw [writeRefused, Bool.and_eq_false_iff]
    rcases hv with hv | hv
    · left
      simpa [bit, bits_eq, Nat.testBit_eq_decide_div_mod_eq] using hv
    · exact .inr (decide_eq_false (by omega))
  rw [writeReg_of_row v (regAt_protRgn r hr) rfl hl]
  exact congrArg (·, false) (if_neg (by simp [protRgnRow, hkept]))

theorem ports_le (p : Part) : ports p ≤ 128 := by cases p <;> decide

theorem regPresent_port {p : Part} {k : Nat}
    (hk : k < 2 * ports p) : regPresent p protPortRow.name k = true := decide_eq_true hk

theorem writeReg_port {s : State} {k off : Nat} (v : Nat) (hl : locked s = false) (hk : k < 2 * ports s.part)
    (hrow : regAt off = some (protPortRow, k)) : writeReg s off v = (plainWrite s protPortRow off v, false) :=
  writeReg_of_row v hrow (regPresent_port hk) hl

theorem fld_setRegW (s : State) (off w : Nat) {hi lo : Nat} (hhi : hi < 64) : fld
    (setRegW s off w) off hi lo = bits w hi lo := by
  rw [fld, regW_setRegW, bits_mod_two_pow_64 _ hhi]

theorem bits_putBits_bits (w v hi lo : Nat) : bits (putBits w hi lo (bits v hi lo)) hi lo = bits v hi lo := by
  rw [bits_putBits, bits, Nat.mod_mod]

/-- Three fields of a register, in rising order, after a write of each. -/
theorem bits_putBits_three (w v : Nat) {h₀ l₀ h₁ l₁ h₂ l₂ : Nat} (h01 : h₀ < l₁) (h02 : h₀ < l₂) (h12 : h₁ < l₂) :
    let x := putBits (putBits (putBits w h₀ l₀ (bits v h₀ l₀)) h₁ l₁ (bits v h₁ l₁)) h₂ l₂ (bits v h₂ l₂)
    bits x h₀ l₀ = bits v h₀ l₀ ∧ bits x h₁ l₁ = bits v h₁ l₁ ∧ bits x h₂ l₂ = bits v h₂ l₂ := by
  refine ⟨?_, ?_, bits_putBits_bits _ _ _ _⟩
  · rw [bits_putBits_below _ _ h02, bits_putBits_below _ _ h01, bits_putBits_bits]
  · rw [bits_putBits_below _ _ h12, bits_putBits_bits]

/-- A write of three RWL fields while LOCK is clear. -/
theorem storedWrite_three (name : RegName) (base stride count h₀ l₀ h₁ l₁ h₂ l₂ old v : Nat) (lost : Lost) :
    storedWrite false ⟨name, base, stride, count, [⟨h₀, l₀, .rwl, lost, false⟩, ⟨h₁, l₁, .rwl, lost, false⟩,
      ⟨h₂, l₂, .rwl, lost, false⟩]⟩ old v =
    putBits (putBits (putBits old h₀ l₀ (bits v h₀ l₀)) h₁ l₁ (bits v h₁ l₁)) h₂ l₂ (bits v h₂ l₂) := rfl

theorem fld_plainWrite_rgn {s : State} (off v : Nat) (hl : locked s = false) :
    fld (plainWrite s protRgnRow off v) off 29 0 = bits v 29 0 ∧ fld (plainWrite s protRgnRow off v) off 59 30 = bits v 59 30 ∧
      fld (plainWrite s protRgnRow off v) off 60 60 = bits v 60 60 := by
  rw [plainWrite, hl, protRgnRow, storedWrite_three, fld_setRegW _ _ _ (by decide), fld_setRegW _ _ _ (by decide),
    fld_setRegW _ _ _ (by decide)]
  exact bits_putBits_three _ v (by decide) (by decide) (by decide)

theorem regW_plainWrite_port {s : State} (off v : Nat) (hl : locked s = false) :
    regW (plainWrite s protPortRow off v) off = v % 2 ^ 64 := by
  have hstored : storedWrite false protPortRow (regW s off) v = putBits (regW s off) 63 0 (bits v 63 0) := rfl
  have hall := bits_putBits (regW s off) 63 0 (bits v 63 0)
  rw [plainWrite, hl, hstored, regW_setRegW]
  simpa [bits] using hall

/-- Settles O52. -/
theorem openMapRecords : Obligations.OpenMapRecords := by
  unfold Obligations.OpenMapRecords
  intro s hl
  refine ⟨fun p need a n => by simp [hasRight, hl], fun r hr v hv => ?_, fun k hk v => ?_⟩
  · rw [writeReg_rgn v hl hr hv]
    obtain ⟨hbase, hlimit, hvalid⟩ := fld_plainWrite_rgn (rHbProtRgn r) v hl
    exact ⟨hbase, hlimit, hvalid, rfl⟩
  · have hcount := ports_le s.part
    rw [writeReg_port v hl hk (regAt_protPort k (by omega))]
    exact ⟨regW_plainWrite_port _ v hl, rfl⟩

/-- A range has a right at each of its 16 KiB units exactly when it has it at each of its bytes (R410). -/
theorem units_iff_bytes (a n : Nat) (hn : n ≠ 0) (P : Nat → Prop) :
    (∀ i < (a % 16384 + n + 16383) / 16384, P (a / 16384 + i)) ↔ ∀ i < n, P ((a + i) / 16384) := by
  constructor
  · intro h i hi
    have hunit := h ((a + i) / 16384 - a / 16384) (by omega)
    rwa [show a / 16384 + ((a + i) / 16384 - a / 16384) = (a + i) / 16384 by omega] at hunit
  · intro h i hi
    have hbyte := h (if i = 0 then 0 else 16384 * i - a % 16384) (by split <;> omega)
    rwa [show (a + if i = 0 then 0 else 16384 * i - a % 16384) / 16384 = a / 16384 + i by split <;> omega] at hbyte

theorem hasRight_iff {s : State} (hl : locked s = true) (p need a n : Nat) : hasRight s p need a n = true ↔
    ∀ i < n, ∃ r < 32, regionHolds s r ((a + i) / 16384) = true ∧ bit (regionRights s p r) need = true := by
  by_cases hn : n = 0
  · simp [hasRight, hn]
  · have hunit : ∀ u, unitRight s p need u = true ↔
        ∃ r < 32, regionHolds s r u = true ∧ bit (regionRights s p r) need = true := by
      simp [unitRight]
    rw [← units_iff_bytes a n hn fun u => ∃ r < 32, regionHolds s r u = true ∧ bit (regionRights s p r) need = true]
    simp [hasRight, hl, hn, hunit]

/-- Settles O53. -/
theorem lockHolds : Obligations.LockHolds := by
  unfold Obligations.LockHolds
  intro s hl
  refine ⟨hasRight_iff hl, fun off v => ?_, fun v => ?_⟩
  · have hkept : Kept true s (writeReg s off v).1 := .of_writeReg (.refl s)
    obtain ⟨hmap, hself, hsize⟩ := hkept.map rfl hl
    exact ⟨hkept.lock hl, fun r hr => hmap (0x8000 + r * 8) (by omega) (by omega),
      fun k hk => hmap (0x9000 + k * 8) (by omega) (by omega), hself, hsize⟩
  · have hrow : regAt rHbRoadstead =
        some (⟨.hbRoadstead, 0x10, 0x8, 1, [⟨17, 0, .rwl, .cold, false⟩, ⟨49, 32, .rw, .warm, true⟩]⟩, 0) := rfl
    have hcount : (Acc.rw == Acc.rwl) = false := rfl
    by_cases hsame : bits (regW s rHbRoadstead) 17 0 = bits v 17 0 <;>
      simp [writeReg, hrow, regPresent, changesRwl, hl, fld, hsame, bne]

end Sys2Proof.Machine
end
section
/-!
PROOFS. The step law, the idle step and the reset state (R379, R395, R402).
-/
namespace Sys2Proof.Machine

open Sys2Proof

/-- Settles O1: this is how `step` is defined on a queue with a front. -/
theorem stepRunsFront : Obligations.StepRunsFront := by
  unfold Obligations.StepRunsFront
  intro s c rest
  rfl

/-- Settles O4: the reset memory lists no byte. -/
theorem resetKeepsForm : Obligations.ResetKeepsForm := rfl

/-- The bits of a port's status register at reset. -/
theorem portStat_reset : ∀ p < 128, regW State.reset (rHbPortStat p) = 0 := by decide +kernel

/-- Settles O3: the registers are their Reset values, every table is empty. -/
theorem resetState : Obligations.ResetState := by
  unfold Obligations.ResetState
  refine ⟨?_, fun n => rfl, fun g => rfl, fun w => rfl, rfl, rfl, rfl, fun a => rfl, fun p hp => ?_, rfl⟩
  · decide +kernel
  · rw [fld, portStat_reset p hp]
    rfl

theorem now_lt (s : State) : now s < 2 ^ 48 := Nat.mod_lt _ (by decide)

theorem now_setFld_watch (s : State) {v : Nat} (hv : v < 2 ^ 48) : now (setFld s rHbWatch 47 0 v) = v := by
  rw [now, fld_setFld _ _ _ (by decide)]
  exact Nat.mod_eq_of_lt hv

/-- A tick that does not wrap adds 1. -/
theorem watchTick_of_lt {s : State} (hon : s.pow.harbour ≠ .off) (hlt : now s + 1 ≠ tickMod) :
    watchTick s = setFld s rHbWatch 47 0 (now s + 1) := by rw [watchTick, if_neg hon, if_neg hlt]

/-- A tick that wraps is counted. -/
theorem watchTick_of_wrap {s : State} (hon : s.pow.harbour ≠ .off) (hwrap : now s + 1 = tickMod) :
    watchTick s = addWrap (setFld s rHbWatch 47 0 0) := by rw [watchTick, if_neg hon, if_pos hwrap]

/-- Settles O2: the tick that wraps is counted, every other one adds 1. -/
theorem idleStepIsOneTick : Obligations.IdleStepIsOneTick := by
  unfold Obligations.IdleStepIsOneTick
  intro s hidle hon
  have hstep : step s = .next (watchTick s) := by rw [step, hidle]
  refine ⟨watchTick s, hstep, ?_⟩
  have hmod : 2 ^ 48 = tickMod := rfl
  rw [hmod]
  by_cases hwrap : now s + 1 = tickMod
  · rw [watchTick_of_wrap hon hwrap, hwrap, if_pos rfl]
    exact ⟨now_setFld_watch s (by decide), rfl, rfl, rfl, rfl⟩
  · have hlt : now s + 1 < tickMod := Nat.lt_of_le_of_ne (now_lt s) hwrap
    rw [watchTick_of_lt hon hwrap, now_setFld_watch s hlt, Nat.mod_eq_of_lt hlt, if_neg hwrap]
    exact ⟨rfl, rfl, rfl, rfl, rfl⟩

end Sys2Proof.Machine
end
section
/-!
PROOFS. Pools, throttling, trips and quay wakes (R309, R310, R347, R383, R384, R388), the mooring and the wakes of the harbour
(R390-R393), the clock (R375-R379), Idle (R386), and the sideband and the test port (R391, R412-R416).
-/
namespace Sys2Proof.Machine

open Sys2Proof

/-- Settles O39: in an Active harbour each row is the event that its guard lets through. -/
theorem powerEventsComplete : Obligations.PowerEventsComplete := by
  unfold Obligations.PowerEventsComplete
  refine ⟨?sizing, ?fallback, ?throttle, ?trip, ?wake⟩
  case sizing =>
    intro s meas hactive
    exact next_congr (if_pos hactive)
  case fallback =>
    intro s q tempC hactive hq hawake hexpired
    refine next_congr ((if_pos ⟨hactive, hq, hawake, hexpired⟩).trans ?_)
    simp only [decide_eq_true_eq]
  case throttle =>
    intro s mw tempC quayC hactive
    exact next_congr (if_pos hactive)
  case trip =>
    rintro s s1 reading hactive hhot rfl
    exact next_congr (if_pos ⟨hactive, hhot⟩)
  case wake =>
    intro s q failed hactive hwaking
    exact next_congr (if_pos ⟨hactive, hwaking⟩)

/-- Settles O40: each row is the branch that the harbour's state selects. -/
theorem harbourPowerComplete : Obligations.HarbourPowerComplete := by
  unfold Obligations.HarbourPowerComplete
  refine ⟨?mooring, ?host, ?fabric, ?after, ?wake, ?warm⟩
  case mooring =>
    intro s retain hmooring
    have hrow : exec .mooring s = execMooring s := rfl
    rw [hrow, execMooring, hmooring]
  case host =>
    intro s die hdie
    exact next_congr (if_pos hdie)
  case fabric =>
    intro s port hport
    exact next_congr (if_pos hport)
  case after =>
    intro s hset hexpired
    exact next_congr (if_pos ⟨hset, hexpired⟩)
  case wake =>
    intro s retain hmoored hwaking hnone
    have hrow : exec .harbourWake s = execHarbourWake s := rfl
    rw [hrow, execHarbourWake, hmoored, hwaking]
    dsimp only
    rw [hnone]
  case warm =>
    intro s retain keep ref hmoored hwaking hwarm
    have hrow : exec .harbourWake s = execHarbourWake s := rfl
    rw [hrow, execHarbourWake, hmoored, hwaking]
    dsimp only
    rw [hwarm]

theorem mem_insertNew {α : Type} [DecidableEq α] (l : List α) (x : α) : x ∈ insertNew l x := by
  unfold insertNew
  split
  · assumption
  · simp

theorem Kept.part {m : Bool} {s t : State} (h : Kept m s t) : t.part = s.part := congrArg Fuses.part h.fuses

/-- Settles O41: each row is the event that its guard lets through; losing the reference leaves the part as it is. -/
theorem clockEventsComplete : Obligations.ClockEventsComplete := by
  unfold Obligations.ClockEventsComplete
  refine ⟨?wrap, ?loss, ?back, ?trim, ?engine, ?berth⟩
  case wrap =>
    intro s hwrap
    exact next_congr (if_pos hwrap)
  case loss =>
    intro s hon href
    have hkept : Kept false s (raiseAlert (bump (setFld s rHbClk 0 0 0) rHbClk 47 40 1) 1) :=
      .of_raiseAlert (.of_bump (.of_setFld (.refl s)))
    refine next_congr ((if_pos ⟨hon, href⟩).trans ?_)
    generalize raiseAlert (bump (setFld s rHbClk 0 0 0) rHbClk 47 40 1) 1 = s1 at hkept ⊢
    dsimp only
    rw [hkept.part]
  case back =>
    intro s hon href
    exact next_congr (if_pos ⟨hon, href⟩)
  case trim =>
    intro s offset hon href
    exact next_congr (if_pos ⟨hon, href⟩)
  case engine =>
    intro s e hactive hlisted hpresent hquiet
    refine ⟨_, next_congr (if_pos ⟨hactive, hlisted, by simp [hpresent], hquiet⟩), mem_insertNew _ _, rfl⟩
  case berth =>
    intro s b hactive hb hidle
    refine ⟨_, next_congr (if_pos ⟨hactive, hb, by simp [hidle]⟩), mem_insertNew _ _, rfl⟩

/-- Settles O43: with supply, each sideband row is the register access that its offset selects. -/
theorem sidebandComplete : Obligations.SidebandComplete := by
  unfold Obligations.SidebandComplete
  refine ⟨?read, ?write, ?order, ?events, ?faults, ?silent, ?tap, ?debug⟩
  case read =>
    intro s off hon hserved
    refine next_congr ((if_neg hon).trans ?_)
    rw [hserved]
  case write =>
    intro s off v hon hserved hplain
    refine next_congr ((if_neg hon).trans ?_)
    rw [hserved]
    dsimp only
    rw [hplain]
  case order =>
    intro s off k t v hon hserved hreset
    refine next_congr ((if_neg hon).trans ?_)
    rw [hserved]
    dsimp only
    rw [hreset]
  case events =>
    intro s hon
    exact ⟨next_congr (if_neg hon), next_congr (if_neg hon), fun ref => next_congr (if_neg hon),
      fun keep ref => next_congr (if_neg hon)⟩
  case faults =>
    intro s off st hon hfault
    refine ⟨next_congr ((if_neg hon).trans ?_), fun v => next_congr ((if_neg hon).trans ?_)⟩
    · rw [hfault]
    · rw [hfault]
  case silent =>
    intro s hoff
    exact ⟨next_congr (if_pos hoff), next_congr (if_pos hoff), fun off => next_congr (if_pos hoff)⟩
  case tap =>
    intro s hon
    exact ⟨rfl, rfl, rfl, rfl⟩
  case debug =>
    intro s op hactive hopen
    have hon : s.pow.harbour ≠ .off := by simp [hactive]
    exact next_congr ((if_neg hon).trans (if_pos (by simp [hopen, hactive])))

end Sys2Proof.Machine
end
section
/-!
PROOFS. The permit pools at an interval boundary (R309, R310, R384, R388).
-/
namespace Sys2Proof.Machine

open Sys2Proof

/-- The pool that an interval boundary gives a quay while the harbourmaster runs (R309, R384). -/
def sizedPool (s : State) (q : Nat) (m : QuayMeas) : Nat :=
  if fld s rPwHbStat 21 21 = 1 then 0
  else poolOf (fld s rPwCap 16 0) (fld s (rBtPermitCfg q) 45 32) (fld s (rBtPermitCfg q) 27 16) (fld s (rBtPermitCfg q) 8 0)
    (fld s (rBtPermitCfg q) 55 48) (fld s (rBtPermitCfg q) 63 56) m.otherMw m.tempC

theorem newPool_eq (s : State) (q : Nat) (m : QuayMeas) :
    newPool s q m =
      let s1 := if sizedPool s q m = 0 then bump s (rBtPermitStat q) 63 48 1 else s
      setPermits s1 q { permitsOf s1 q with pool := sizedPool s q m, fallback := false, sizedTick := now s1 } := rfl

/-- The registers that one quay's measurements and the hold of its crane write. -/
def measured (k off : Nat) : Prop := off = rBtPermitStat k ∨ off = rPwQuayStat k ∨ off = rCrStat k

/-- What the boundary of quay `k` leaves: every other register, the pools of the other quays, and who sleeps and runs. -/
structure SizingFrame (k : Nat) (s t : State) : Prop where
  regs : ∀ off, ¬ measured k off → regW t off = regW s off
  pools : ∀ q, q ≠ k → permitsOf t q = permitsOf s q
  pow : t.pow = s.pow
  boot : t.boot = s.boot
  fuses : t.fuses = s.fuses

namespace SizingFrame

variable {k : Nat} {s t u : State}

theorem refl (s : State) : SizingFrame k s s := ⟨fun _ _ => rfl, fun _ _ => rfl, rfl, rfl, rfl⟩

theorem trans (h : SizingFrame k s t) (h' : SizingFrame k t u) : SizingFrame k s u where
  regs off hoff := (h'.regs off hoff).trans (h.regs off hoff)
  pools q hq := (h'.pools q hq).trans (h.pools q hq)
  pow := h'.pow.trans h.pow
  boot := h'.boot.trans h.boot
  fuses := h'.fuses.trans h.fuses

theorem of_setFld (h : SizingFrame k s t) {off hi lo v : Nat} (hoff : measured k off) : SizingFrame k s (setFld t off hi lo v) :=
  h.trans ⟨fun _ hoff' => regW_setRegW_other t _ fun heq => hoff' (heq ▸ hoff), fun _ _ => rfl, rfl, rfl, rfl⟩

theorem of_bump (h : SizingFrame k s t) {off hi lo n : Nat} (hoff : measured k off) : SizingFrame k s (bump t off hi lo n) := by
  unfold bump
  split
  · exact h
  · exact h.of_setFld hoff

theorem of_setPermits (h : SizingFrame k s t) (x : Permits) : SizingFrame k s (setPermits t k x) :=
  h.trans ⟨fun _ _ => rfl, fun q hq => by simp [permitsOf, setPermits, tget_tput, Ne.symm hq], rfl, rfl, rfl⟩

theorem with_walk (h : SizingFrame k s t) (w : WalkSt) : SizingFrame k s { t with walk := w } :=
  h.trans ⟨fun _ _ => rfl, fun _ _ => rfl, rfl, rfl, rfl⟩

theorem of_modSet (h : SizingFrame k s t) (n : Nat) (f : Pset → Pset) : SizingFrame k s (modSet t n f) := by
  unfold modSet
  split
  · exact h.trans ⟨fun _ _ => rfl, fun _ _ => rfl, rfl, rfl, rfl⟩
  · exact h

theorem of_holdCrane (h : SizingFrame k s t) : SizingFrame k s (holdCrane t k) := by
  unfold holdCrane countHold
  have hheld := h.with_walk { t.walk with powerHeld := insertNew t.walk.powerHeld k }
  split
  · split
    · exact (hheld.of_bump (.inr (.inr rfl))).of_modSet _ _
    · exact hheld
  · exact hheld

theorem of_measureQuay (h : SizingFrame k s t) (m : QuayMeas) : SizingFrame k s (measureQuay t k m) := by
  have hst : measured k (rBtPermitStat k) := .inl rfl
  have hpq : measured k (rPwQuayStat k) := .inr (.inl rfl)
  unfold measureQuay
  dsimp only
  split
  · exact (((((h.of_setFld hst).of_setFld hst).of_setFld hst).of_setFld hpq).of_setFld hpq).of_bump hpq
  · exact ((((h.of_setFld hst).of_setFld hst).of_setFld hst).of_setFld hpq).of_setFld hpq

theorem of_newPool (h : SizingFrame k s t) (m : QuayMeas) : SizingFrame k s (newPool t k m) := by
  rw [newPool_eq]
  refine of_setPermits ?_ _
  split
  · exact h.of_bump (.inl rfl)
  · exact h

theorem of_boundaryHold (h : SizingFrame k s t) (m : QuayMeas) : SizingFrame k s (boundaryHold t k m) := by
  unfold boundaryHold
  split
  · exact h.of_holdCrane
  · exact h.with_walk _

theorem of_skipQuay (h : SizingFrame k s t) : SizingFrame k s (skipQuay t k) := by
  unfold skipQuay
  split
  · exact h
  · exact h.with_walk _

theorem of_sizeQuay (h : SizingFrame k s t) (m : QuayMeas) : SizingFrame k s (sizeQuay t k m) := by
  unfold sizeQuay
  refine of_boundaryHold ?_ m
  split
  · exact (h.of_measureQuay m).of_newPool m
  · exact h.of_measureQuay m

theorem asleep_eq (h : SizingFrame k s t) : asleep t = asleep s := by rw [asleep, asleep, State.part, h.pow, h.fuses, State.part]

theorem hmRuns_eq (h : SizingFrame k s t) : hmRuns t = hmRuns s := by
  have hstat : regW t rHbHmStat = regW s rHbHmStat := h.regs _ (by unfold measured; grind)
  rw [hmRuns, hmRuns, clocksRun, clocksRun, h.pow, h.boot, fld, fld, hstat, fld, fld]

theorem sizedPool_eq (h : SizingFrame k s t) (hk : k < 16) {q : Nat} (hq : q < 16) (m : QuayMeas) :
    sizedPool t q m = sizedPool s q m := by
  have hstat : regW t rPwHbStat = regW s rPwHbStat := h.regs _ (by unfold measured; grind)
  have hcap : regW t rPwCap = regW s rPwCap := h.regs _ (by unfold measured; grind)
  have hcfg : regW t (rBtPermitCfg q) = regW s (rBtPermitCfg q) := h.regs _ (by unfold measured; grind)
  unfold sizedPool fld
  rw [hstat, hcap, hcfg]

end SizingFrame

theorem permitsOf_setPermits (s : State) (q : Nat) (x : Permits) : permitsOf (setPermits s q x) q = x := by
  simp [permitsOf, setPermits, tget_tput]

theorem bump_berth (s : State) (off hi lo n : Nat) : (bump s off hi lo n).berth = s.berth := by
  unfold bump
  split <;> rfl

theorem modSet_berth (s : State) (n : Nat) (f : Pset → Pset) : (modSet s n f).berth = s.berth := by
  unfold modSet
  split <;> rfl

theorem measureQuay_berth (s : State) (q : Nat) (m : QuayMeas) : (measureQuay s q m).berth = s.berth := by
  have hfld : ∀ (t : State) (off hi lo v : Nat), (setFld t off hi lo v).berth = t.berth := setFld_berth
  simp only [measureQuay, apply_ite State.berth, bump_berth, hfld, ite_self]

theorem holdCrane_berth (s : State) (q : Nat) : (holdCrane s q).berth = s.berth := by
  unfold holdCrane countHold
  split
  · split
    · rw [modSet_berth, bump_berth]
    · rfl
  · rfl

theorem boundaryHold_berth (s : State) (q : Nat) (m : QuayMeas) : (boundaryHold s q m).berth = s.berth := by
  unfold boundaryHold
  split
  · exact holdCrane_berth s q
  · rfl

/-- The pool of a quay after its own boundary. -/
theorem pool_sizeQuay (s : State) {q : Nat} (hq : q < 16) (m : QuayMeas) :
    (permitsOf (sizeQuay s q m) q).pool = if hmRuns s then sizedPool s q m else (permitsOf s q).pool := by
  have hmeasured : SizingFrame q s (measureQuay s q m) := (SizingFrame.refl s).of_measureQuay m
  unfold sizeQuay
  rw [permitsOf, boundaryHold_berth, hmeasured.hmRuns_eq]
  cases hmRuns s with
  | false => rw [if_neg (by decide), if_neg (by decide), measureQuay_berth, permitsOf]
  | true =>
    rw [if_pos rfl, if_pos rfl, newPool_eq, ← permitsOf, permitsOf_setPermits, hmeasured.sizedPool_eq hq hq]

/-- One quay at an interval boundary. -/
def sizeStep (meas : List QuayMeas) (s : State) (q : Nat) : State :=
  if q ∈ asleep s then skipQuay s q
  else
    match meas[q]? with
    | some m => sizeQuay s q m
    | none => skipQuay s q

theorem sizePools_eq (s : State) (meas : List QuayMeas) :
    sizePools s meas = (List.range (quays s.part)).foldl (sizeStep meas) s := rfl

theorem SizingFrame.of_sizeStep (s : State) (meas : List QuayMeas) (q : Nat) : SizingFrame q s (sizeStep meas s q) := by
  unfold sizeStep
  split
  · exact (refl s).of_skipQuay
  · split
    · exact (refl s).of_sizeQuay _
    · exact (refl s).of_skipQuay

theorem skipQuay_berth (s : State) (q : Nat) : (skipQuay s q).berth = s.berth := by
  unfold skipQuay
  split <;> rfl

/-- The pool of a measured quay after its own turn: sized where it is awake and the harbourmaster runs, else as it was. -/
theorem pool_sizeStep (s : State) {meas : List QuayMeas} {q : Nat} (hq : q < 16) {m : QuayMeas} (hm : meas[q]? = some m) :
    (permitsOf (sizeStep meas s q) q).pool =
      if q ∉ asleep s ∧ hmRuns s = true then sizedPool s q m else (permitsOf s q).pool := by
  unfold sizeStep
  by_cases hasleep : q ∈ asleep s
  · rw [if_pos hasleep, permitsOf, skipQuay_berth, if_neg (by simp [hasleep]), permitsOf]
  · rw [if_neg hasleep, hm]
    dsimp only
    rw [pool_sizeQuay s hq m]
    simp [hasleep]

/-- The turns of other quays change neither a quay's pool nor what its own turn reads. -/
theorem pool_foldl_sizeStep {meas : List QuayMeas} {q : Nat} (hq : q < 16) {m : QuayMeas} (hm : meas[q]? = some m) (l : List Nat)
    (hl : l.Nodup) (hlt : ∀ k ∈ l, k < 16) (s : State) :
    (permitsOf (l.foldl (sizeStep meas) s) q).pool =
      if q ∈ l ∧ q ∉ asleep s ∧ hmRuns s = true then sizedPool s q m else (permitsOf s q).pool := by
  induction l generalizing s with
  | nil => simp
  | cons k l ih =>
    obtain ⟨hnot, hnodup⟩ := List.nodup_cons.1 hl
    have hk : k < 16 := hlt k List.mem_cons_self
    have hframe := SizingFrame.of_sizeStep s meas k
    rw [List.foldl_cons, ih hnodup fun j hj => hlt j (List.mem_cons_of_mem _ hj), hframe.asleep_eq, hframe.hmRuns_eq,
      hframe.sizedPool_eq hk hq]
    by_cases hkq : q = k
    · subst hkq
      rw [if_neg fun h => hnot h.1, pool_sizeStep s hq hm]
      simp
    · rw [hframe.pools q hkq]
      simp [hkq]

theorem quays_le (p : Part) : quays p ≤ 16 := by cases p <;> decide

/-- Settles O57: each quay's turn sets its own pool, and no turn changes what another one reads. -/
theorem poolsFollowTheFormula : Obligations.PoolsFollowTheFormula := by
  unfold Obligations.PoolsFollowTheFormula
  intro s meas q m hactive hq hm
  have hrow : exec (.permitPoolSizing meas) s = .next (sizePools s meas) := next_congr (if_pos hactive)
  have hle := quays_le s.part
  have hpool := pool_foldl_sizeStep (hq.trans_le hle) hm (List.range (quays s.part)) List.nodup_range
    (fun k hk => (List.mem_range.1 hk).trans_le hle) s
  rw [← sizePools_eq] at hpool
  refine ⟨_, hrow, fun hkeeps => ?_, fun hawake hruns => ?_⟩
  · rw [hpool, if_neg]
    rintro ⟨-, hawake, hruns⟩
    rcases hkeeps with hasleep | hstopped
    · exact hawake hasleep
    · simp [hruns] at hstopped
  · rw [hpool, if_pos ⟨List.mem_range.2 hq, hawake, hruns⟩]
    rfl

end Sys2Proof.Machine
end
section
/-!
PROOFS. What the rows that measure, time or show something leave alone (R310, R379, R383, R386, R391, R413-R415).
-/
namespace Sys2Proof.Machine

open Sys2Proof

/-- The part of a state that a row which only shows leaves alone. -/
def State.hidden (s : State) : (Mem × Table (BitVec 32) × CmdSt × SyncSt × Table TDesc × LandSt × DispSt × Table Pset) ×
    ExpSt × IntegSt × Fuses × List Instr × Table Bank × List HeldReq × List (Nat × Nat) :=
  ((s.mem, s.chk, s.cmd, s.sync, s.tds, s.land, s.disp, s.sets), s.exp, s.integ, s.fuses, s.pending, s.berth.banks, s.host.reqs,
    s.host.tags)

/-- A state that differs from an earlier one only in what is shown. -/
def Shown (s t : State) : Prop := t.hidden = s.hidden

namespace Shown

variable {s t u : State}

theorem refl (s : State) : Shown s s := rfl

theorem of_eq (h : Shown s t) (hu : u.hidden = t.hidden) : Shown s u := hu.trans h

theorem with_pow (h : Shown s t) (p : PowSt) : Shown s { t with pow := p } := h.of_eq rfl

theorem with_walk (h : Shown s t) (w : WalkSt) : Shown s { t with walk := w } := h.of_eq rfl

theorem with_boot (h : Shown s t) (b : BootSt) : Shown s { t with boot := b } := h.of_eq rfl

theorem with_free (h : Shown s t) (n : Nat) : Shown s { t with free := n } := h.of_eq rfl

theorem of_setPermits (h : Shown s t) {q : Nat} {x : Permits} : Shown s (setPermits t q x) := h.of_eq rfl

theorem of_ite {c : Prop} [Decidable c] (ht : Shown s t) (hu : Shown s u) : Shown s (if c then t else u) := by
  split
  · exact ht
  · exact hu

theorem of_setFld (h : Shown s t) {off hi lo v : Nat} : Shown s (setFld t off hi lo v) := h.of_eq rfl

theorem of_bump (h : Shown s t) {off hi lo n : Nat} : Shown s (bump t off hi lo n) := .of_ite h h.of_setFld

theorem of_bumpMirror (h : Shown s t) {off hi lo n : Nat} : Shown s (bumpMirror t off hi lo n) :=
  .of_ite h (h.of_bump.with_boot _)

theorem of_emit (h : Shown s t) {o : Out} : Shown s (emit t o) := h.of_eq rfl

theorem of_alertEdge (h : Shown s t) {v : State} : Shown s (alertEdge v t) := .of_ite h h.of_emit

theorem of_recordWake (h : Shown s t) {cause : Nat} : Shown s (recordWake t cause) := by
  have hwake : Shown s (if t.pow.harbourWaking then t
      else setFld { t with pow := { t.pow with harbourWaking := true } } rPwState 34 32 cause) :=
    .of_ite h (h.with_pow _).of_setFld
  unfold recordWake
  split
  · exact hwake
  · exact hwake
  · exact h

theorem of_sideband (h : Shown s t) {status : Nat} {data : List Byte} : Shown s (sideband t status data) := h.of_emit

theorem of_selectTap (h : Shown s t) {i : TapInstr} {out : List Bool} : Shown s (selectTap t i out) :=
  .of_ite h (.of_emit (h.with_boot _))

theorem of_boundaryTap (h : Shown s t) {i : TapInstr} : Shown s (boundaryTap t i) :=
  of_selectTap (h.with_free (t.free + 1))

theorem of_watchTick (h : Shown s t) : Shown s (watchTick t) := .of_ite h (.of_ite (h.of_setFld.with_boot _) h.of_setFld)

theorem of_throttleMeasure (h : Shown s t) {mw tempC : Nat} {quayC : List Nat} : Shown s (throttleMeasure t mw tempC quayC) := by
  have hmeasured {v₁ v₂ : Nat} : Shown s (setFld (setFld (if fld t rPwHbStat 20 18 = 0 then t else bump t rPwHbStat 63 48 1)
      rPwHbStat 17 0 v₁) rPwHbStat 39 32 v₂) := (of_ite h h.of_bump).of_setFld.of_setFld
  exact .of_ite (hmeasured.of_setFld.with_walk _) hmeasured

theorem of_throttleStep (h : Shown s t) {mw tempC : Nat} {quayC : List Nat} : Shown s (throttleStep t mw tempC quayC) :=
  .of_ite h.of_throttleMeasure.of_setFld (.of_ite h.of_throttleMeasure.of_setFld h.of_throttleMeasure)

end Shown

/-- The next state of an answer differs only in what is shown. -/
def AnswerShown (s : State) (a : Answer) : Prop := ∀ t, a = .next t → Shown s t

theorem AnswerShown.of_next {s t : State} (h : Shown s t) : AnswerShown s (.next t) := by
  intro u hu
  cases hu
  exact h

theorem shown_of_row {s : State} {i : Instr} (hi : showsOnly i = true) : AnswerShown s (exec i s) := by
  have h := Shown.refl s
  cases i with
  | permitPoolFallback q tempC => exact .of_next (.of_ite h.of_setFld.of_setPermits h)
  | harbourThrottle mw tempC quayC => exact .of_next (.of_ite h.of_throttleStep h)
  | watchWrap => exact .of_next (.of_ite h.of_watchTick h)
  | watchTrimConverged offset => exact .of_next (.of_ite h.of_setFld.of_setFld h)
  | idleEntry u =>
    cases u with
    | engine e => exact .of_next (.of_ite (h.with_pow _) h)
    | berth b => exact .of_next (.of_ite (h.with_pow _) h)
  | regRead off =>
    refine .of_next (.of_ite h ?_)
    split
    · exact h.of_sideband
    · exact h.of_sideband
  | alertCause => exact .of_next (.of_ite h h.of_sideband.of_setFld.of_alertEdge)
  | wake => exact .of_next (.of_ite h h.of_sideband.of_recordWake)
  | hostWakeLine die => exact .of_next (.of_ite h.of_recordWake h)
  | fabricWake port => exact .of_next (.of_ite h.of_recordWake h)
  | wakeAfterExpiry => exact .of_next (.of_ite h.of_recordWake h)
  | bypass => exact .of_next h.of_selectTap
  | idcode => exact .of_next h.of_selectTap
  | samplePreload => exact .of_next h.of_boundaryTap
  | extest => exact .of_next h.of_boundaryTap
  | flitWithoutCredit p => exact .of_next (.of_ite h.of_setFld.of_emit h)
  | linkReplay link pilot =>
    cases link with
    | hostPort p => exact .of_next (.of_ite (.of_ite h.of_bumpMirror.of_bumpMirror h.of_bumpMirror) h)
    | quay q => exact .of_next (.of_ite (.of_ite h.of_bumpMirror h) h)
  | _ => cases hi

/-- Settles O58: each of these rows is a chain of updates that each keep the hidden part. -/
theorem showingRowsFrame : Obligations.ShowingRowsFrame := by
  unfold Obligations.ShowingRowsFrame
  intro s t i hi hexec
  have hshown : t.hidden = s.hidden := shown_of_row hi t hexec
  simp only [State.hidden, Prod.mk.injEq, and_assoc] at hshown
  exact hshown

end Sys2Proof.Machine
end
section
/-!
SUPPORT. Products in GF(2^8) as repeated doublings (R321): what doubling makes of a sum, and powers of the generator.
-/
namespace Sys2Proof.Machine

open Sys2Proof

/-- The product of a symbol by the generator, as `gfMulN` doubles (R321). -/
def timesAlpha (a : Nat) : Nat := if 2 * a < 256 then 2 * a else 2 * a ^^^ 0x11D

theorem gfMulN_succ (n a b : Nat) : gfMulN (n + 1) a b = (if b % 2 = 1 then a else 0) ^^^ gfMulN n (timesAlpha a) (b / 2) := rfl

theorem timesAlpha_eq : ∀ a < 256, timesAlpha a = a <<< 1 ^^^ 0x11D * (a >>> 7) := by decide +kernel

theorem timesAlpha_lt : ∀ a < 256, timesAlpha a < 256 := by decide +kernel

theorem timesAlpha_ne_zero : ∀ a < 256, a ≠ 0 → timesAlpha a ≠ 0 := by decide +kernel

theorem xor_lt_256 {a b : Nat} (ha : a < 256) (hb : b < 256) : a ^^^ b < 256 := Nat.xor_lt_two_pow (n := 8) ha hb

/-- Doubling is linear. -/
theorem timesAlpha_xor {a b : Nat} (ha : a < 256) (hb : b < 256) : timesAlpha (a ^^^ b) = timesAlpha a ^^^ timesAlpha b := by
  have htop : ∀ p < 2, ∀ q < 2, 0x11D * (p ^^^ q) = 0x11D * p ^^^ 0x11D * q := by decide
  have hbit : ∀ {c : Nat}, c < 256 → c >>> 7 < 2 := fun {c} hc => by rw [Nat.shiftRight_eq_div_pow]; omega
  rw [timesAlpha_eq _ (xor_lt_256 ha hb), timesAlpha_eq a ha, timesAlpha_eq b hb, Nat.shiftLeft_xor_distrib,
    Nat.shiftRight_xor_distrib, htop _ (hbit ha) _ (hbit hb)]
  ac_rfl

theorem timesAlpha_inj {a b : Nat} (ha : a < 256) (hb : b < 256) (h : timesAlpha a = timesAlpha b) : a = b := by
  by_contra hne
  refine timesAlpha_ne_zero _ (xor_lt_256 ha hb) (fun hzero => hne (Nat.xor_eq_zero_iff.1 hzero)) ?_
  rw [timesAlpha_xor ha hb, h, Nat.xor_self]

theorem iterate_timesAlpha_lt (n : Nat) {a : Nat} (ha : a < 256) : timesAlpha^[n] a < 256 := by
  induction n with
  | zero => exact ha
  | succ n ih =>
    rw [Function.iterate_succ_apply']
    exact timesAlpha_lt _ ih

theorem iterate_timesAlpha_xor (n : Nat) {a b : Nat} (ha : a < 256) (hb : b < 256) :
    timesAlpha^[n] (a ^^^ b) = timesAlpha^[n] a ^^^ timesAlpha^[n] b := by
  induction n with
  | zero => rfl
  | succ n ih =>
    rw [Function.iterate_succ_apply', Function.iterate_succ_apply', Function.iterate_succ_apply', ih,
      timesAlpha_xor (iterate_timesAlpha_lt n ha) (iterate_timesAlpha_lt n hb)]

theorem iterate_timesAlpha_zero (n : Nat) : timesAlpha^[n] 0 = 0 := Function.iterate_fixed rfl n

theorem iterate_timesAlpha_inj (n : Nat) {a b : Nat} (ha : a < 256) (hb : b < 256) (h : timesAlpha^[n] a = timesAlpha^[n] b) :
    a = b := by
  induction n with
  | zero => exact h
  | succ n ih =>
    rw [Function.iterate_succ_apply', Function.iterate_succ_apply'] at h
    exact ih (timesAlpha_inj (iterate_timesAlpha_lt n ha) (iterate_timesAlpha_lt n hb) h)

theorem gfMulN_lt (n b : Nat) {a : Nat} (ha : a < 256) : gfMulN n a b < 256 := by
  induction n generalizing a b with
  | zero => exact Nat.zero_lt_succ 255
  | succ n ih =>
    rw [gfMulN_succ]
    refine xor_lt_256 ?_ (ih _ (timesAlpha_lt a ha))
    split
    · exact ha
    · decide

theorem gfMul_lt {a : Nat} (ha : a < 256) (b : Nat) : gfMul a b < 256 := gfMulN_lt 8 b ha

theorem gfMulN_timesAlpha (n b : Nat) {a : Nat} (ha : a < 256) : gfMulN n (timesAlpha a) b = timesAlpha (gfMulN n a b) := by
  induction n generalizing a b with
  | zero => rfl
  | succ n ih =>
    have hlt := timesAlpha_lt a ha
    rw [gfMulN_succ, gfMulN_succ, ih _ hlt]
    split
    · rw [timesAlpha_xor ha (gfMulN_lt n _ hlt)]
    · rw [timesAlpha_xor (by decide) (gfMulN_lt n _ hlt)]
      rfl

theorem gfMul_two : ∀ b < 256, gfMul 2 b = timesAlpha b := by decide +kernel

theorem gfMul_one : ∀ b < 256, gfMul 1 b = b := by decide +kernel

theorem alphaPow_eq (n : Nat) : alphaPow n = timesAlpha^[n] 1 := by
  induction n with
  | zero => rfl
  | succ n ih =>
    rw [alphaPow, ih, gfMul_two _ (iterate_timesAlpha_lt n (by decide)), Function.iterate_succ_apply']

/-- A product by a power of the generator doubles as often. -/
theorem gfMul_alphaPow (n : Nat) {b : Nat} (hb : b < 256) : gfMul (alphaPow n) b = timesAlpha^[n] b := by
  rw [alphaPow_eq]
  induction n with
  | zero => exact gfMul_one b hb
  | succ n ih =>
    rw [Function.iterate_succ_apply', Function.iterate_succ_apply', ← ih]
    exact gfMulN_timesAlpha 8 b (iterate_timesAlpha_lt n (by decide))

/-- No fewer than 36 doublings bring a symbol back. -/
theorem notMem_iterate_timesAlpha : ∀ e < 256, e ≠ 0 → e ∉ List.iterate timesAlpha (timesAlpha e) 35 := by decide +kernel

theorem iterate_timesAlpha_unique {e x y : Nat} (he : e < 256) (hne : e ≠ 0) (hx : x < 36) (hy : y < 36)
    (h : timesAlpha^[x] e = timesAlpha^[y] e) : x = y := by
  wlog hle : x ≤ y generalizing x y
  · exact (this hy hx h.symm (by omega)).symm
  by_contra hxy
  obtain ⟨d, rfl⟩ : ∃ d, y = x + (d + 1) := ⟨y - x - 1, by omega⟩
  refine notMem_iterate_timesAlpha e he hne (List.mem_iterate.2 ⟨d, by omega, ?_⟩)
  rw [← Function.iterate_succ_apply]
  rw [Function.iterate_add_apply] at h
  exact iterate_timesAlpha_inj x he (iterate_timesAlpha_lt _ he) h

end Sys2Proof.Machine
end
section
/-!
PROOFS. One wrong symbol of a codeword is corrected (R321, R323, R324): the syndromes of what it leaves of the check symbols, and
the error that the decoder finds from them.
-/
namespace Sys2Proof.Machine

open Sys2Proof

/-- The remainder registers of the encoder (R321). -/
abbrev Registers := Nat × Nat × Nat × Nat

/-- Each register holds one symbol. -/
def Registers.bounded (r : Registers) : Prop := r.1 < 256 ∧ r.2.1 < 256 ∧ r.2.2.1 < 256 ∧ r.2.2.2 < 256

/-- The value of four symbols, as coefficients of x^3 to x^0, at a power of the generator. -/
def valueAt (j : Nat) (r : Registers) : Nat :=
  timesAlpha^[3 * j] r.1 ^^^ timesAlpha^[2 * j] r.2.1 ^^^ timesAlpha^[j] r.2.2.1 ^^^ r.2.2.2

/-- The symbols of a difference of check symbols. -/
def symbolsOf (d : BitVec 32) : Registers := (chkSym d 0, chkSym d 1, chkSym d 2, chkSym d 3)

theorem chkSym_lt (d : BitVec 32) (k : Nat) : chkSym d k < 256 := by
  rw [chkSym, bits_eq, show 8 * k + 7 + 1 - 8 * k = 8 by omega]
  exact Nat.mod_lt _ (by decide)

/-- A product by one of the powers that a syndrome needs doubles as often. -/
theorem gfMul_power : ∀ a < 256, ∀ n ∈ [0, 1, 2, 3, 4, 6, 9], gfMul a (alphaPow n) = timesAlpha^[n] a := by decide +kernel

theorem syndrome_eq (d : BitVec 32) {j : Nat} (hj : j < 4) : syndrome d j = valueAt j (symbolsOf d) := by
  have hpow : ∀ j < 4, 3 * j ∈ [0, 1, 2, 3, 4, 6, 9] ∧ 2 * j ∈ [0, 1, 2, 3, 4, 6, 9] ∧ j ∈ [0, 1, 2, 3, 4, 6, 9] := by decide
  obtain ⟨h3, h2, h1⟩ := hpow j hj
  rw [syndrome, gfMul_power _ (chkSym_lt d 0) _ h3, gfMul_power _ (chkSym_lt d 1) _ h2, gfMul_power _ (chkSym_lt d 2) _ h1]
  rfl

theorem chkSym_xor (d e : BitVec 32) (k : Nat) : chkSym (d ^^^ e) k = chkSym d k ^^^ chkSym e k := by
  simp only [chkSym, bits, BitVec.toNat_xor, Nat.shiftRight_xor_distrib, Nat.xor_mod_two_pow]

/-- Syndromes are linear. -/
theorem syndrome_xor (d e : BitVec 32) {j : Nat} (hj : j < 4) : syndrome (d ^^^ e) j = syndrome d j ^^^ syndrome e j := by
  rw [syndrome_eq _ hj, syndrome_eq _ hj, syndrome_eq _ hj]
  simp only [valueAt, symbolsOf, chkSym_xor, iterate_timesAlpha_xor _ (chkSym_lt _ _) (chkSym_lt _ _)]
  ac_rfl

theorem rsStep_bounded {r : Registers} (h : r.bounded) (d : Byte) : Registers.bounded (rsStep r d) := by
  obtain ⟨h1, h2, h3, h4⟩ := h
  have hf : r.1 ^^^ d.toNat < 256 := xor_lt_256 h1 d.isLt
  exact ⟨xor_lt_256 h2 (gfMul_lt hf _), xor_lt_256 h3 (gfMul_lt hf _), xor_lt_256 h4 (gfMul_lt hf _), gfMul_lt hf _⟩

/-- The generator polynomial is zero at the four powers (R321). -/
theorem valueAt_generator : ∀ f < 256, ∀ j < 4,
    timesAlpha^[3 * j] (gfMul f 0x0F) ^^^ timesAlpha^[2 * j] (gfMul f 0x36) ^^^ timesAlpha^[j] (gfMul f 0x78) ^^^ gfMul f 0x40 =
      timesAlpha^[4 * j] f := by decide +kernel

/-- One more symbol multiplies the value by the power and adds the symbol, four places up. -/
theorem valueAt_rsStep {r : Registers} (h : r.bounded) (d : Byte) {j : Nat} (hj : j < 4) :
    valueAt j (rsStep r d) = timesAlpha^[j] (valueAt j r) ^^^ timesAlpha^[4 * j] d.toNat := by
  obtain ⟨h1, h2, h3, h4⟩ := h
  have hd : d.toNat < 256 := d.isLt
  have hf : r.1 ^^^ d.toNat < 256 := xor_lt_256 h1 hd
  have hpow (n : Nat) (a : Nat) : timesAlpha^[j] (timesAlpha^[n] a) = timesAlpha^[j + n] a :=
    (Function.iterate_add_apply timesAlpha j n a).symm
  have hgen := valueAt_generator _ hf j hj
  have hlt (n : Nat) {a : Nat} (ha : a < 256) := iterate_timesAlpha_lt n ha
  have hsplit : timesAlpha^[4 * j] (r.1 ^^^ d.toNat) = timesAlpha^[4 * j] r.1 ^^^ timesAlpha^[4 * j] d.toNat :=
    iterate_timesAlpha_xor _ h1 hd
  rw [hsplit] at hgen
  simp only [valueAt, rsStep]
  rw [iterate_timesAlpha_xor _ h2 (gfMul_lt hf _), iterate_timesAlpha_xor _ h3 (gfMul_lt hf _),
    iterate_timesAlpha_xor _ h4 (gfMul_lt hf _),
    iterate_timesAlpha_xor j (xor_lt_256 (xor_lt_256 (hlt _ h1) (hlt _ h2)) (hlt _ h3)) h4,
    iterate_timesAlpha_xor j (xor_lt_256 (hlt _ h1) (hlt _ h2)) (hlt _ h3), iterate_timesAlpha_xor j (hlt _ h1) (hlt _ h2),
    hpow, hpow, hpow, show j + 3 * j = 4 * j by omega, show j + 2 * j = 3 * j by omega, show j + j = 2 * j by omega]
  generalize gfMul (r.1 ^^^ d.toNat) 0x40 = g4 at hgen ⊢
  generalize timesAlpha^[3 * j] (gfMul (r.1 ^^^ d.toNat) 0x0F) = g1 at hgen ⊢
  generalize timesAlpha^[2 * j] (gfMul (r.1 ^^^ d.toNat) 0x36) = g2 at hgen ⊢
  generalize timesAlpha^[j] (gfMul (r.1 ^^^ d.toNat) 0x78) = g3 at hgen ⊢
  calc timesAlpha^[3 * j] r.2.1 ^^^ g1 ^^^ (timesAlpha^[2 * j] r.2.2.1 ^^^ g2) ^^^ (timesAlpha^[j] r.2.2.2 ^^^ g3) ^^^ g4
      = timesAlpha^[3 * j] r.2.1 ^^^ timesAlpha^[2 * j] r.2.2.1 ^^^ timesAlpha^[j] r.2.2.2 ^^^ (g1 ^^^ g2 ^^^ g3 ^^^ g4) := by
        ac_rfl
    _ = timesAlpha^[3 * j] r.2.1 ^^^ timesAlpha^[2 * j] r.2.2.1 ^^^ timesAlpha^[j] r.2.2.2 ^^^
          (timesAlpha^[4 * j] r.1 ^^^ timesAlpha^[4 * j] d.toNat) := by rw [hgen]
    _ = _ := by ac_rfl

/-- The value at a power of symbols read one after another, from a value. -/
def valueFold (j : Nat) (v : Nat) (l : List Nat) : Nat := l.foldl (fun v d => timesAlpha^[j] v ^^^ timesAlpha^[4 * j] d) v

theorem valueFold_lt (j : Nat) {l : List Nat} (hl : ∀ d ∈ l, d < 256) {v : Nat} (hv : v < 256) : valueFold j v l < 256 := by
  induction l generalizing v with
  | nil => exact hv
  | cons d l ih =>
    exact ih (fun a ha => hl a (List.mem_cons_of_mem _ ha))
      (xor_lt_256 (iterate_timesAlpha_lt _ hv) (iterate_timesAlpha_lt _ (hl d List.mem_cons_self)))

theorem valueAt_foldl {j : Nat} (hj : j < 4) (bs : List Byte) {r : Registers} (h : r.bounded) :
    valueAt j (bs.foldl rsStep r) = valueFold j (valueAt j r) (bs.map BitVec.toNat) := by
  induction bs generalizing r with
  | nil => rfl
  | cons d bs ih => rw [List.foldl_cons, ih (rsStep_bounded h d), valueAt_rsStep h d hj]; rfl

/-- Values of symbols that differ in one place differ by its power. -/
theorem valueFold_xor (j : Nat) (f g : Nat → Nat) (hf : ∀ k, f k < 256) (hg : ∀ k, g k < 256) {i e : Nat}
    (hat : f i ^^^ g i = e) (hother : ∀ k, k ≠ i → f k = g k) (n : Nat) :
    valueFold j 0 ((List.range n).map f) ^^^ valueFold j 0 ((List.range n).map g) =
      if i < n then timesAlpha^[j * (n - 1 - i) + 4 * j] e else 0 := by
  have hlt (h : Nat → Nat) (hh : ∀ k, h k < 256) (n : Nat) : valueFold j 0 ((List.range n).map h) < 256 :=
    valueFold_lt j (by simpa using fun k _ => hh k) (by decide)
  have hnext (h : Nat → Nat) (n : Nat) : valueFold j 0 ((List.range (n + 1)).map h) =
      timesAlpha^[j] (valueFold j 0 ((List.range n).map h)) ^^^ timesAlpha^[4 * j] (h n) := by
    simp [List.range_succ, valueFold]
  induction n with
  | zero => simp [valueFold]
  | succ n ih =>
    have hstep : valueFold j 0 ((List.range (n + 1)).map f) ^^^ valueFold j 0 ((List.range (n + 1)).map g) =
        timesAlpha^[j] (valueFold j 0 ((List.range n).map f) ^^^ valueFold j 0 ((List.range n).map g)) ^^^
          timesAlpha^[4 * j] (f n ^^^ g n) := by
      rw [hnext, hnext, iterate_timesAlpha_xor _ (hlt f hf n) (hlt g hg n), iterate_timesAlpha_xor _ (hf n) (hg n)]
      ac_rfl
    rw [hstep, ih]
    rcases Nat.lt_trichotomy n i with hbefore | rfl | hafter
    · rw [hother n hbefore.ne, Nat.xor_self, if_neg (by omega), if_neg (by omega), iterate_timesAlpha_zero,
        iterate_timesAlpha_zero]
      rfl
    · rw [hat, if_neg (Nat.lt_irrefl n), if_pos (Nat.lt_succ_self n), iterate_timesAlpha_zero, Nat.zero_xor,
        show n + 1 - 1 - n = 0 by omega, Nat.mul_zero, Nat.zero_add]
    · rw [hother n hafter.ne', Nat.xor_self, if_pos hafter, if_pos (by omega), iterate_timesAlpha_zero, Nat.xor_zero,
        ← Function.iterate_add_apply, show n + 1 - 1 - i = (n - 1 - i) + 1 by omega, Nat.mul_succ]
      congr 1
      omega

/-- The bytes of a grain as numbers. -/
def byteOf (g : Grain) (k : Nat) : Nat := (g.extractLsb' (8 * k) 8).toNat

theorem byteOf_lt (g : Grain) (k : Nat) : byteOf g k < 256 := BitVec.isLt _

theorem grainBytes_toNat (g : Grain) : (grainBytes g).map BitVec.toNat = (List.range 32).map (byteOf g) := by
  refine List.ext_getElem (by simp) fun k h _ => ?_
  rw [List.getElem_map, getElem_grainBytes, List.getElem_map, List.getElem_range, byteOf]

/-- The registers after a grain. -/
def registersOf (g : Grain) : Registers := (grainBytes g).foldl rsStep (0, 0, 0, 0)

theorem foldl_rsStep_bounded (bs : List Byte) {r : Registers} (h : r.bounded) : Registers.bounded (bs.foldl rsStep r) := by
  induction bs generalizing r with
  | nil => exact h
  | cons d bs ih => exact ih (rsStep_bounded h d)

theorem bounded_zero : Registers.bounded (0, 0, 0, 0) := by simp [Registers.bounded]

theorem symbolsOf_encode (g : Grain) : symbolsOf (encode g) = registersOf g := by
  obtain ⟨h1, h2, h3, h4⟩ : (registersOf g).bounded := foldl_rsStep_bounded _ bounded_zero
  have henc : (encode g).toNat = (registersOf g).1 + 256 * (registersOf g).2.1 + 65536 * (registersOf g).2.2.1 +
      16777216 * (registersOf g).2.2.2 := by
    rw [encode, BitVec.toNat_ofNat]
    refine Nat.mod_eq_of_lt ?_
    rw [← registersOf]
    omega
  generalize registersOf g = r at henc h1 h2 h3 h4 ⊢
  simp only [symbolsOf, chkSym, bits_eq, henc]
  refine Prod.ext ?_ (Prod.ext ?_ (Prod.ext ?_ ?_)) <;> simp <;> omega

theorem syndrome_encode (g : Grain) {j : Nat} (hj : j < 4) :
    syndrome (encode g) j = valueFold j 0 ((List.range 32).map (byteOf g)) := by
  have hzero : valueAt j (0, 0, 0, 0) = 0 := by simp [valueAt, iterate_timesAlpha_zero]
  rw [syndrome_eq _ hj, symbolsOf_encode, registersOf, valueAt_foldl hj _ bounded_zero, hzero, grainBytes_toNat]

/-- Byte `k` of a symbol put at byte `i` of whole bytes. -/
theorem extract_symbol {w : Nat} (hw : w % 8 = 0) (e : Byte) (i k : Nat) :
    ((e.zeroExtend w : BitVec w) <<< (8 * i)).extractLsb' (8 * k) 8 = if k = i ∧ 8 * k < w then e else 0#8 := by
  refine BitVec.eq_of_getLsbD_eq fun b hb => ?_
  simp only [BitVec.getLsbD_extractLsb', BitVec.getLsbD_shiftLeft, BitVec.truncate_eq_setWidth, BitVec.getLsbD_setWidth, hb,
    decide_true, Bool.true_and]
  by_cases hk : k = i ∧ 8 * k < w
  · obtain ⟨rfl, hlt⟩ := hk
    have hin : 8 * k + b < w := by omega
    have hbit : b < w := by omega
    simp [hin, hbit, hlt]
  · rw [if_neg hk, BitVec.getLsbD_zero]
    by_cases hin : 8 * k + b < w ∧ ¬ 8 * k + b < 8 * i
    · have hhigh : e.getLsbD (8 * k + b - 8 * i) = false := BitVec.getLsbD_of_ge _ _ (by omega)
      simp [hhigh]
    · simp only [not_and_or, not_not] at hin
      rcases hin with hin | hin <;> simp [hin]

/-- A wrong symbol of the data: its place and value, seen from the check symbols. -/
theorem syndrome_data (g : Grain) {i : Nat} (hi : i < 32) (e : Byte) {j : Nat} (hj : j < 4) :
    syndrome (deltaOf (symbolError (codewordOf g) i e)) j = timesAlpha^[j * (35 - i)] e.toNat := by
  have hdelta : deltaOf (symbolError (codewordOf g) i e) =
      encode g ^^^ encode (g ^^^ (e.zeroExtend 256 : Grain) <<< (8 * i)) := by
    simp [deltaOf, symbolError, hi, codewordOf]
  have hbyte (k : Nat) : byteOf g k ^^^ byteOf (g ^^^ (e.zeroExtend 256 : Grain) <<< (8 * i)) k =
      (if k = i ∧ 8 * k < 256 then e else 0#8).toNat := by
    rw [byteOf, byteOf, ← BitVec.toNat_xor, ← extract_symbol (w := 256) rfl]
    congr 1
    ext b hb
    simp
  rw [hdelta, syndrome_xor _ _ hj, syndrome_encode g hj, syndrome_encode _ hj,
    valueFold_xor j _ _ (byteOf_lt _) (byteOf_lt _) (i := i) (by rw [hbyte, if_pos ⟨rfl, by omega⟩])
      (fun k hk => Nat.xor_eq_zero_iff.1 (by rw [hbyte, if_neg (fun h => hk h.1)]; rfl)), if_pos hi]
  rw [show 35 - i = (32 - 1 - i) + 4 by omega, Nat.mul_add, Nat.mul_comm j 4]

/-- A wrong check symbol: its place and value. -/
theorem syndrome_check (g : Grain) {i : Nat} (hi : 32 ≤ i) (hi' : i < 36) (e : Byte) {j : Nat} (hj : j < 4) :
    syndrome (deltaOf (symbolError (codewordOf g) i e)) j = timesAlpha^[j * (35 - i)] e.toNat := by
  have hdelta : deltaOf (symbolError (codewordOf g) i e) = (e.zeroExtend 32 : BitVec 32) <<< (8 * (i - 32)) := by
    have hnot : ¬ i < 32 := by omega
    simp [deltaOf, symbolError, hnot, codewordOf]
  have he := e.isLt
  obtain ⟨k, hk, rfl⟩ : ∃ k < 4, i = 32 + k := ⟨i - 32, by omega, by omega⟩
  have hsym (n : Nat) (hn : n < 4) : chkSym ((e.zeroExtend 32 : BitVec 32) <<< (8 * k)) n = if n = k then e.toNat else 0 := by
    have hbyte := congrArg BitVec.toNat (extract_symbol (w := 32) rfl e k n)
    rw [BitVec.extractLsb'_toNat] at hbyte
    rw [chkSym, bits, show 8 * n + 7 + 1 - 8 * n = 8 by omega, hbyte]
    split
    · next h => rw [if_pos h.1]
    · next h => rw [if_neg fun hnk => h ⟨hnk, by omega⟩]; rfl
  rw [hdelta, syndrome_eq _ hj, Nat.add_sub_cancel_left]
  simp only [valueAt, symbolsOf, hsym 0 (by decide), hsym 1 (by decide), hsym 2 (by decide), hsym 3 (by decide)]
  interval_cases k <;> simp [iterate_timesAlpha_zero, Nat.mul_comm]

/-- The syndromes of one wrong symbol are its multiples by the powers of its place. -/
structure OneError (d : BitVec 32) (x : Nat) (e : Nat) : Prop where
  zero : syndrome d 0 = e
  one : syndrome d 1 = timesAlpha^[x] e
  two : syndrome d 2 = timesAlpha^[x] (timesAlpha^[x] e)
  three : syndrome d 3 = timesAlpha^[x] (timesAlpha^[x] (timesAlpha^[x] e))

theorem oneError_of_symbolError (g : Grain) {i : Nat} (hi : i < 36) (e : Byte) :
    OneError (deltaOf (symbolError (codewordOf g) i e)) (35 - i) e.toNat := by
  have hsyn {j : Nat} (hj : j < 4) :
      syndrome (deltaOf (symbolError (codewordOf g) i e)) j = timesAlpha^[j * (35 - i)] e.toNat := by
    by_cases hdata : i < 32
    · exact syndrome_data g hdata e hj
    · exact syndrome_check g (by omega) hi e hj
  refine ⟨?_, ?_, ?_, ?_⟩
  · rw [hsyn (by decide), Nat.zero_mul]; rfl
  · rw [hsyn (by decide), Nat.one_mul]
  · rw [hsyn (by decide), ← Function.iterate_add_apply, Nat.two_mul]
  · rw [hsyn (by decide), ← Function.iterate_add_apply, ← Function.iterate_add_apply,
      show 3 * (35 - i) = 35 - i + (35 - i) + (35 - i) by omega]

/-- The decoder finds the one error. -/
theorem oneErr_eq {d : BitVec 32} {x e : Nat} (h : OneError d x e) (hx : x < 36) (he : e < 256) (hne : e ≠ 0) :
    oneErr (syndrome d 0) (syndrome d 1) (syndrome d 2) (syndrome d 3) = some [(x, e)] := by
  have hlt (n : Nat) {a : Nat} (ha : a < 256) := iterate_timesAlpha_lt n ha
  rw [h.zero, h.one, h.two, h.three, oneErr, if_neg hne]
  have hat : ∀ y, gfMul (alphaPow y) e = timesAlpha^[y] e := fun y => gfMul_alphaPow y he
  generalize hfind : List.findSome? _ _ = o
  cases o with
  | none =>
    exfalso
    rw [List.findSome?_eq_none_iff] at hfind
    have hnone := hfind x (List.mem_range.2 hx)
    simp only [gfMul_alphaPow x he, gfMul_alphaPow x (hlt x he), gfMul_alphaPow x (hlt x (hlt x he)), and_self, if_true] at hnone
    cases hnone
  | some v =>
    obtain ⟨y, hy, hv⟩ := List.exists_of_findSome?_eq_some hfind
    dsimp only at hv
    split at hv
    · next hmatch =>
      have hxy : y = x := iterate_timesAlpha_unique he hne (List.mem_range.1 hy) hx (by rw [← hat]; exact hmatch.1)
      rw [← hv, hxy]
    · cases hv

/-- What one error leaves of the check symbols is neither nothing nor the poison pattern. -/
theorem not_oneError_zero {x e : Nat} (hne : e ≠ 0) : ¬ OneError 0 x e := by
  intro h
  have hzero : syndrome 0 0 = 0 := by decide +kernel
  exact hne (h.zero.symm.trans hzero)

theorem not_oneError_poison : ∀ x < 36, ¬ OneError poisonPattern x (syndrome poisonPattern 0) := by
  have hcheck : ∀ x < 36, timesAlpha^[x] (syndrome poisonPattern 0) = syndrome poisonPattern 1 →
      timesAlpha^[x] (syndrome poisonPattern 1) ≠ syndrome poisonPattern 2 := by decide +kernel
  intro x hx h
  exact hcheck x hx h.one.symm (by rw [h.one, h.two])

/-- One error is corrected, whatever the mode (Table 16-2). -/
theorem classify_oneError (scrub : Bool) {d : BitVec 32} {x e : Nat} (h : OneError d x e) (hx : x < 36) (he : e < 256)
    (hne : e ≠ 0) : classify scrub d = .corrected (errMask [(x, e)]) := by
  have hzero : d ≠ 0 := fun hd => not_oneError_zero hne (hd ▸ h)
  have hpoison : d ≠ poisonPattern := by
    rintro rfl
    have := h.zero
    exact not_oneError_poison x hx (this ▸ h)
  have hnear : nearest d = some [(x, e)] := by
    rw [nearest, if_neg hzero]
    dsimp only
    rw [oneErr_eq h hx he hne]
  rw [classify, if_neg hzero, if_neg hpoison, hnear]
  rfl

/-- The mask of an error at a symbol gives the data back. -/
theorem symbolError_errMask (g : Grain) {i : Nat} (hi : i < 36) (e : Byte) :
    (symbolError (codewordOf g) i e).data ^^^ errMask [(35 - i, e.toNat)] = g := by
  by_cases hdata : i < 32
  · have hmask : errMask [(35 - i, e.toNat)] = (e.zeroExtend 256 : Grain) <<< (8 * i) := by
      refine BitVec.eq_of_toNat_eq ?_
      have hplace : 35 - (35 - i) = i := by omega
      simp [errMask, show 4 ≤ 35 - i by omega, hplace, Nat.shiftLeft_eq]
    rw [hmask, symbolError, if_pos hdata]
    simp [codewordOf]
  · have hmask : errMask [(35 - i, e.toNat)] = 0 := by
      simp [errMask, show ¬ 4 ≤ 35 - i by omega]
    rw [hmask, symbolError, if_neg hdata]
    simp [codewordOf]

/-- Settles O46: the difference that one wrong symbol leaves is a single error, which the decoder finds and its mask undoes. -/
theorem oneSymbolErrorsAreCorrected : Obligations.OneSymbolErrorsAreCorrected := by
  unfold Obligations.OneSymbolErrorsAreCorrected
  intro g scrub
  refine ⟨?_, ?_, fun i hi e hne => ⟨_, classify_oneError scrub (oneError_of_symbolError g hi e) (by omega) e.isLt ?_,
    symbolError_errMask g hi e⟩⟩
  · simp [deltaOf, codewordOf, classify]
  · have hdelta : deltaOf (poisonOf g) = poisonPattern := by simp [deltaOf, poisonOf]
    rw [hdelta]
    rfl
  · exact fun hzero => hne (BitVec.eq_of_toNat_eq hzero)

end Sys2Proof.Machine
end
section
/-!
PROOFS. The integrity commands (R330, R331, R339, R344, R345) and the visits of the scrubber (R328, R329).
-/
namespace Sys2Proof.Machine

open Sys2Proof

/-! ### CHECK_FRACTION (R339) -/

/-- CHECK_FRACTION stores both fractions and ends a running escalation. -/
theorem exec_checkFraction_of_pass {s : State} {cx : Nat} {r : Running} (hturn : turnOf s cx 0x0801 = some r)
    (hclear : Clear r.pkt [(8, 15, 0)]) (hcrane : r.pkt.at 64 1 ≤ 5) (hberth : r.pkt.at 65 1 ≤ 5) :
    exec (.checkFraction cx) s = .next (complete
      { (setFld (setFld s rInCheckCfg 2 0 (r.pkt.at 64 1)) rInCheckCfg 6 4 (r.pkt.at 65 1)) with
        integ := { s.integ with escWalks := 0, escBerth := [] } } cx stDONE 0) := by
  have hrow : exec (.checkFraction cx) s = execCheckFraction cx s := rfl
  have hparams : AllPass [(decide (5 < r.pkt.at 64 1) || decide (5 < r.pkt.at 65 1), 8)] := by simp [hcrane, hberth]
  have hcheck := checkFail_none hclear hparams (List.forall_mem_nil _)
  rw [hrow, execCheckFraction]
  refine next_congr ?_
  rw [hturn]
  dsimp only
  rw [hcheck]
  rfl

/-! ### FIELD_TEST (R344) -/

/-- What the hardware runs for a FIELD_TEST. -/
def testRunOf (s : State) (r : Running) (errors : List TestError) : TestRun :=
  { kind := r.pkt.at 64 1, package := if r.pkt.at 65 1 = 0 then none else some (tget s.integ.packages (r.pkt.at 65 1) []),
    test := r.pkt.at 72 2, seed := r.cseed, errors := errors }

/-- What a FIELD_TEST leaves: the state, its records and the number of failing units. -/
def testResult (s : State) (r : Running) (errors : List TestError) : State × List Byte × Nat :=
  (maskBits (r.pkt.at 66 2) 16).foldl (testQuay (testRunOf s r errors) (r.pkt.at 68 4)) (s, [], 0)

/-- Where its checks pass, a FIELD_TEST with rounds to run, for units that are free, writes its records. -/
theorem exec_fieldTest_of_pass {s : State} {cx : Nat} {r : Running} (hturn : turnOf s cx 0x0802 = some r)
    (hclear : Clear r.pkt [(8, 63, 0), (9, 15, 0), (10, 43, 0)]) (hkind : r.pkt.at 64 1 ≤ 1)
    (hpackage : r.pkt.at 65 1 = 0 ∨ (tget? s.integ.packages (r.pkt.at 65 1)).isSome = true)
    (hquays : (maskBits (r.pkt.at 66 2) 16).all (fun q => decide (q < quays s.part)) = true)
    (haligned : r.pkt.at 80 8 % 2 ^ 44 % 32 = 0)
    (hinside : leavesRegion s (r.pkt.at 80 8 % 2 ^ 44) (32 * (maskBits (r.pkt.at 66 2) 16).length) = false)
    (hright : writeDenied s r.pkt (r.pkt.at 80 8 % 2 ^ 44) (32 * (maskBits (r.pkt.at 66 2) 16).length) = false)
    (hrounds : r.pkt.at 68 4 ≠ 0)
    (hcranes : r.pkt.at 64 1 = 1 ∨ (maskBits (r.pkt.at 66 2) 16).any (craneWalks s) = false)
    (hbanks : r.pkt.at 64 1 = 0 ∨ (maskBits (r.pkt.at 66 2) 16).any (testWaits s) = false) (errors : List TestError) :
    exec (.fieldTest cx errors) s = .next (whole s fun _ =>
      complete (writeBytes (testResult s r errors).1 (r.pkt.at 80 8 % 2 ^ 44) (testResult s r errors).2.1) cx stDONE
        (testResult s r errors).2.2) := by
  have hrow : exec (.fieldTest cx errors) s = execFieldTest cx errors s := rfl
  have hpresent : (maskBits (r.pkt.at 66 2) 16).any (fun q => decide (quays s.part ≤ q)) = false := by
    simpa using hquays
  have hslot : (r.pkt.at 65 1 != 0 && (tget? s.integ.packages (r.pkt.at 65 1)).isNone) = false := by
    rcases hpackage with hzero | hsome
    · simp [hzero]
    · simp [hsome]
  have hparams : AllPass
      [(decide (1 < r.pkt.at 64 1) || (r.pkt.at 65 1 != 0 && (tget? s.integ.packages (r.pkt.at 65 1)).isNone) ||
          (maskBits (r.pkt.at 66 2) 16).any (fun q => decide (quays s.part ≤ q)), 8),
        (decide (r.pkt.at 80 8 % 2 ^ 44 % 32 ≠ 0) ||
          leavesRegion s (r.pkt.at 80 8 % 2 ^ 44) (32 * (maskBits (r.pkt.at 66 2) 16).length), 10)] := by
    simp only [AllPass, List.forall_mem_cons, hpresent, hslot, haligned, hinside]
    simp [hkind]
  have hcheck := checkFail_of_granted hclear hparams (List.forall_mem_nil _) hright
  have hnoWalk : ¬ (r.pkt.at 64 1 = 0 ∧ (maskBits (r.pkt.at 66 2) 16).any (craneWalks s) = true) := by
    rcases hcranes with hone | hfree
    · simp [hone]
    · simp only [hfree, Bool.false_eq_true, and_false, not_false_eq_true]
  have hnoWait : ¬ (r.pkt.at 64 1 = 1 ∧ (maskBits (r.pkt.at 66 2) 16).any (testWaits s) = true) := by
    rcases hbanks with hzero | hfree
    · simp [hzero]
    · simp only [hfree, Bool.false_eq_true, and_false, not_false_eq_true]
  rw [hrow, execFieldTest]
  refine next_whole_congr ?_
  simp only [hturn, hcheck]
  rw [if_neg hrounds, if_neg hnoWalk, if_neg hnoWait]
  rfl

/-! ### PATTERN_LOAD (R345) -/

/-- What PATTERN_LOAD leaves of a package that it could read: the package in its slot, where it verifies. -/
def packageLoaded (cx slot : Nat) (t : State × List (Option Byte)) : State :=
  if packageOk (t.2.map (·.getD 0)) then
    complete { t.1 with integ := { t.1.integ with packages := tset t.1.integ.packages slot (t.2.map (·.getD 0)) } } cx stDONE 0
  else complete t.1 cx stDENIED 0

/-- Where its checks pass, PATTERN_LOAD reads its package and judges it. -/
theorem exec_patternLoad_of_pass {s : State} {cx : Nat} {r : Running} (hturn : turnOf s cx 0x0803 = some r)
    (hclear : Clear r.pkt [(8, 7, 0), (9, 43, 0), (10, 31, 0)]) (hslot : r.pkt.at 64 1 ≠ 0) (hslots : r.pkt.at 64 1 ≤ 4)
    (hsource : badSource s (r.pkt.at 72 8 % 2 ^ 44) (r.pkt.at 80 4) = false) (hsize : r.pkt.at 80 4 ≤ 1048576)
    (hright : readDenied s r.pkt (r.pkt.at 72 8 % 2 ^ 44) (r.pkt.at 80 4) = false) (hsome : r.pkt.at 80 4 ≠ 0)
    (hread : tableBad (readTable s (r.pkt.at 72 8 % 2 ^ 44) (r.pkt.at 80 4)).2 = false) :
    exec (.patternLoad cx) s = .next (whole s fun _ =>
      packageLoaded cx (r.pkt.at 64 1) (readTable s (r.pkt.at 72 8 % 2 ^ 44) (r.pkt.at 80 4))) := by
  have hrow : exec (.patternLoad cx) s = execPatternLoad cx s := rfl
  have hparams : AllPass [(r.pkt.at 64 1 == 0 || decide (4 < r.pkt.at 64 1), 8),
      (badSource s (r.pkt.at 72 8 % 2 ^ 44) (r.pkt.at 80 4), 9), (decide (1048576 < r.pkt.at 80 4), 10)] := by
    simp only [AllPass, List.forall_mem_cons, hsource]
    simp [hslot, hslots, hsize]
  have hcheck := checkFail_of_granted hclear hparams (List.forall_mem_nil _) hright
  rw [hrow, execPatternLoad]
  refine next_whole_congr ?_
  simp only [hturn, hcheck]
  rw [if_neg hsome, hread]
  rfl

/-! ### ROW_REPAIR (R330) -/

/-- A ROW_REPAIR that has not begun its copy is judged as a command whose turn has come. -/
theorem turnIn_of_turnOf {s : State} {cx op : Nat} {r : Running} {later : Phase → Bool} (hturn : turnOf s cx op = some r)
    (hphase : later r.phase = false) : turnIn s cx op later = some r := by
  obtain ⟨hcmd, -⟩ := turnOf_some hturn
  rw [turnIn, hcmd]
  dsimp only
  rw [if_neg (by simp [hphase]), hturn]

/-- A command in its later phase goes on while the engine that serves it runs. -/
theorem turnIn_of_later {s : State} {cx op : Nat} {r : Running} {later : Phase → Bool} (hcmd : cmdOf? s cx = some r)
    (hop : r.pkt.opcode = op) (hphase : later r.phase = true) (hserved : r.fast = true ∨ hmRuns s = true) :
    turnIn s cx op later = some r := by
  rw [turnIn, hcmd]
  dsimp only
  rw [if_pos ⟨hop, hphase⟩, if_pos hserved]

/-- Where its checks pass, ROW_REPAIR of a bank that does not run begins its copy, unless all spare rows are in use. -/
theorem exec_rowRepair_of_pass {s : State} {cx : Nat} {r : Running} (hturn : turnOf s cx 0x0804 = some r)
    (hclear : Clear r.pkt [(8, 13, 0), (8, 63, 32)]) {b : Nat} (hb : b = r.pkt.at 64 2 % 16384) (hbank : b < banksOf s.part)
    (hrow : r.pkt.at 68 4 ≤ 49151) (hrests : bankRuns s (b) = false) :
    exec (.rowRepair cx) s = .next (whole s fun _ =>
      if decide (32 ≤ (tget s.integ.repaired (b) []).length) = true then complete s cx stDONE 0xFFFFFFFFFFFFFFFF
      else putCmd s cx { r with phase := .repair }) := by
  have hexec : exec (.rowRepair cx) s = execRowRepair cx s := rfl
  obtain ⟨-, -, hstarted⟩ := turnOf_some hturn
  have hbegins : ¬ r.phase = .repair := by simp [hstarted]
  have hparams : AllPass [(decide (banksOf s.part ≤ b) || decide (49151 < r.pkt.at 68 4), 8)] := by
    simp [hbank, hrow]
  have hcheck := checkFail_none hclear hparams (List.forall_mem_nil _)
  rw [hexec, execRowRepair]
  refine next_whole_congr ?_
  simp only [turnIn_of_turnOf (later := (· == .repair)) hturn (by simp [hbegins])]
  rw [← hb, if_neg hbegins, hcheck, hrests]
  rfl

/-- A ROW_REPAIR that has begun its copy ends it, and the map switches to the next spare row while there is one. -/
theorem exec_rowRepair_of_repair {s : State} {cx : Nat} {r : Running} (hcmd : cmdOf? s cx = some r)
    (hphase : r.phase = .repair) (hop : r.pkt.opcode = 0x0804) (hserved : r.fast = true ∨ hmRuns s = true)
    {b : Nat} (hb : b = r.pkt.at 64 2 % 16384) (hspare : (tget s.integ.repaired (b) []).length < 32) :
    exec (.rowRepair cx) s = .next (whole s fun _ => complete (switchRow s (b) (r.pkt.at 68 4)) cx stDONE
      (31 - (tget s.integ.repaired (b) []).length)) := by
  have hexec : exec (.rowRepair cx) s = execRowRepair cx s := rfl
  rw [hexec, execRowRepair]
  refine next_whole_congr ?_
  simp only [turnIn_of_later (later := (· == .repair)) hcmd hop (by simp [hphase]) hserved]
  rw [← hb, if_pos hphase, if_neg (by simpa using hspare)]

/-! ### SCRUB_RANGE (R331) -/

/-- What a SCRUB_RANGE leaves, with the grains that it corrected and poisoned. -/
def rangeScrubbed (s : State) (a n : Nat) : State × Nat × Nat := scrubRange (wakeRange s a n) a n

/-- Where its checks pass, SCRUB_RANGE of a range with no grain that a busy bank writes scrubs it. -/
theorem exec_scrubRange_of_pass {s : State} {cx : Nat} {r : Running} (hturn : turnOf s cx 0x0805 = some r)
    (hclear : Clear r.pkt [(9, 43, 0), (10, 43, 0)]) {a n : Nat} (ha : a = r.pkt.at 72 8 % 2 ^ 44)
    (hn : n = r.pkt.at 80 8 % 2 ^ 44) (haligned : a % 32 = 0) (hview : scrubbable s a n = true) (hgrains : n % 32 = 0)
    (hright : readDenied s r.pkt a n = false) (hsome : n ≠ 0) (hfree : scrubBlocked s a n = false) :
    exec (.scrubRange cx) s = .next (whole s fun _ => complete (rangeScrubbed s a n).1 cx stDONE
      ((rangeScrubbed s a n).2.1 % 4294967296 + (rangeScrubbed s a n).2.2 % 4294967296 * 4294967296)) := by
  have hrow : exec (.scrubRange cx) s = execScrubRange cx s := rfl
  have hparams : AllPass [(decide (a % 32 ≠ 0) || !scrubbable s a n, 9), (decide (n % 32 ≠ 0), 10)] := by
    simp [haligned, hview, hgrains]
  have hcheck := checkFail_of_granted hclear hparams (List.forall_mem_nil _) hright
  rw [hrow, execScrubRange]
  refine next_whole_congr ?_
  simp only [hturn]
  rw [← ha, ← hn, hcheck, hfree]
  dsimp only
  rw [if_neg hsome]
  rfl

/-- Settles O26: each command where its checks pass; ROW_REPAIR in its two phases, with and without a spare row left. -/
theorem integrityCommandsComplete : Obligations.IntegrityCommandsComplete := by
  unfold Obligations.IntegrityCommandsComplete
  refine ⟨?fraction, ?test, ?load, ?begun, ?ended, ?full, ?scrub⟩
  case fraction =>
    intro s cx r hturn hclear hcrane hberth
    exact exec_checkFraction_of_pass hturn hclear hcrane hberth
  case test =>
    intro s cx r errors hturn hclear hkind hpackage hquays haligned hinside hright hrounds hcranes hbanks
    exact exec_fieldTest_of_pass hturn hclear hkind hpackage hquays haligned hinside hright hrounds hcranes hbanks errors
  case load =>
    rintro s cx r t hturn hclear hslot hslots hsource hsize hright hsome rfl hread
    exact exec_patternLoad_of_pass hturn hclear hslot hslots hsource hsize hright hsome hread
  case begun =>
    intro s cx r hturn hclear hbank hrow hrests hspare
    rw [exec_rowRepair_of_pass hturn hclear rfl hbank hrow hrests]
    exact next_whole_congr (if_neg (by simpa using hspare))
  case ended =>
    intro s cx r hcmd hphase hop hserved hspare
    exact exec_rowRepair_of_repair hcmd hphase hop hserved rfl hspare
  case full =>
    intro s cx r hturn hclear hbank hrow hrests hfull
    rw [exec_rowRepair_of_pass hturn hclear rfl hbank hrow hrests]
    exact next_whole_congr (if_pos (by simpa using hfull))
  case scrub =>
    intro s cx r hturn hclear haligned hview hgrains hright hsome hfree
    exact exec_scrubRange_of_pass hturn hclear rfl rfl haligned hview hgrains hright hsome hfree

/-! ### SCRUB_ROW_VISIT (R328, R329) -/

/-- A visit of the scrubber to a quay of an Active harbour that is awake and has an interval. -/
structure ScrubVisit (s : State) (q : Nat) : Prop where
  present : q < quays s.part
  interval : fld s (rQyScrubCfg q) 15 0 ≠ 0
  rested : q ∉ s.pow.doze
  awake : q ∉ s.pow.waking
  active : s.pow.harbour = .active

/-- Such a visit is not dropped. -/
theorem ScrubVisit.served {s : State} {q : Nat} (h : ScrubVisit s q) :
    ¬ (quays s.part ≤ q ∨ fld s (rQyScrubCfg q) 15 0 = 0 ∨ q ∈ s.pow.doze ∨ q ∈ s.pow.waking ∨ s.pow.harbour ≠ .active) := by
  obtain ⟨hpresent, hinterval, hrested, hawake, hactive⟩ := h
  simp [hpresent, hinterval, hrested, hawake, hactive]

/-- The next row in order is scrubbed, or its bank is kept for later while it runs, and the position moves on. -/
theorem exec_scrubRowVisit_of_inOrder {s : State} {q b row : Nat} (h : ScrubVisit s q) (hnext : scrubNext s q = .inOrder b row) :
    exec (.scrubRowVisit q) s = .next (scrubPass (setFld
      (if bankRuns s b then { s with integ := { s.integ with skipped := s.integ.skipped ++ [b] } } else scrubBankRow s b row)
      (rQyScrubCfg q) 57 32 ((scrubPos s q + 1) % scrubVisits)) q) := by
  refine next_congr ((if_neg h.served).trans ?_)
  rw [hnext]

/-- A row that was due is scrubbed and is no longer due. -/
theorem exec_scrubRowVisit_of_due {s : State} {q b row : Nat} (h : ScrubVisit s q) (hnext : scrubNext s q = .due b row) :
    exec (.scrubRowVisit q) s = .next (scrubPass
      { (scrubBankRow s b row) with
        integ := { (scrubBankRow s b row).integ with skipped := (scrubBankRow s b row).integ.skipped.erase b } } q) := by
  refine next_congr ((if_neg h.served).trans ?_)
  rw [hnext]

/-- Settles O27: a visit in order, to a bank that rests and to one that runs, and one that was due. -/
theorem scrubRowVisitCompletes : Obligations.ScrubRowVisitCompletes := by
  unfold Obligations.ScrubRowVisitCompletes
  refine ⟨?rests, ?runs, ?due⟩
  case rests =>
    intro s q b row hpresent hinterval hrested hawake hactive hnext hrests
    rw [exec_scrubRowVisit_of_inOrder ⟨hpresent, hinterval, hrested, hawake, hactive⟩ hnext, if_neg (ne_true_of_eq_false hrests)]
  case runs =>
    intro s q b row hpresent hinterval hrested hawake hactive hnext hruns
    rw [exec_scrubRowVisit_of_inOrder ⟨hpresent, hinterval, hrested, hawake, hactive⟩ hnext, if_pos hruns]
  case due =>
    intro s q b row hpresent hinterval hrested hawake hactive hnext
    exact exec_scrubRowVisit_of_due ⟨hpresent, hinterval, hrested, hawake, hactive⟩ hnext

end Sys2Proof.Machine
end
section
/-!
PROOFS. The continuity commands: records and digests of a set (R353, R355, R363, R368), REPLAY (R360, R361) and snapshots
(R369, R370).
-/
namespace Sys2Proof.Machine

open Sys2Proof

/-! ### CHECKPOINT (R353, R355) -/

/-- Where its checks pass, CHECKPOINT of a set that nothing else copies writes its records; its status says whether one of them
holds poison. -/
theorem exec_checkpoint_of_pass {s : State} {cx : Nat} {r : Running} {x : Pset} (hturn : turnOf s cx 0x0901 = some r)
    (hclear : Clear r.pkt checkpointLayout) {n first count dst : Nat} {hdr : Bool} (hn : n = r.pkt.at 64 2)
    (hhdr : hdr = bit (r.pkt.at 66 1) 0) (hfirst : first = r.pkt.at 68 4) (hcount : count = r.pkt.at 72 4)
    (hdst : dst = r.pkt.at 80 8 % 2 ^ 44) (hset : setOf? s n = some x) (hrange : first + count ≤ x.total)
    (haligned : dst % 32 = 0) (hplace : inSoftware s dst (recordsSize x hdr count) = true)
    (hfits : recordsSize x hdr count ≤ r.pkt.at 88 8)
    (hright : r.pkt.hasRight s rightWrite dst (recordsSize x hdr count) = true) (hsome : count ≠ 0)
    (hfree : copyRuns s cx n = false) :
    exec (.checkpoint cx) s = .next (whole s fun _ =>
      let rs := recordsOf x n hdr first count r.seed
      let s1 := writeWords (readsOf s x hdr first count) dst rs.1
      if rs.2 = 0 then complete s1 cx stDONE (32 * rs.1.length) else complete s1 cx stDATA_POISON rs.2) := by
  have hrow : exec (.checkpoint cx) s = execCheckpoint cx s := rfl
  have hparams : AllPass [(false || decide (x.total < first + count), 8),
      (decide (dst % 32 ≠ 0) || !inSoftware s dst (recordsSize x hdr count), 10),
      (decide (r.pkt.at 88 8 < recordsSize x hdr count), 11)] := by
    simp [hrange, haligned, hplace, hfits]
  have hgranted : (!r.pkt.hasRight s rightWrite dst (recordsSize x hdr count)) = false := by rw [hright]; rfl
  have hcheck := checkFail_of_granted hclear hparams (List.forall_mem_nil _) hgranted
  rw [hrow, execCheckpoint]
  refine next_whole_congr ?_
  simp only [hturn]
  rw [← hn, ← hhdr, ← hfirst, ← hcount, ← hdst, hset]
  dsimp only [Option.isNone_some]
  rw [hcheck]
  dsimp only
  rw [if_neg hsome, hfree]
  rfl

/-! ### SHARD_COPY (R368) -/

/-- Where its checks pass, SHARD_COPY sends every record of the set to its place in another harbour. -/
theorem exec_shardCopy_of_pass {s : State} {cx : Nat} {r : Running} {x : Pset} {h a : Nat}
    (hturn : turnOf s cx 0x0906 = some r) (hclear : Clear r.pkt shardLayout) {n dst : Nat} (hn : n = r.pkt.at 64 2)
    (hdst : dst = r.pkt.at 80 8) (hset : setOf? s n = some x) (haligned : dst % 32 = 0) (haway : expPlace s dst = .away h a)
    (hplace : regionOfRange s.part a (recordsSize x true x.total) = some .dram)
    (hfits : recordsSize x true x.total ≤ r.pkt.at 88 8)
    (hright : globalDenied s r.pkt dst (recordsSize x true x.total) = false) (hfree : copyRuns s cx n = false) :
    exec (.shardCopy cx) s = .next (whole s fun _ =>
      let rs := recordsOf x n true 0 x.total r.seed
      let man := if bit (r.pkt.at 96 2) 15 then some (r.pkt.at 96 2 % 16384, r.pkt.at 98 2) else none
      awaitAcks (sendShard (rs.1.length + 1) (readsOf s x true 0 x.total) cx (gaHarbour dst) (gaLocal dst) man rs.1) cx
        (if rs.2 = 0 then stDONE else stDATA_POISON) (32 * rs.1.length % 4294967296)) := by
  have hrow : exec (.shardCopy cx) s = execShardCopy cx s := rfl
  have hregion : (regionOfRange s.part a (recordsSize x true x.total) != some .dram) = false := by rw [hplace]; rfl
  have hparams : AllPass [(false, 8),
      (decide (dst % 32 ≠ 0) || (regionOfRange s.part a (recordsSize x true x.total) != some .dram), 10),
      (decide (r.pkt.at 88 8 < recordsSize x true x.total), 11)] := by
    rw [hregion]
    simp [haligned, hfits]
  have hcheck := checkFail_of_granted hclear hparams (List.forall_mem_nil _) hright
  rw [hrow, execShardCopy]
  refine next_whole_congr ?_
  simp only [hturn]
  rw [← hn, ← hdst, hset, haway]
  dsimp only [Option.isNone_some]
  rw [hcheck, hfree]
  rfl

/-! ### DIGEST (R363) -/

/-- What DIGEST leaves of what it reads: poisoned weights are counted at their quays (R326). -/
def digestReads (s : State) (x : Pset) : State :=
  countPoison (reachQuays s (List.range x.total))
    (fun k => (((x.con k).bad x.ep.active).filter fun g => decide (g < 256)).length) (List.range x.total)

/-- Where its checks pass, DIGEST reports the digest of a set with weights, or that one of them is poisoned. -/
theorem exec_digest_of_pass {s : State} {cx : Nat} {r : Running} {x : Pset} (hturn : turnOf s cx 0x0904 = some r)
    (hclear : Clear r.pkt [(8, 15, 0)]) (hset : setOf? s (r.pkt.at 64 2) = some x) (hweights : x.isDispatch = false) :
    exec (.digest cx) s = .next (whole s fun _ =>
      (x.setDigest r.seed x.ep.active).elim (complete (digestReads s x) cx stDATA_POISON 0) fun d =>
        complete (digestReads s x) cx stDONE d) := by
  have hrow : exec (.digest cx) s = execDigest cx s := rfl
  have hcheck := checkFail_none hclear (params := [(false, 8)]) (by simp) (List.forall_mem_nil _)
  rw [hrow, execDigest]
  refine next_whole_congr ?_
  simp only [hturn, hset, hweights, hcheck]
  cases x.setDigest r.seed x.ep.active <;> rfl

/-! ### REPLAY (R360, R361) -/

/-- The records of a replay. -/
def replayRecords (x : Pset) (n first count : Nat) (flips : List Flip) : List Replayed :=
  (List.range count).map fun i => replayRecord x n (first + i) (replayFlips x flips i)

/-- The values that the cranes of a replay flush. -/
def replayFlush (x : Pset) (n first count : Nat) (flips : List Flip) : Nat :=
  (replayRecords x n first count flips).foldl (fun m e => m + e.flush) (x.factorFlushes (!x.ep.active) x.ep.step x.sw.carried)

/-- The state in which a replay writes: what it reads and flushes is counted. -/
def replayNoted (s : State) (x : Pset) (n spare first count flush : Nat) : State :=
  noteFlush (modSet (countPoison (reachQuays (reachQuays s (upFrom first count)) ((upFrom first count).map (· + spare)))
    x.replayReads (upFrom first count)) n fun y => y.countSw fun w => { w with cFlush := w.cFlush + flush }) clCrane flush

/-- Where its checks pass and its inputs are unchanged, REPLAY writes the records of its range. -/
theorem exec_replay_of_pass {s : State} {cx : Nat} {r : Running} {x : Pset} (hturn : turnOf s cx 0x0903 = some r)
    (hclear : Clear r.pkt [(8, 23, 0), (8, 63, 32), (9, 31, 0), (10, 43, 0)]) {n first count dst : Nat}
    (hn : n = r.pkt.at 64 2) (hfirst : first = r.pkt.at 68 4) (hcount : count = r.pkt.at 72 4)
    (hdst : dst = r.pkt.at 80 8 % 2 ^ 44) (hset : setOf? s n = some x) (hspare : r.pkt.at 66 1 < quays s.part)
    (hrange : first + count ≤ x.total) (haligned : dst % 32 = 0) (hplace : inSoftware s dst (count * replaySize x) = true)
    (hright : r.pkt.hasRight s rightWrite dst (count * replaySize x) = true) (hsome : count ≠ 0)
    (hsame : replayFault x first count = none) (flips : List Flip) :
    exec (.replay cx flips) s = .next (whole s fun _ =>
      complete (writeWords (replayNoted s x n (r.pkt.at 66 1) first count (replayFlush x n first count flips)) dst
        ((replayRecords x n first count flips).flatMap (·.words))) cx
        (if (upFrom first count).any x.replayBad then stDATA_POISON else stDONE)
        ((replayRecords x n first count flips).filter fun e => !e.same).length) := by
  have hrow : exec (.replay cx flips) s = execReplay cx flips s := rfl
  have hparams : AllPass [(false || decide (quays s.part ≤ r.pkt.at 66 1) || decide (x.total < first + count), 8),
      (decide (dst % 32 ≠ 0) || !inSoftware s dst (count * replaySize x), 10)] := by
    simp [hspare, hrange, haligned, hplace]
  have hgranted : (!r.pkt.hasRight s rightWrite dst (count * replaySize x)) = false := by rw [hright]; rfl
  have hcheck := checkFail_of_granted hclear hparams (List.forall_mem_nil _) hgranted
  rw [hrow, execReplay]
  refine next_whole_congr ?_
  simp only [hturn]
  rw [← hn, ← hfirst, ← hcount, ← hdst, hset]
  dsimp only [Option.isNone_some]
  rw [hcheck]
  dsimp only
  rw [if_neg hsome, hsame]
  rfl

/-! ### Snapshots (R369, R370) -/

/-- The engines armed after a SNAP_ARM of MODE 1, or disarmed after one of MODE 0. -/
def armedAfter (s : State) (p : CmdPkt) : Nat :=
  if p.at 64 1 = 1 then regW s rPlSnapArmed ||| p.at 72 8 else regW s rPlSnapArmed &&& (2 ^ 64 - 1 - p.at 72 8)

/-- Where its checks pass, SNAP_ARM of some engines arms or disarms them. -/
theorem exec_snapArm_of_pass {s : State} {cx : Nat} {r : Running} (hturn : turnOf s cx 0x0905 = some r)
    (hclear : Clear r.pkt [(8, 7, 0), (9, 63, 0)]) (hmode : r.pkt.at 64 1 ≤ 1)
    (hengines : (maskBits (r.pkt.at 72 8) 64).all (fun e => engineListed e && !engineAbsent s e) = true)
    (hsome : r.pkt.at 72 8 ≠ 0) :
    exec (.snapArm cx) s = .next (complete (setRegW s rPlSnapArmed (armedAfter s r.pkt)) cx stDONE (armedAfter s r.pkt)) := by
  have hrow : exec (.snapArm cx) s = execSnapArm cx s := rfl
  have hpresent : (maskBits (r.pkt.at 72 8) 64).any (fun e => !engineListed e || engineAbsent s e) = false := by
    simpa using hengines
  have hparams : AllPass [(decide (1 < r.pkt.at 64 1), 8),
      ((maskBits (r.pkt.at 72 8) 64).any (fun e => !engineListed e || engineAbsent s e), 9)] := by
    rw [hpresent]
    simp [hmode]
  have hcheck := checkFail_none hclear hparams (List.forall_mem_nil _)
  rw [hrow, execSnapArm]
  refine next_congr ?_
  rw [hturn]
  dsimp only
  rw [hcheck]
  dsimp only
  rw [if_neg hsome]
  rfl

/-- Settles O28: each command where its checks pass; CHECKPOINT with and without poison in its records. -/
theorem continuityCommandsComplete : Obligations.ContinuityCommandsComplete := by
  unfold Obligations.ContinuityCommandsComplete
  refine ⟨?clean, ?poisoned, ?shard, ?digest, ?replay, ?arm, ?pin⟩
  case clean =>
    intro s cx r x hturn hclear hset hrange haligned hplace hfits hright hsome hfree hclean
    rw [exec_checkpoint_of_pass hturn hclear rfl rfl rfl rfl rfl hset hrange haligned hplace hfits hright hsome hfree]
    exact next_whole_congr (if_pos hclean)
  case poisoned =>
    intro s cx r x hturn hclear hset hrange haligned hplace hfits hright hsome hfree hpoison
    rw [exec_checkpoint_of_pass hturn hclear rfl rfl rfl rfl rfl hset hrange haligned hplace hfits hright hsome hfree]
    exact next_whole_congr (if_neg hpoison)
  case shard =>
    intro s cx r x h a hturn hclear hset haligned haway hplace hfits hright hfree
    exact exec_shardCopy_of_pass hturn hclear rfl rfl hset haligned haway hplace hfits hright hfree
  case digest =>
    intro s cx r x hturn hclear hset hweights
    exact exec_digest_of_pass hturn hclear hset hweights
  case replay =>
    intro s cx r flips x hturn hclear hset hspare hrange haligned hplace hright hsome hsame
    exact exec_replay_of_pass hturn hclear rfl rfl rfl rfl hset hspare hrange haligned hplace hright hsome hsame flips
  case arm =>
    intro s cx r hturn hclear hmode hengines hsome
    exact exec_snapArm_of_pass hturn hclear hmode hengines hsome
  case pin =>
    intro s hon hpin
    exact next_congr (if_pos ⟨hpin, hon⟩)

end Sys2Proof.Machine
end
section
/-!
PROOFS. Duplicate execution of a consignment and the third crane (R333-R336).
-/
namespace Sys2Proof.Machine

open Sys2Proof

/-- The seal of a recomputed result of consignment k (R335). -/
def checkSeal (x : Pset) (n k : Nat) (bs : List Byte) : BitVec 64 :=
  sealOf n k (x.ep.step + 1) (bs.take (slipLen x.consts.rule)) (bs.drop (slipLen x.consts.rule))

/-- What a crane gives that recomputes a consignment. -/
def recomputed (o : ConOut) (flips : List Flip) : List Byte := flipBytes (o.slip ++ o.stage) flips

/-- The set once the duplicate is counted. -/
def Pset.dupCounted (x : Pset) : Pset := x.countSw fun r => { r with cDup := r.cDup + 1 }

/-- The set once a difference is counted too. -/
def Pset.dupDetected (x : Pset) : Pset := x.dupCounted.countSw fun r => { r with cDetect := r.cDetect + 1 }

/-- The state once the crane of the consignment's quay and its partner have worked. -/
def partnerState (s : State) (n k : Nat) (x : Pset) : State :=
  putSet (useCrane (useCrane s (homeQuay s k)) ((homeQuay s k + 1) % quays s.part)) n x.dupCounted

/-- The state once the third crane has worked too. -/
def thirdState (s : State) (n k : Nat) (x : Pset) : State :=
  useCrane (partnerState s n k x) ((homeQuay s k + 2) % quays s.part)

/-- The state once a difference is counted. -/
def detectedState (s : State) (n k : Nat) (x : Pset) : State := bump (putSet (thirdState s n k x) n x.dupDetected) rInStat 31 16 1

/-- The lane positions in which the partner's result differs from what was written. -/
def partnerDiffs (s : State) (k : Nat) (x : Pset) (partner : List Byte) : List Nat :=
  laneDiffs s.part x.dupCounted (x.dupCounted.writtenBytes k) partner

/-- A difference that no result decides stops the walk. -/
def undecided (s : State) (n k : Nat) (x : Pset) : State :=
  checkStop (escalate (detectedState s n k x) (.lane (homeQuay s k) 0)) n k

/-- After a residue detection two recomputations that agree are written (log entry 89). -/
def residueChecked (s : State) (n k : Nat) (x : Pset) (o : ConOut) (partner third : List Byte) : State :=
  if checkSeal x n k partner = checkSeal x n k third then
    walkEnd (thirdWrites (thirdState s n k x) n k x.dupCounted o third false) n
  else undecided s n k x

/-- A duplicate that agrees passes; else the third result decides whose lanes are charged, and stands where it agrees with the
partner's (R335, R336). -/
def duplicateChecked (s : State) (n k : Nat) (x : Pset) (o : ConOut) (partner third : List Byte) : State :=
  if checkSeal x n k partner = (x.con k).sealWord then walkEnd (passCheck (partnerState s n k x) n k) n
  else if checkSeal x n k third = (x.con k).sealWord then
    walkEnd (passCheck (chargeLanes (detectedState s n k x) ((homeQuay s k + 1) % quays s.part) x.dupDetected k
      (partnerDiffs s k x partner)) n k) n
  else if checkSeal x n k third = checkSeal x n k partner then
    walkEnd (thirdWrites (chargeLanes (detectedState s n k x) (homeQuay s k) x.dupDetected k (partnerDiffs s k x partner)) n k
      x.dupDetected o third true) n
  else undecided s n k x

/-- A consignment of which a recomputation is due: after a residue detection, or for its duplicate (R333, R335). -/
def checkDue (c : Consign) : Bool := c.residue || (c.visited && c.progress && c.selected && !c.checked)

/-- DUPLICATE_CHECK of a consignment of the walk that is due. -/
theorem exec_duplicateCheck_of_due {s : State} {n k : Nat} {x : Pset} {o : ConOut} (hruns : hmRuns s = true)
    (hwalk : s.walk.set = some n) (hset : setOf? s n = some x) (hphase : x.sw.phase = .walking) (hk : k < x.total)
    (hout : x.walkCon k = some o) (hdue : checkDue (x.con k) = true) (partner third : List Flip) :
    exec (.duplicateCheck n k partner third) s = .next (whole s fun _ =>
      if (x.con k).residue then residueChecked s n k x o (recomputed o partner) (recomputed o third)
      else duplicateChecked s n k x o (recomputed o partner) (recomputed o third)) := by
  have hrow : exec (.duplicateCheck n k partner third) s = execDuplicateCheck n k partner third s := rfl
  have hserved : ¬ (s.walk.set ≠ some n || x.sw.phase != .walking || decide (x.total ≤ k) || !hmRuns s ||
      !((x.con k).residue || ((x.con k).visited && (x.con k).progress && (x.con k).selected && !(x.con k).checked))) = true := by
    rw [checkDue] at hdue
    simp only [hdue, hwalk, hphase, hruns]
    simp [hk]
  rw [hrow, execDuplicateCheck]
  refine next_whole_congr ?_
  simp only [hset]
  rw [if_neg hserved, hout]
  rfl

/-- Settles O35: after a residue detection the two recomputations are compared, else each with the consignment's seal. -/
theorem duplicateCheckCompletes : Obligations.DuplicateCheckCompletes := by
  unfold Obligations.DuplicateCheckCompletes
  refine ⟨?residue, ?duplicate⟩
  case residue =>
    intro s n k partner third x o hruns hwalk hset hphase hk hout hresidue
    rw [exec_duplicateCheck_of_due hruns hwalk hset hphase hk hout (by simp [checkDue, hresidue])]
    exact next_whole_congr (if_pos hresidue)
  case duplicate =>
    intro s n k partner third x o hruns hwalk hset hphase hk hout hresidue hvisited hprogress hselected hchecked
    rw [exec_duplicateCheck_of_due hruns hwalk hset hphase hk hout
      (by simp [checkDue, hvisited, hprogress, hselected, hchecked])]
    exact next_whole_congr (if_neg (ne_true_of_eq_false hresidue))

end Sys2Proof.Machine
end
section
/-!
PROOFS. The firmware commands of power and configuration (R387, R389, R407, R408).
-/
namespace Sys2Proof.Machine

open Sys2Proof

/-! ### QUAY_STATE (R387) -/

/-- Where its checks pass, QUAY_STATE of some quays is applied. -/
theorem exec_quayState_of_pass {s : State} {cx : Nat} {r : Running} (hturn : turnOf s cx 0x0A01 = some r)
    (hclear : Clear r.pkt [(8, 15, 0), (8, 23, 16)]) (hstate : r.pkt.at 66 1 ≤ 1) (hquays : r.pkt.at 64 2 < 2 ^ quays s.part)
    (hsome : r.pkt.at 64 2 ≠ 0) : exec (.quayState cx) s = .next (settle (applyQuayState s cx r)) := by
  have hrow : exec (.quayState cx) s = execQuayState cx s := rfl
  have hparams : AllPass [(decide (1 < r.pkt.at 66 1 ∨ 2 ^ quays s.part ≤ r.pkt.at 64 2), 8)] := by
    simp only [AllPass, List.forall_mem_singleton, decide_eq_false_iff_not, not_or, Nat.not_lt, Nat.not_le]
    exact ⟨hstate, hquays⟩
  have hcheck := checkFail_none hclear hparams (List.forall_mem_nil _)
  rw [hrow, execQuayState]
  refine next_congr ?_
  rw [hturn]
  dsimp only
  rw [hcheck]
  dsimp only
  rw [if_neg hsome]

/-! ### HARBOUR_MOOR (R389) -/

/-- The state in which HARBOUR_MOOR has been answered. -/
def moorAnswered (s : State) (cx : Nat) (r : Running) : State :=
  complete { s with pow := { s.pow with wakeAfter := r.pkt.at 72 6 } } cx stDONE 0

/-- Where its checks pass, HARBOUR_MOOR of a quiet harbour begins the mooring, or puts it off until its reply is posted. -/
theorem exec_harbourMoor_of_pass {s : State} {cx : Nat} {r : Running} (hturn : turnOf s cx 0x0A02 = some r)
    (hclear : Clear r.pkt [(8, 0, 0), (9, 47, 0)]) (hquiet : moorBusy s cx = false) :
    exec (.harbourMoor cx) s = .next (
      if (winOf s r.pkt.win).held.length < (winOf (moorAnswered s cx r) r.pkt.win).held.length then
        { (moorAnswered s cx r) with pow := { (moorAnswered s cx r).pow with moorReply := some (bit (r.pkt.at 64 1) 0) } }
      else beginMooring (moorAnswered s cx r) (bit (r.pkt.at 64 1) 0)) := by
  have hrow : exec (.harbourMoor cx) s = execHarbourMoor cx s := rfl
  have hcheck : checkFail r.pkt [(8, 0, 0), (9, 47, 0)] [] [] false = none := hclear
  rw [hrow, execHarbourMoor]
  refine next_congr ?_
  rw [hturn]
  dsimp only
  rw [hcheck]
  dsimp only
  rw [hquiet]
  rfl

/-! ### CONFIG_SAVE (R407) -/

/-- CONFIG_SAVE captures the configuration and writes a copy that is not valid yet, when none taken earlier runs. -/
theorem exec_configSave_of_pass {s : State} {cx : Nat} {r : Running} (hturn : turnOf s cx 0x0B01 = some r)
    (hclear : Clear r.pkt []) (hfirst : saveBefore s cx = false) :
    exec (.configSave cx) s = .next (putCmd (writeCopy s (captureConfig s) false) cx
      { r with phase := .save (captureConfig s) }) := by
  have hrow : exec (.configSave cx) s = execConfigSave cx s := rfl
  obtain ⟨hcmd, -, hstarted⟩ := turnOf_some hturn
  have hphase : (cmdOf? s cx).map Running.phase = some .started := by rw [hcmd, Option.map_some, hstarted]
  have hcheck : checkFail r.pkt [] [] [] false = none := hclear
  rw [hrow, execConfigSave]
  refine next_congr ?_
  rw [hphase]
  dsimp only
  rw [hturn]
  dsimp only
  rw [hcheck]
  dsimp only
  rw [hfirst]
  rfl

/-- The state whose written copy is valid and in use. -/
def copySaved (s : State) (q : CfgSave) : State :=
  { (writeCopy s q true) with boot := { (writeCopy s q true).boot with useB := !(writeCopy s q true).boot.useB } }

/-- At its next turn CONFIG_SAVE makes its copy valid and reports its sequence number. -/
theorem exec_configSave_of_save {s : State} {cx : Nat} {r : Running} {q : CfgSave} (hcmd : cmdOf? s cx = some r)
    (hphase : r.phase = .save q) (hruns : hmRuns s = true) :
    exec (.configSave cx) s = .next (complete (copySaved s q) cx stDONE (nextSeq s)) := by
  have hrow : exec (.configSave cx) s = execConfigSave cx s := rfl
  have hsave : (cmdOf? s cx).map Running.phase = some (.save q) := by rw [hcmd, Option.map_some, hphase]
  rw [hrow, execConfigSave]
  refine next_congr ?_
  rw [hsave]
  dsimp only
  rw [if_pos hruns]
  rfl

/-- The copy that becomes valid is the one that was not in use. -/
theorem copySaved_eq (s : State) (q : CfgSave) :
    copySaved s q = { s with boot :=
      if s.boot.useB then
        { s.boot with copyA := { valid := true, seq := BitVec.ofNat 64 (nextSeq s), regs := q.regs, arenas := q.arenas }
                      useB := false }
      else
        { s.boot with copyB := { valid := true, seq := BitVec.ofNat 64 (nextSeq s), regs := q.regs, arenas := q.arenas }
                      useB := true } } := by
  cases huse : s.boot.useB <;> simp only [copySaved, writeCopy, huse] <;> rfl

/-! ### LOGBOOK_READ (R408) -/

/-- Where its checks pass, LOGBOOK_READ of some bytes writes them at its destination. -/
theorem exec_logbookRead_of_pass {s : State} {cx : Nat} {r : Running} (hturn : turnOf s cx 0x0B02 = some r)
    (hclear : Clear r.pkt [(8, 7, 0), (8, 63, 32), (9, 31, 0), (10, 43, 0)]) {area off n dst : Nat} (harea : area = r.pkt.at 64 1)
    (hoff : off = r.pkt.at 68 4) (hn : n = r.pkt.at 72 4) (hdst : dst = r.pkt.at 80 8 % 2 ^ 44) (hlisted : area ≤ 5)
    (hinside : off + n ≤ areaSize area) (haligned : dst % 32 = 0) (hplace : inSoftware s dst n = true)
    (hright : r.pkt.hasRight s rightWrite dst n = true) (hsome : n ≠ 0) :
    exec (.logbookRead cx) s =
      .next (whole s fun _ => complete (writeBytes s dst ((upFrom off n).map (logbookAt s area))) cx stDONE n) := by
  have hrow : exec (.logbookRead cx) s = execLogbookRead cx s := rfl
  have hparams : AllPass [(decide (5 < area) || decide (areaSize area < off + n), 8),
      (decide (dst % 32 ≠ 0) || !inSoftware s dst n, 10)] := by
    simp [hlisted, hinside, haligned, hplace]
  have hgranted : (!r.pkt.hasRight s rightWrite dst n) = false := by rw [hright]; rfl
  have hcheck := checkFail_of_granted hclear hparams (List.forall_mem_nil _) hgranted
  rw [hrow, execLogbookRead]
  refine next_whole_congr ?_
  simp only [hturn]
  rw [← harea, ← hoff, ← hn, ← hdst, hcheck]
  dsimp only
  rw [if_neg hsome]

/-- Settles O30: each command where its checks pass; HARBOUR_MOOR with its reply posted and held, CONFIG_SAVE in its two
turns. -/
theorem firmwareCommandsComplete : Obligations.FirmwareCommandsComplete := by
  unfold Obligations.FirmwareCommandsComplete
  refine ⟨?quays, ?posted, ?held, ?captured, ?saved, ?logbook⟩
  case quays =>
    intro s cx r hturn hclear hstate hquays hsome
    exact exec_quayState_of_pass hturn hclear hstate hquays hsome
  case posted =>
    intro s cx r hturn hclear hquiet hposted
    rw [exec_harbourMoor_of_pass hturn hclear hquiet]
    exact next_congr (if_neg (Nat.not_lt.2 hposted))
  case held =>
    intro s cx r hturn hclear hquiet hheld
    rw [exec_harbourMoor_of_pass hturn hclear hquiet]
    exact next_congr (if_pos hheld)
  case captured =>
    intro s cx r hturn hclear hfirst
    exact exec_configSave_of_pass hturn hclear hfirst
  case saved =>
    intro s cx r q hcmd hphase hruns
    rw [exec_configSave_of_save hcmd hphase hruns, copySaved_eq]
    rfl
  case logbook =>
    intro s cx r hturn hclear hlisted hinside haligned hplace hright hsome
    exact exec_logbookRead_of_pass hturn hclear rfl rfl rfl rfl hlisted hinside haligned hplace hright hsome

end Sys2Proof.Machine
end
